-- ==== Sys2Proof/Word.lean ====
section
/-! DEFINITION. The word types of the Bolrid (R2, R3, R281) and their plainest arithmetic. -/

namespace Sys2Proof

/-- A byte of memory. -/
abbrev Byte := BitVec 8
/-- A scalar register's width (R281). -/
abbrev Word := BitVec 64
/-- A vector register's width: 32 lanes of 32 bits (R3). -/
abbrev Vec := BitVec 1024
/-- A mask register: bit n is lane n (R281). -/
abbrev Mask := BitVec 32

/-- The signed reading of the low `w` bits of `n` (R9, R88). -/
def signedOf (w n : Nat) : Int :=
  let a := n % 2 ^ w
  if 2 * a < 2 ^ w then (a : Int) else (a : Int) - (2 ^ w : Nat)

/-- An exact integer reduced modulo `2 ^ w` (R9). -/
def wrapTo (w : Nat) (i : Int) : Nat := (i % (2 ^ w : Nat)).toNat

end Sys2Proof
end

