-- ==== Sys2Proof/Config.lean ====
section
/-! DEFINITION. What the specification leaves open and the model leaves free: constants without a body,
applied to a counter of the state so that each use is a fresh value. Nothing is known of any of them. -/

namespace Sys2Proof

/-- A free choice among alternatives the specification allows (old or new data of R20, R176, R183 and
R202; the entry of a broken group of R115; whether a store of a lost link was performed, R135; a tree
of R469): callers reduce it modulo the number of alternatives.
DESIGN CHOICE, log entry 10. -/
opaque Config.pick : Nat → Nat

/-- A free 64-bit value: the contents of a poisoned word (R269), of a frame register no instruction has
written since the frame was entered (R282, R284), of bytes at the far end of a lost link (R251). -/
opaque Config.freeWord : Nat → Word

/-- The signature the security engine makes of a report's bytes 0..191, read as one number (R461).
DESIGN CHOICE, log entry 11. -/
opaque Config.sign : Nat → BitVec 512

/-- The SHA-512 digest of the fuse map and the logical map made under another (R12, R461). -/
opaque Config.mapDigest : List (BitVec 5 × BitVec 5) → List (BitVec 5 × BitVec 5) → BitVec 512

/-- The public half of the device key, `SEC.DEVKEY` (R461). -/
opaque Config.deviceKey : BitVec 256

/-- Whether an Ed25519 signature of a digest verifies under a public key (R84, R460). -/
opaque Config.verify : BitVec 256 → List Byte → BitVec 512 → Bool

/-- The slots the fuses revoke, `SEC.POLICY.REVOKED` (R460). -/
opaque Config.revokedSlots : BitVec 8

end Sys2Proof
end

