-- ==== Sys2Proof/Syntax.lean ====
section
/-! DEFINITION. The Bolrid's steps as terms: the internal word's fields (R25, R33 to R43), the S
form's fields (R45), the data an event of the part carries, and one constructor of `Instr` for each
row of the opcode table. -/
namespace Sys2Proof

/-- The type codes of R38 that are not reserved. -/
inductive Ty where
  | i8 | i16 | i32 | i64 | ui8 | ui16 | ui32 | ui64 | f32 | bf16 | f16 | nf | i4 | page
  deriving DecidableEq, Repr

/-- The rounding codes of R39 but the illegal 7. -/
inductive Rm where
  | rne | rtz | rdn | rup | rna | stoch | dyn
  deriving DecidableEq, Repr

/-- The operand classes of R33. -/
inductive OpClass where
  | scalar | vector | pred | special
  deriving DecidableEq, Repr

/-- An operand field: a class and a number (R33). Scalar 63 is the literal operand (R34). -/
structure Opd where
  cls : OpClass
  num : BitVec 6
  deriving DecidableEq, Repr

/-- A guard: `p[GRD.P] XOR GRD.N` (R30). -/
structure Guard where
  neg : Bool
  p : BitVec 3
  deriving DecidableEq, Repr

/-- The hint bits of R32. -/
structure Hints where
  db : Bool
  yd : Bool
  stall : BitVec 3
  tr : Bool
  deriving DecidableEq, Repr

/-- The parcel forms of R23. -/
inductive Form where
  | s | m | l
  deriving DecidableEq, Repr

/-- The internal word without its opcode (R25). -/
structure Fields where
  form : Form
  guard : Guard
  hints : Hints
  fd : Opd
  fa : Opd
  fb : Opd
  os : BitVec 8
  sz : BitVec 3
  rm : Rm
  ty : Ty
  lit : BitVec 32
  deriving DecidableEq, Repr

/-- The fields of an S-form parcel but its short opcode (R45). -/
structure SFields where
  t : Bool
  p : BitVec 3
  b : BitVec 6
  a : BitVec 6
  d : BitVec 6
  deriving DecidableEq, Repr

/-- The opcodes of R44. -/
inductive Opcode where
  | nop | br | jmp | call | callr | ret | jp | waitp
  | loop | linc | start | join | exit | yield | trap | defer
  | park | add | sub | mul | mulh | mulhu | div | divu
  | rem | remu | and | or | xor | andn | shl | shr
  | sar | rot | min | max | minu | maxu | clz | ctz
  | popc | bext | bins | sext | zext | mov | movl | sel
  | cmp | pset | pmov | addr | fadd | fsub | fmul | ffma
  | fdiv | fsqrt | fmin | fmax | fabs | fneg | fcmp | fcvt
  | fclass | ld | st | ldv | stv | ldx | stx | atom
  | cas | pref | bbind | acq | rel | btry | fence | lbfence
  | isync | ract | rcon | rwb | rpre | rstat | rref | sbind
  | sfree | sdrain | sstat | iload | irun | iwait | ipoll | idrop
  | send | recv | put | get | coll | bar | barc | vadd
  | vsub | vmul | vfma | vfms | vrcp | vrsq | vsqrt | vexp2
  | vlog2 | vtanh | vmin | vmax | vabs | vneg | vand | vor
  | vxor | vshl | vshr | vsar | vcmp | vsel | vbcast | vext
  | vins | vshuf | vperm | vrot | vred | vscan | vcvt | vcvto
  | vpack | vunpk | vdot | vtag | vargm | viota | vmsk | vcnt
  | vclamp | vqnt | mmas | mmav | mmar | mcommit | mwait | mpoll
  | mcmd | mcap | aballoc | abfree | abzero | abread | abwrite | mtq
  | mstat | wload | wswap | wpass | wres | wchk | wgacc | wcfg
  | wstat | launch | owait | opoll | csrr | csrw | csrs | csrc
  | trapret | tlbinv | evrd | evclr | idle
  deriving DecidableEq, Repr

/-- The 10-bit value of an opcode (R44). -/
def Opcode.code : Opcode → BitVec 10
  | .nop => 0x000
  | .br => 0x001
  | .jmp => 0x002
  | .call => 0x003
  | .callr => 0x004
  | .ret => 0x005
  | .jp => 0x006
  | .waitp => 0x007
  | .loop => 0x008
  | .linc => 0x009
  | .start => 0x00A
  | .join => 0x00B
  | .exit => 0x00C
  | .yield => 0x00D
  | .trap => 0x00E
  | .defer => 0x00F
  | .park => 0x010
  | .add => 0x040
  | .sub => 0x041
  | .mul => 0x042
  | .mulh => 0x043
  | .mulhu => 0x044
  | .div => 0x045
  | .divu => 0x046
  | .rem => 0x047
  | .remu => 0x048
  | .and => 0x049
  | .or => 0x04A
  | .xor => 0x04B
  | .andn => 0x04C
  | .shl => 0x04D
  | .shr => 0x04E
  | .sar => 0x04F
  | .rot => 0x050
  | .min => 0x051
  | .max => 0x052
  | .minu => 0x053
  | .maxu => 0x054
  | .clz => 0x055
  | .ctz => 0x056
  | .popc => 0x057
  | .bext => 0x058
  | .bins => 0x059
  | .sext => 0x05A
  | .zext => 0x05B
  | .mov => 0x05C
  | .movl => 0x05D
  | .sel => 0x05E
  | .cmp => 0x05F
  | .pset => 0x060
  | .pmov => 0x061
  | .addr => 0x062
  | .fadd => 0x0C0
  | .fsub => 0x0C1
  | .fmul => 0x0C2
  | .ffma => 0x0C3
  | .fdiv => 0x0C4
  | .fsqrt => 0x0C5
  | .fmin => 0x0C6
  | .fmax => 0x0C7
  | .fabs => 0x0C8
  | .fneg => 0x0C9
  | .fcmp => 0x0CA
  | .fcvt => 0x0CB
  | .fclass => 0x0CC
  | .ld => 0x100
  | .st => 0x101
  | .ldv => 0x102
  | .stv => 0x103
  | .ldx => 0x104
  | .stx => 0x105
  | .atom => 0x106
  | .cas => 0x107
  | .pref => 0x108
  | .bbind => 0x109
  | .acq => 0x10A
  | .rel => 0x10B
  | .btry => 0x10C
  | .fence => 0x10D
  | .lbfence => 0x10E
  | .isync => 0x10F
  | .ract => 0x140
  | .rcon => 0x141
  | .rwb => 0x142
  | .rpre => 0x143
  | .rstat => 0x144
  | .rref => 0x145
  | .sbind => 0x180
  | .sfree => 0x181
  | .sdrain => 0x182
  | .sstat => 0x183
  | .iload => 0x184
  | .irun => 0x185
  | .iwait => 0x186
  | .ipoll => 0x187
  | .idrop => 0x188
  | .send => 0x189
  | .recv => 0x18A
  | .put => 0x18B
  | .get => 0x18C
  | .coll => 0x18D
  | .bar => 0x18E
  | .barc => 0x18F
  | .vadd => 0x1C0
  | .vsub => 0x1C1
  | .vmul => 0x1C2
  | .vfma => 0x1C3
  | .vfms => 0x1C4
  | .vrcp => 0x1C5
  | .vrsq => 0x1C6
  | .vsqrt => 0x1C7
  | .vexp2 => 0x1C8
  | .vlog2 => 0x1C9
  | .vtanh => 0x1CA
  | .vmin => 0x1CB
  | .vmax => 0x1CC
  | .vabs => 0x1CD
  | .vneg => 0x1CE
  | .vand => 0x1CF
  | .vor => 0x1D0
  | .vxor => 0x1D1
  | .vshl => 0x1D2
  | .vshr => 0x1D3
  | .vsar => 0x1D4
  | .vcmp => 0x1D5
  | .vsel => 0x1D6
  | .vbcast => 0x1D7
  | .vext => 0x1D8
  | .vins => 0x1D9
  | .vshuf => 0x1DA
  | .vperm => 0x1DB
  | .vrot => 0x1DC
  | .vred => 0x1DD
  | .vscan => 0x1DE
  | .vcvt => 0x1DF
  | .vcvto => 0x1E0
  | .vpack => 0x1E1
  | .vunpk => 0x1E2
  | .vdot => 0x1E3
  | .vtag => 0x1E4
  | .vargm => 0x1E5
  | .viota => 0x1E6
  | .vmsk => 0x1E7
  | .vcnt => 0x1E8
  | .vclamp => 0x1E9
  | .vqnt => 0x1EA
  | .mmas => 0x2C0
  | .mmav => 0x2C1
  | .mmar => 0x2C2
  | .mcommit => 0x2C3
  | .mwait => 0x2C4
  | .mpoll => 0x2C5
  | .mcmd => 0x2C6
  | .mcap => 0x2C7
  | .aballoc => 0x2C8
  | .abfree => 0x2C9
  | .abzero => 0x2CA
  | .abread => 0x2CB
  | .abwrite => 0x2CC
  | .mtq => 0x2CD
  | .mstat => 0x2CE
  | .wload => 0x300
  | .wswap => 0x301
  | .wpass => 0x302
  | .wres => 0x303
  | .wchk => 0x304
  | .wgacc => 0x305
  | .wcfg => 0x306
  | .wstat => 0x307
  | .launch => 0x340
  | .owait => 0x341
  | .opoll => 0x342
  | .csrr => 0x380
  | .csrw => 0x381
  | .csrs => 0x382
  | .csrc => 0x383
  | .trapret => 0x384
  | .tlbinv => 0x385
  | .evrd => 0x386
  | .evclr => 0x387
  | .idle => 0x388

/-- Every opcode, in the order of R44. -/
def Opcode.all : List Opcode := [
  .nop, .br, .jmp, .call, .callr, .ret, .jp, .waitp,
  .loop, .linc, .start, .join, .exit, .yield, .trap, .defer,
  .park, .add, .sub, .mul, .mulh, .mulhu, .div, .divu,
  .rem, .remu, .and, .or, .xor, .andn, .shl, .shr,
  .sar, .rot, .min, .max, .minu, .maxu, .clz, .ctz,
  .popc, .bext, .bins, .sext, .zext, .mov, .movl, .sel,
  .cmp, .pset, .pmov, .addr, .fadd, .fsub, .fmul, .ffma,
  .fdiv, .fsqrt, .fmin, .fmax, .fabs, .fneg, .fcmp, .fcvt,
  .fclass, .ld, .st, .ldv, .stv, .ldx, .stx, .atom,
  .cas, .pref, .bbind, .acq, .rel, .btry, .fence, .lbfence,
  .isync, .ract, .rcon, .rwb, .rpre, .rstat, .rref, .sbind,
  .sfree, .sdrain, .sstat, .iload, .irun, .iwait, .ipoll, .idrop,
  .send, .recv, .put, .get, .coll, .bar, .barc, .vadd,
  .vsub, .vmul, .vfma, .vfms, .vrcp, .vrsq, .vsqrt, .vexp2,
  .vlog2, .vtanh, .vmin, .vmax, .vabs, .vneg, .vand, .vor,
  .vxor, .vshl, .vshr, .vsar, .vcmp, .vsel, .vbcast, .vext,
  .vins, .vshuf, .vperm, .vrot, .vred, .vscan, .vcvt, .vcvto,
  .vpack, .vunpk, .vdot, .vtag, .vargm, .viota, .vmsk, .vcnt,
  .vclamp, .vqnt, .mmas, .mmav, .mmar, .mcommit, .mwait, .mpoll,
  .mcmd, .mcap, .aballoc, .abfree, .abzero, .abread, .abwrite, .mtq,
  .mstat, .wload, .wswap, .wpass, .wres, .wchk, .wgacc, .wcfg,
  .wstat, .launch, .owait, .opoll, .csrr, .csrw, .csrs, .csrc,
  .trapret, .tlbinv, .evrd, .evclr, .idle]

/-- The short opcodes of R49. -/
inductive ShortOp where
  | nop | addI64 | subI64 | mulI64 | andI64 | orI64
  | xorI64 | shlI64 | shrI64 | sarI64 | minI64 | maxI64
  | movI64 | cmpI64Eq | cmpI64Ne | cmpI64Lt | cmpI64Ge | cmpI64Ltu
  | cmpI64Geu | ldI64 | ldI32 | stI64 | stI32 | ldv
  | stv | faddF32Rne | fsubF32Rne | fmulF32Rne | ffmaF32Rne | vaddF32Rne
  | vsubF32Rne | vmulF32Rne | vfmaF32Rne | vminF32 | vmaxF32 | vaddI32
  | vsubI32 | vand | vor | vxor | br | ret
  | exit | yield | mcommit | mwait | mpoll
  deriving DecidableEq, Repr

/-- The 8-bit value of a short opcode (R49). -/
def ShortOp.code : ShortOp → BitVec 8
  | .nop => 0x01
  | .addI64 => 0x02
  | .subI64 => 0x03
  | .mulI64 => 0x04
  | .andI64 => 0x05
  | .orI64 => 0x06
  | .xorI64 => 0x07
  | .shlI64 => 0x08
  | .shrI64 => 0x09
  | .sarI64 => 0x0A
  | .minI64 => 0x0B
  | .maxI64 => 0x0C
  | .movI64 => 0x0D
  | .cmpI64Eq => 0x0E
  | .cmpI64Ne => 0x0F
  | .cmpI64Lt => 0x10
  | .cmpI64Ge => 0x11
  | .cmpI64Ltu => 0x12
  | .cmpI64Geu => 0x13
  | .ldI64 => 0x14
  | .ldI32 => 0x15
  | .stI64 => 0x16
  | .stI32 => 0x17
  | .ldv => 0x18
  | .stv => 0x19
  | .faddF32Rne => 0x1A
  | .fsubF32Rne => 0x1B
  | .fmulF32Rne => 0x1C
  | .ffmaF32Rne => 0x1D
  | .vaddF32Rne => 0x1E
  | .vsubF32Rne => 0x1F
  | .vmulF32Rne => 0x20
  | .vfmaF32Rne => 0x21
  | .vminF32 => 0x22
  | .vmaxF32 => 0x23
  | .vaddI32 => 0x24
  | .vsubI32 => 0x25
  | .vand => 0x26
  | .vor => 0x27
  | .vxor => 0x28
  | .br => 0x29
  | .ret => 0x2A
  | .exit => 0x2B
  | .yield => 0x2C
  | .mcommit => 0x2D
  | .mwait => 0x2E
  | .mpoll => 0x2F

/-- Every short opcode, in the order of R49. -/
def ShortOp.all : List ShortOp := [
  .nop, .addI64, .subI64, .mulI64, .andI64, .orI64,
  .xorI64, .shlI64, .shrI64, .sarI64, .minI64, .maxI64,
  .movI64, .cmpI64Eq, .cmpI64Ne, .cmpI64Lt, .cmpI64Ge, .cmpI64Ltu,
  .cmpI64Geu, .ldI64, .ldI32, .stI64, .stI32, .ldv,
  .stv, .faddF32Rne, .fsubF32Rne, .fmulF32Rne, .ffmaF32Rne, .vaddF32Rne,
  .vsubF32Rne, .vmulF32Rne, .vfmaF32Rne, .vminF32, .vmaxF32, .vaddI32,
  .vsubI32, .vand, .vor, .vxor, .br, .ret,
  .exit, .yield, .mcommit, .mwait, .mpoll]

/-- What lies at the other end of a link: a device of the party group by its group position, or
the host over Servex (R135). -/
inductive Peer where
  | device (gpos : BitVec 13)
  | servex
  deriving DecidableEq, Repr

/-- The three writing CSR instructions (R451). -/
inductive CsrKind where
  | w | s | c
  deriving DecidableEq, Repr

/-- An outside request (R136, R137): its address space, VF and target, the virtual address it is made by
where this module translates it (R131), who sent it, and whether the management core makes it by a region-2
DPA, which no gate and no rank map stands before (R109, R136); `queued` says that a sequencer has not performed the
command it becomes when the gate has let it through (R443). -/
structure OutReq where
  asid : BitVec 8
  vf : BitVec 6
  lrn : BitVec 10
  offset : BitVec 28
  va : Option Word
  len : Nat
  requester : Nat
  core : Bool
  queued : Bool
  deriving DecidableEq, Repr

/-- Another rank's ATOM or CAS on this rank's memory (R136, R191, R192): its type, then operation, operand,
rounding mode, draw and `CTX.FPCTL.SAT`, or the expected and the new value. -/
inductive OutAtomic where
  | atom (ty : Ty) (op : BitVec 4) (b : Word) (rm : Rm) (draw : BitVec 32) (sat : Bool)
  | cas (ty : Ty) (old : Word) (new : Word)
  deriving DecidableEq, Repr

/-- A parity mismatch of a transfer attempt: the first group of 144, and how many others mismatch (R162, R163,
R168). -/
structure Parity where
  lanes : Fin 144
  others : Fin 144
  deriving DecidableEq, Repr

/-- How the syndrome of a codeword with wrong bits reads (R164, R165, R473): one bit at a place,
with the bits the delivered word then differs in; two bits; or none, with the differing bits. -/
inductive CellErr where
  | single (word : Fin 128) (bit : Fin 72)
  | double (word : Fin 128)
  | miscorrected (word : Fin 128) (bit : Fin 72) (xor : Word)
  | undetected (word : Fin 128) (xor : Word)
  deriving DecidableEq, Repr

/-- A remote matrix command as it arrives (R388, R389): who sent it, its token, its record and the
issuer's type and descriptors, each with its scale descriptor; `own` when this rank sent it. -/
structure RemoteCmd where
  dev : BitVec 14
  lrn : BitVec 10
  member : Bool
  token : Word
  record : BitVec 512
  ty : Ty
  fmts : Word × Word × Word × Word
  own : Bool
  tag : Nat
  deriving DecidableEq, Repr

/-- What comes back for a remote matrix command (R389): the status word's parts, or a refusal. -/
inductive CmdReply where
  | landed (code : BitVec 8) (dev : BitVec 14) (lrn : BitVec 10)
  | denied
  deriving DecidableEq, Repr

/-- A bit of a plane's cell that has flipped since the load that wrote it (R410): a soft error. -/
structure CellFlip where
  alt : BitVec 2
  row : BitVec 9
  col : BitVec 7
  bit : BitVec 2
  deriving DecidableEq, Repr

/-- The peer's side of a message (R249 to R251): what it has, where its PUT, GET or RECV places bytes, and how the
exchange ends there. -/
structure PeerMsg where
  dev : BitVec 14
  lrn : BitVec 10
  tag : BitVec 16
  code : BitVec 8
  capacity : Nat
  raddr : Option (BitVec 32)
  data : List Byte
  poisoned : List Nat
  deriving DecidableEq, Repr

/-- A chunk that arrives from a peer on a channel (R276). -/
structure Chunk where
  dev : BitVec 14
  lrn : BitVec 10
  ch : BitVec 8
  data : List Byte
  deriving DecidableEq, Repr

/-- News of a collective step (R257, R267): another member's entry to the next entry of its sequence, with its LRN, the
fields R258 compares, its source elements, poison, event counters and regions (R260: SRC, DST, CNTS and RCNTS by rank
offset, an unused one empty), or to an AR's second step; a member's SRC_FREE and LOCAL_READY of the `n`-th step of this
rank's sequence, or a failure of that step; what a rank of the team has written to its own memory, by rank offset
(R260, R272); or this member's next event. -/
inductive StepNews where
  | entered (member : Nat) (lrn : BitVec 10) (key : Word × Word) (src : List Byte) (counts : List Nat) (poisoned : List Nat)
      (counters : List (BitVec 32)) (regions : List (BitVec 28 × Nat))
  | again (member : Nat)
  | sent (n : Nat) (member : Nat)
  | failed (n : Nat) (cause : BitVec 4)
  | wrote (dev : BitVec 14) (lrn : BitVec 10) (offset : BitVec 28) (data : List Byte)
  | srcFree
  | localReady
  | allDone
  deriving DecidableEq, Repr

/-- What the directory of a beacon does (R198, R199, R202, R203): it grants its oldest request; or a context of another
rank asks for the beacon, tries it, takes its request back, or releases it, an exclusive release with the words it
publishes. -/
inductive BeaconNews where
  | oldest
  | asked (lrn : BitVec 10) (ctx : Fin 11) (excl : Bool)
  | tried (lrn : BitVec 10) (ctx : Fin 11) (excl : Bool)
  | withdrawn (lrn : BitVec 10) (ctx : Fin 11)
  | released (lrn : BitVec 10) (ctx : Fin 11) (excl : Bool) (words : List (Nat × Word))
  deriving DecidableEq, Repr

/-- What a stop in progress meets (R136, R137, R276): nothing new; a gate that refuses its element with a
PAGE_PERM reason; or what a peer's end of a chunk send comes to: taken, longer than the receiving stop's LEN, or no
member of the party or its group. -/
inductive StopNews where
  | own
  | refused (reason : BitVec 4)
  | taken
  | tooLong
  | noMember
  deriving DecidableEq, Repr

/-- Which access in flight, or stream, its home has done with, and the reason of another rank's gate that refuses it
instead (R123, R137). -/
structure AtHome (α : Type) where
  which : α
  refused : Option (BitVec 4)
  deriving DecidableEq, Repr

/-- Which stop in progress goes on, and what it meets. -/
structure StopTurn where
  which : Nat
  news : StopNews
  deriving DecidableEq, Repr

/-- Which beacon's directory acts, by the place of the beacon, and how. -/
structure BeaconTurn where
  place : Nat
  news : BeaconNews
  deriving DecidableEq, Repr

/-- How many pages a write of XLT.INV names, and its SCOPE (R121). -/
structure InvPages where
  count : BitVec 20
  scope : BitVec 2
  deriving DecidableEq, Repr

/-- A slot record as it is written, and the address space that a record of another site is in (R424, R427). -/
structure SlotWrite where
  bits : BitVec 256
  asid : BitVec 8
  deriving DecidableEq, Repr

/-- A near section of an image, of which every rank of a party receives its own copy at its first bind (R65, R73,
R87): its near address, its bytes, and its RANKREL fields (R82), each an offset with the near address of S + A. -/
structure NearSection where
  addr : BitVec 32
  data : List Byte
  rankrel : List (Nat × BitVec 32)
  deriving DecidableEq, Repr

/-- An image as the loader checks it (R77 to R84, R460): the bytes of its file. -/
structure LoiImage where
  file : List Byte
  deriving DecidableEq, Repr

/-- A launch packet as it arrives, with the image it names. -/
structure LaunchArrival where
  bits : BitVec 512
  image : LoiImage
  deriving DecidableEq, Repr

/-- What firmware, the loader and the base die hand a rank at dispatch (R65, R425, R430): the site, and for a
first bind the party's packet, record and group facts and its near sections. -/
structure BindInfo where
  site : BitVec 10
  slot : Fin 12
  packet : BitVec 512
  member : BitVec 23
  size : Nat
  lrns : List (BitVec 10 × BitVec 10)
  key : BitVec 256
  near : List NearSection
  deriving DecidableEq, Repr

/-- How a start goes (R455, R456, R458, R460): the fuse map and the trusted keys read at step 2, each fused slot's key
identifier and public key; the sites that the discovery flood does not reach within 1 ms; the firmware image and its
signature; and the step that fails by itself, if one does. -/
structure BootRun where
  fused : List (BitVec 5 × BitVec 5)
  keys : List (Option (Word × BitVec 256))
  unreached : List (BitVec 5 × BitVec 5)
  firmware : List Byte
  fwSig : BitVec 512
  failsAt : Option (BitVec 4)
  deriving DecidableEq, Repr

/-- The configuration and system registers whose writes have no behaviour of their own (R451, R111,
R127, R441, R446, R460). -/
inductive CfgReg where
  | xltAs (asid : BitVec 8)
  | fqBase (vf : BitVec 6)
  | seqWdog (q : Fin 4)
  | saveHost
  | secPolicy
  | fmtFd (asid : BitVec 8) (n : BitVec 6)
  | ctxReg (c : Fin 11) (n : BitVec 12) (k : CsrKind)
  deriving DecidableEq, Repr

/-- One constructor per row of the opcode table: the 181 instructions of R44, the 47 S forms of R49
and the part's 80 events. -/
inductive Instr where
  | nop (w : Fields)
  | br (w : Fields)
  | jmp (w : Fields)
  | call (w : Fields)
  | callr (w : Fields)
  | ret (w : Fields)
  | jp (w : Fields)
  | waitp (w : Fields)
  | loop (w : Fields)
  | linc (w : Fields)
  | start (w : Fields)
  | join (w : Fields)
  | exit (w : Fields)
  | yield (w : Fields)
  | trap (w : Fields)
  | defer (w : Fields)
  | park (w : Fields)
  | add (w : Fields)
  | sub (w : Fields)
  | mul (w : Fields)
  | mulh (w : Fields)
  | mulhu (w : Fields)
  | div (w : Fields)
  | divu (w : Fields)
  | rem (w : Fields)
  | remu (w : Fields)
  | and (w : Fields)
  | or (w : Fields)
  | xor (w : Fields)
  | andn (w : Fields)
  | shl (w : Fields)
  | shr (w : Fields)
  | sar (w : Fields)
  | rot (w : Fields)
  | min (w : Fields)
  | max (w : Fields)
  | minu (w : Fields)
  | maxu (w : Fields)
  | clz (w : Fields)
  | ctz (w : Fields)
  | popc (w : Fields)
  | bext (w : Fields)
  | bins (w : Fields)
  | sext (w : Fields)
  | zext (w : Fields)
  | mov (w : Fields)
  | movl (w : Fields)
  | sel (w : Fields)
  | cmp (w : Fields)
  | pset (w : Fields)
  | pmov (w : Fields)
  | addr (w : Fields)
  | fadd (w : Fields)
  | fsub (w : Fields)
  | fmul (w : Fields)
  | ffma (w : Fields)
  | fdiv (w : Fields)
  | fsqrt (w : Fields)
  | fmin (w : Fields)
  | fmax (w : Fields)
  | fabs (w : Fields)
  | fneg (w : Fields)
  | fcmp (w : Fields)
  | fcvt (w : Fields)
  | fclass (w : Fields)
  | ld (w : Fields)
  | st (w : Fields)
  | ldv (w : Fields)
  | stv (w : Fields)
  | ldx (w : Fields)
  | stx (w : Fields)
  | atom (w : Fields)
  | cas (w : Fields)
  | pref (w : Fields)
  | bbind (w : Fields)
  | acq (w : Fields)
  | rel (w : Fields)
  | btry (w : Fields)
  | fence (w : Fields)
  | lbfence (w : Fields)
  | isync (w : Fields)
  | ract (w : Fields)
  | rcon (w : Fields)
  | rwb (w : Fields)
  | rpre (w : Fields)
  | rstat (w : Fields)
  | rref (w : Fields)
  | sbind (w : Fields)
  | sfree (w : Fields)
  | sdrain (w : Fields)
  | sstat (w : Fields)
  | iload (w : Fields)
  | irun (w : Fields)
  | iwait (w : Fields)
  | ipoll (w : Fields)
  | idrop (w : Fields)
  | send (w : Fields)
  | recv (w : Fields)
  | put (w : Fields)
  | get (w : Fields)
  | coll (w : Fields)
  | bar (w : Fields)
  | barc (w : Fields)
  | vadd (w : Fields)
  | vsub (w : Fields)
  | vmul (w : Fields)
  | vfma (w : Fields)
  | vfms (w : Fields)
  | vrcp (w : Fields)
  | vrsq (w : Fields)
  | vsqrt (w : Fields)
  | vexp2 (w : Fields)
  | vlog2 (w : Fields)
  | vtanh (w : Fields)
  | vmin (w : Fields)
  | vmax (w : Fields)
  | vabs (w : Fields)
  | vneg (w : Fields)
  | vand (w : Fields)
  | vor (w : Fields)
  | vxor (w : Fields)
  | vshl (w : Fields)
  | vshr (w : Fields)
  | vsar (w : Fields)
  | vcmp (w : Fields)
  | vsel (w : Fields)
  | vbcast (w : Fields)
  | vext (w : Fields)
  | vins (w : Fields)
  | vshuf (w : Fields)
  | vperm (w : Fields)
  | vrot (w : Fields)
  | vred (w : Fields)
  | vscan (w : Fields)
  | vcvt (w : Fields)
  | vcvto (w : Fields)
  | vpack (w : Fields)
  | vunpk (w : Fields)
  | vdot (w : Fields)
  | vtag (w : Fields)
  | vargm (w : Fields)
  | viota (w : Fields)
  | vmsk (w : Fields)
  | vcnt (w : Fields)
  | vclamp (w : Fields)
  | vqnt (w : Fields)
  | mmas (w : Fields)
  | mmav (w : Fields)
  | mmar (w : Fields)
  | mcommit (w : Fields)
  | mwait (w : Fields)
  | mpoll (w : Fields)
  | mcmd (w : Fields)
  | mcap (w : Fields)
  | aballoc (w : Fields)
  | abfree (w : Fields)
  | abzero (w : Fields)
  | abread (w : Fields)
  | abwrite (w : Fields)
  | mtq (w : Fields)
  | mstat (w : Fields)
  | wload (w : Fields)
  | wswap (w : Fields)
  | wpass (w : Fields)
  | wres (w : Fields)
  | wchk (w : Fields)
  | wgacc (w : Fields)
  | wcfg (w : Fields)
  | wstat (w : Fields)
  | launch (w : Fields)
  | owait (w : Fields)
  | opoll (w : Fields)
  | csrr (w : Fields)
  | csrw (w : Fields)
  | csrs (w : Fields)
  | csrc (w : Fields)
  | trapret (w : Fields)
  | tlbinv (w : Fields)
  | evrd (w : Fields)
  | evclr (w : Fields)
  | idle (w : Fields)
  | nopShort (f : SFields)
  | addI64Short (f : SFields)
  | subI64Short (f : SFields)
  | mulI64Short (f : SFields)
  | andI64Short (f : SFields)
  | orI64Short (f : SFields)
  | xorI64Short (f : SFields)
  | shlI64Short (f : SFields)
  | shrI64Short (f : SFields)
  | sarI64Short (f : SFields)
  | minI64Short (f : SFields)
  | maxI64Short (f : SFields)
  | movI64Short (f : SFields)
  | cmpI64EqShort (f : SFields)
  | cmpI64NeShort (f : SFields)
  | cmpI64LtShort (f : SFields)
  | cmpI64GeShort (f : SFields)
  | cmpI64LtuShort (f : SFields)
  | cmpI64GeuShort (f : SFields)
  | ldI64Short (f : SFields)
  | ldI32Short (f : SFields)
  | stI64Short (f : SFields)
  | stI32Short (f : SFields)
  | ldvShort (f : SFields)
  | stvShort (f : SFields)
  | faddF32RneShort (f : SFields)
  | fsubF32RneShort (f : SFields)
  | fmulF32RneShort (f : SFields)
  | ffmaF32RneShort (f : SFields)
  | vaddF32RneShort (f : SFields)
  | vsubF32RneShort (f : SFields)
  | vmulF32RneShort (f : SFields)
  | vfmaF32RneShort (f : SFields)
  | vminF32Short (f : SFields)
  | vmaxF32Short (f : SFields)
  | vaddI32Short (f : SFields)
  | vsubI32Short (f : SFields)
  | vandShort (f : SFields)
  | vorShort (f : SFields)
  | vxorShort (f : SFields)
  | brShort (f : SFields)
  | retShort (f : SFields)
  | exitShort (f : SFields)
  | yieldShort (f : SFields)
  | mcommitShort (f : SFields)
  | mwaitShort (f : SFields)
  | mpollShort (f : SFields)
  | icacheFill (c : Fin 11) (addr : Word)
  | hamperEntryExecute (c : Fin 11)
  | takeTrap (c : Fin 11)
  | hintStallExpiry (c : Fin 11)
  | idleCountExpiry (c : Fin 11)
  | valueLands (n : AtHome Nat)
  | faultRecordWrite (vf : BitVec 6)
  | fqRespReplay (vf : BitVec 6) (token : BitVec 32)
  | fqRespDecline (vf : BitVec 6) (token : BitVec 32)
  | fqCtlWrite (vf : BitVec 6) (value : Word)
  | notPresentTimeout (vf : BitVec 6) (token : BitVec 32)
  | xltInvRange (asid : BitVec 8) (va : BitVec 57) (count : InvPages)
  | xltInvAsid (value : BitVec 128)
  | xltInvVf (value : BitVec 128)
  | xltInvMove (asid : BitVec 8) (va : BitVec 57) (count : InvPages)
  | xltInvComplete
  | anchorExpiry (asid : BitVec 8) (page : BitVec 45)
  | linkGenAdvance (peer : Peer)
  | outsideRead (r : OutReq)
  | outsideWrite (r : OutReq) (data : List Byte ⊕ OutAtomic)
  | gateTimeout (n : Nat) (own : Bool)
  | rowCommandStart
  | transferAttemptEnd (bad : Option Parity)
  | rowTransferComplete (errs : List CellErr)
  | refreshDue (layer : Fin 4)
  | refreshComplete (layer : Fin 4)
  | forcedBurst (layer : Fin 4)
  | activationWindowEnd
  | retrainDue
  | retrainStart
  | retrainEnd
  | seqWdogReset (q : Fin 4)
  | seqResetEnd (q : Fin 4)
  | seqResetHoldTimeout (n : Nat)
  | engineOpStart
  | engineOpComplete
  | mcmdArrive (m : RemoteCmd)
  | mcmdTimeout (n : Nat)
  | mcmdStatusLand (n : Nat) (r : CmdReply)
  | planeOpStart (n : Nat)
  | planeOpComplete (n : Nat) (struck : List CellFlip)
  | stopLaunch
  | stopComplete (n : StopTurn)
  | streamGroupArrive (n : AtHome (Fin 8))
  | streamGroupWrite (n : AtHome (Fin 8))
  | messageMatch (n : Nat) (p : PeerMsg)
  | messageLand (n : Nat) (p : PeerMsg)
  | messageTimeout (n : Nat)
  | chunkArrive (k : Chunk)
  | stepEntry (scope : Bool)
  | stepProgress (scope : Bool) (p : StepNews)
  | stepTimeout (scope : Bool)
  | beaconGrant (dpa : BeaconTurn)
  | launchPacket (bits : LaunchArrival)
  | slotRecordWrite (site : BitVec 10) (slot : Fin 12) (bits : SlotWrite)
  | dispatchStart (d : BindInfo)
  | preemptRequest
  | partySaveComplete
  | quantumExpiry
  | queueAging (vf : BitVec 6) (outing : BitVec 32)
  | outingComplete (vf : BitVec 6) (outing : BitVec 32)
  | fcastWrite (island : Fin 24) (value : Word)
  | schedQuantumWrite (value : Word)
  | thermSample (n : Fin 96) (temp : BitVec 8)
  | thermWrite (n : Fin 96) (value : Word)
  | coldStart (b : BootRun)
  | bootCtlWarm (value : Word) (b : BootRun)
  | secAttestRequest (nonce : BitVec 256) (addr : Word)
  | attestReportWrite
  | fpctlWrite (c : Fin 11) (k : CsrKind) (b : Word)
  | ctxModeWrite (c : Fin 11) (k : CsrKind) (b : Word)
  | ovflWrite (c : Fin 11) (k : CsrKind) (b : Word)
  | hamperPeakWrite (c : Fin 11) (k : CsrKind) (b : Word)
  | collTimeoutWrite (k : CsrKind) (b : Word)
  | rowLogClear (xfer : Bool) (k : CsrKind) (b : Word)
  | coreMovedClear (k : CsrKind) (b : Word)
  | planeCfgWrite (c : Fin 11) (k : CsrKind) (b : Word)
  | registerWrite (r : CfgReg) (b : BitVec 256)
  | accessCompletesAtHome (n : AtHome Nat)
  | debtRepaymentStart (layer : Fin 4)
  deriving DecidableEq, Repr

/-- The instruction an opcode and its fields make (R25, R44). -/
def Instr.ofOp : Opcode → Fields → Instr
  | .nop, w => .nop w
  | .br, w => .br w
  | .jmp, w => .jmp w
  | .call, w => .call w
  | .callr, w => .callr w
  | .ret, w => .ret w
  | .jp, w => .jp w
  | .waitp, w => .waitp w
  | .loop, w => .loop w
  | .linc, w => .linc w
  | .start, w => .start w
  | .join, w => .join w
  | .exit, w => .exit w
  | .yield, w => .yield w
  | .trap, w => .trap w
  | .defer, w => .defer w
  | .park, w => .park w
  | .add, w => .add w
  | .sub, w => .sub w
  | .mul, w => .mul w
  | .mulh, w => .mulh w
  | .mulhu, w => .mulhu w
  | .div, w => .div w
  | .divu, w => .divu w
  | .rem, w => .rem w
  | .remu, w => .remu w
  | .and, w => .and w
  | .or, w => .or w
  | .xor, w => .xor w
  | .andn, w => .andn w
  | .shl, w => .shl w
  | .shr, w => .shr w
  | .sar, w => .sar w
  | .rot, w => .rot w
  | .min, w => .min w
  | .max, w => .max w
  | .minu, w => .minu w
  | .maxu, w => .maxu w
  | .clz, w => .clz w
  | .ctz, w => .ctz w
  | .popc, w => .popc w
  | .bext, w => .bext w
  | .bins, w => .bins w
  | .sext, w => .sext w
  | .zext, w => .zext w
  | .mov, w => .mov w
  | .movl, w => .movl w
  | .sel, w => .sel w
  | .cmp, w => .cmp w
  | .pset, w => .pset w
  | .pmov, w => .pmov w
  | .addr, w => .addr w
  | .fadd, w => .fadd w
  | .fsub, w => .fsub w
  | .fmul, w => .fmul w
  | .ffma, w => .ffma w
  | .fdiv, w => .fdiv w
  | .fsqrt, w => .fsqrt w
  | .fmin, w => .fmin w
  | .fmax, w => .fmax w
  | .fabs, w => .fabs w
  | .fneg, w => .fneg w
  | .fcmp, w => .fcmp w
  | .fcvt, w => .fcvt w
  | .fclass, w => .fclass w
  | .ld, w => .ld w
  | .st, w => .st w
  | .ldv, w => .ldv w
  | .stv, w => .stv w
  | .ldx, w => .ldx w
  | .stx, w => .stx w
  | .atom, w => .atom w
  | .cas, w => .cas w
  | .pref, w => .pref w
  | .bbind, w => .bbind w
  | .acq, w => .acq w
  | .rel, w => .rel w
  | .btry, w => .btry w
  | .fence, w => .fence w
  | .lbfence, w => .lbfence w
  | .isync, w => .isync w
  | .ract, w => .ract w
  | .rcon, w => .rcon w
  | .rwb, w => .rwb w
  | .rpre, w => .rpre w
  | .rstat, w => .rstat w
  | .rref, w => .rref w
  | .sbind, w => .sbind w
  | .sfree, w => .sfree w
  | .sdrain, w => .sdrain w
  | .sstat, w => .sstat w
  | .iload, w => .iload w
  | .irun, w => .irun w
  | .iwait, w => .iwait w
  | .ipoll, w => .ipoll w
  | .idrop, w => .idrop w
  | .send, w => .send w
  | .recv, w => .recv w
  | .put, w => .put w
  | .get, w => .get w
  | .coll, w => .coll w
  | .bar, w => .bar w
  | .barc, w => .barc w
  | .vadd, w => .vadd w
  | .vsub, w => .vsub w
  | .vmul, w => .vmul w
  | .vfma, w => .vfma w
  | .vfms, w => .vfms w
  | .vrcp, w => .vrcp w
  | .vrsq, w => .vrsq w
  | .vsqrt, w => .vsqrt w
  | .vexp2, w => .vexp2 w
  | .vlog2, w => .vlog2 w
  | .vtanh, w => .vtanh w
  | .vmin, w => .vmin w
  | .vmax, w => .vmax w
  | .vabs, w => .vabs w
  | .vneg, w => .vneg w
  | .vand, w => .vand w
  | .vor, w => .vor w
  | .vxor, w => .vxor w
  | .vshl, w => .vshl w
  | .vshr, w => .vshr w
  | .vsar, w => .vsar w
  | .vcmp, w => .vcmp w
  | .vsel, w => .vsel w
  | .vbcast, w => .vbcast w
  | .vext, w => .vext w
  | .vins, w => .vins w
  | .vshuf, w => .vshuf w
  | .vperm, w => .vperm w
  | .vrot, w => .vrot w
  | .vred, w => .vred w
  | .vscan, w => .vscan w
  | .vcvt, w => .vcvt w
  | .vcvto, w => .vcvto w
  | .vpack, w => .vpack w
  | .vunpk, w => .vunpk w
  | .vdot, w => .vdot w
  | .vtag, w => .vtag w
  | .vargm, w => .vargm w
  | .viota, w => .viota w
  | .vmsk, w => .vmsk w
  | .vcnt, w => .vcnt w
  | .vclamp, w => .vclamp w
  | .vqnt, w => .vqnt w
  | .mmas, w => .mmas w
  | .mmav, w => .mmav w
  | .mmar, w => .mmar w
  | .mcommit, w => .mcommit w
  | .mwait, w => .mwait w
  | .mpoll, w => .mpoll w
  | .mcmd, w => .mcmd w
  | .mcap, w => .mcap w
  | .aballoc, w => .aballoc w
  | .abfree, w => .abfree w
  | .abzero, w => .abzero w
  | .abread, w => .abread w
  | .abwrite, w => .abwrite w
  | .mtq, w => .mtq w
  | .mstat, w => .mstat w
  | .wload, w => .wload w
  | .wswap, w => .wswap w
  | .wpass, w => .wpass w
  | .wres, w => .wres w
  | .wchk, w => .wchk w
  | .wgacc, w => .wgacc w
  | .wcfg, w => .wcfg w
  | .wstat, w => .wstat w
  | .launch, w => .launch w
  | .owait, w => .owait w
  | .opoll, w => .opoll w
  | .csrr, w => .csrr w
  | .csrw, w => .csrw w
  | .csrs, w => .csrs w
  | .csrc, w => .csrc w
  | .trapret, w => .trapret w
  | .tlbinv, w => .tlbinv w
  | .evrd, w => .evrd w
  | .evclr, w => .evclr w
  | .idle, w => .idle w

/-- The S-form instruction a short opcode and its fields make (R45, R49). -/
def Instr.ofShort : ShortOp → SFields → Instr
  | .nop, f => .nopShort f
  | .addI64, f => .addI64Short f
  | .subI64, f => .subI64Short f
  | .mulI64, f => .mulI64Short f
  | .andI64, f => .andI64Short f
  | .orI64, f => .orI64Short f
  | .xorI64, f => .xorI64Short f
  | .shlI64, f => .shlI64Short f
  | .shrI64, f => .shrI64Short f
  | .sarI64, f => .sarI64Short f
  | .minI64, f => .minI64Short f
  | .maxI64, f => .maxI64Short f
  | .movI64, f => .movI64Short f
  | .cmpI64Eq, f => .cmpI64EqShort f
  | .cmpI64Ne, f => .cmpI64NeShort f
  | .cmpI64Lt, f => .cmpI64LtShort f
  | .cmpI64Ge, f => .cmpI64GeShort f
  | .cmpI64Ltu, f => .cmpI64LtuShort f
  | .cmpI64Geu, f => .cmpI64GeuShort f
  | .ldI64, f => .ldI64Short f
  | .ldI32, f => .ldI32Short f
  | .stI64, f => .stI64Short f
  | .stI32, f => .stI32Short f
  | .ldv, f => .ldvShort f
  | .stv, f => .stvShort f
  | .faddF32Rne, f => .faddF32RneShort f
  | .fsubF32Rne, f => .fsubF32RneShort f
  | .fmulF32Rne, f => .fmulF32RneShort f
  | .ffmaF32Rne, f => .ffmaF32RneShort f
  | .vaddF32Rne, f => .vaddF32RneShort f
  | .vsubF32Rne, f => .vsubF32RneShort f
  | .vmulF32Rne, f => .vmulF32RneShort f
  | .vfmaF32Rne, f => .vfmaF32RneShort f
  | .vminF32, f => .vminF32Short f
  | .vmaxF32, f => .vmaxF32Short f
  | .vaddI32, f => .vaddI32Short f
  | .vsubI32, f => .vsubI32Short f
  | .vand, f => .vandShort f
  | .vor, f => .vorShort f
  | .vxor, f => .vxorShort f
  | .br, f => .brShort f
  | .ret, f => .retShort f
  | .exit, f => .exitShort f
  | .yield, f => .yieldShort f
  | .mcommit, f => .mcommitShort f
  | .mwait, f => .mwaitShort f
  | .mpoll, f => .mpollShort f

/-- What kind of row a constructor is, with its opcode and fields. -/
inductive InstrView where
  | op (o : Opcode) (w : Fields)
  | short (o : ShortOp) (f : SFields)
  | event
  deriving DecidableEq, Repr

/-- The view of an instruction by the row it is. -/
def Instr.view : Instr → InstrView
  | .nop w => .op .nop w
  | .br w => .op .br w
  | .jmp w => .op .jmp w
  | .call w => .op .call w
  | .callr w => .op .callr w
  | .ret w => .op .ret w
  | .jp w => .op .jp w
  | .waitp w => .op .waitp w
  | .loop w => .op .loop w
  | .linc w => .op .linc w
  | .start w => .op .start w
  | .join w => .op .join w
  | .exit w => .op .exit w
  | .yield w => .op .yield w
  | .trap w => .op .trap w
  | .defer w => .op .defer w
  | .park w => .op .park w
  | .add w => .op .add w
  | .sub w => .op .sub w
  | .mul w => .op .mul w
  | .mulh w => .op .mulh w
  | .mulhu w => .op .mulhu w
  | .div w => .op .div w
  | .divu w => .op .divu w
  | .rem w => .op .rem w
  | .remu w => .op .remu w
  | .and w => .op .and w
  | .or w => .op .or w
  | .xor w => .op .xor w
  | .andn w => .op .andn w
  | .shl w => .op .shl w
  | .shr w => .op .shr w
  | .sar w => .op .sar w
  | .rot w => .op .rot w
  | .min w => .op .min w
  | .max w => .op .max w
  | .minu w => .op .minu w
  | .maxu w => .op .maxu w
  | .clz w => .op .clz w
  | .ctz w => .op .ctz w
  | .popc w => .op .popc w
  | .bext w => .op .bext w
  | .bins w => .op .bins w
  | .sext w => .op .sext w
  | .zext w => .op .zext w
  | .mov w => .op .mov w
  | .movl w => .op .movl w
  | .sel w => .op .sel w
  | .cmp w => .op .cmp w
  | .pset w => .op .pset w
  | .pmov w => .op .pmov w
  | .addr w => .op .addr w
  | .fadd w => .op .fadd w
  | .fsub w => .op .fsub w
  | .fmul w => .op .fmul w
  | .ffma w => .op .ffma w
  | .fdiv w => .op .fdiv w
  | .fsqrt w => .op .fsqrt w
  | .fmin w => .op .fmin w
  | .fmax w => .op .fmax w
  | .fabs w => .op .fabs w
  | .fneg w => .op .fneg w
  | .fcmp w => .op .fcmp w
  | .fcvt w => .op .fcvt w
  | .fclass w => .op .fclass w
  | .ld w => .op .ld w
  | .st w => .op .st w
  | .ldv w => .op .ldv w
  | .stv w => .op .stv w
  | .ldx w => .op .ldx w
  | .stx w => .op .stx w
  | .atom w => .op .atom w
  | .cas w => .op .cas w
  | .pref w => .op .pref w
  | .bbind w => .op .bbind w
  | .acq w => .op .acq w
  | .rel w => .op .rel w
  | .btry w => .op .btry w
  | .fence w => .op .fence w
  | .lbfence w => .op .lbfence w
  | .isync w => .op .isync w
  | .ract w => .op .ract w
  | .rcon w => .op .rcon w
  | .rwb w => .op .rwb w
  | .rpre w => .op .rpre w
  | .rstat w => .op .rstat w
  | .rref w => .op .rref w
  | .sbind w => .op .sbind w
  | .sfree w => .op .sfree w
  | .sdrain w => .op .sdrain w
  | .sstat w => .op .sstat w
  | .iload w => .op .iload w
  | .irun w => .op .irun w
  | .iwait w => .op .iwait w
  | .ipoll w => .op .ipoll w
  | .idrop w => .op .idrop w
  | .send w => .op .send w
  | .recv w => .op .recv w
  | .put w => .op .put w
  | .get w => .op .get w
  | .coll w => .op .coll w
  | .bar w => .op .bar w
  | .barc w => .op .barc w
  | .vadd w => .op .vadd w
  | .vsub w => .op .vsub w
  | .vmul w => .op .vmul w
  | .vfma w => .op .vfma w
  | .vfms w => .op .vfms w
  | .vrcp w => .op .vrcp w
  | .vrsq w => .op .vrsq w
  | .vsqrt w => .op .vsqrt w
  | .vexp2 w => .op .vexp2 w
  | .vlog2 w => .op .vlog2 w
  | .vtanh w => .op .vtanh w
  | .vmin w => .op .vmin w
  | .vmax w => .op .vmax w
  | .vabs w => .op .vabs w
  | .vneg w => .op .vneg w
  | .vand w => .op .vand w
  | .vor w => .op .vor w
  | .vxor w => .op .vxor w
  | .vshl w => .op .vshl w
  | .vshr w => .op .vshr w
  | .vsar w => .op .vsar w
  | .vcmp w => .op .vcmp w
  | .vsel w => .op .vsel w
  | .vbcast w => .op .vbcast w
  | .vext w => .op .vext w
  | .vins w => .op .vins w
  | .vshuf w => .op .vshuf w
  | .vperm w => .op .vperm w
  | .vrot w => .op .vrot w
  | .vred w => .op .vred w
  | .vscan w => .op .vscan w
  | .vcvt w => .op .vcvt w
  | .vcvto w => .op .vcvto w
  | .vpack w => .op .vpack w
  | .vunpk w => .op .vunpk w
  | .vdot w => .op .vdot w
  | .vtag w => .op .vtag w
  | .vargm w => .op .vargm w
  | .viota w => .op .viota w
  | .vmsk w => .op .vmsk w
  | .vcnt w => .op .vcnt w
  | .vclamp w => .op .vclamp w
  | .vqnt w => .op .vqnt w
  | .mmas w => .op .mmas w
  | .mmav w => .op .mmav w
  | .mmar w => .op .mmar w
  | .mcommit w => .op .mcommit w
  | .mwait w => .op .mwait w
  | .mpoll w => .op .mpoll w
  | .mcmd w => .op .mcmd w
  | .mcap w => .op .mcap w
  | .aballoc w => .op .aballoc w
  | .abfree w => .op .abfree w
  | .abzero w => .op .abzero w
  | .abread w => .op .abread w
  | .abwrite w => .op .abwrite w
  | .mtq w => .op .mtq w
  | .mstat w => .op .mstat w
  | .wload w => .op .wload w
  | .wswap w => .op .wswap w
  | .wpass w => .op .wpass w
  | .wres w => .op .wres w
  | .wchk w => .op .wchk w
  | .wgacc w => .op .wgacc w
  | .wcfg w => .op .wcfg w
  | .wstat w => .op .wstat w
  | .launch w => .op .launch w
  | .owait w => .op .owait w
  | .opoll w => .op .opoll w
  | .csrr w => .op .csrr w
  | .csrw w => .op .csrw w
  | .csrs w => .op .csrs w
  | .csrc w => .op .csrc w
  | .trapret w => .op .trapret w
  | .tlbinv w => .op .tlbinv w
  | .evrd w => .op .evrd w
  | .evclr w => .op .evclr w
  | .idle w => .op .idle w
  | .nopShort f => .short .nop f
  | .addI64Short f => .short .addI64 f
  | .subI64Short f => .short .subI64 f
  | .mulI64Short f => .short .mulI64 f
  | .andI64Short f => .short .andI64 f
  | .orI64Short f => .short .orI64 f
  | .xorI64Short f => .short .xorI64 f
  | .shlI64Short f => .short .shlI64 f
  | .shrI64Short f => .short .shrI64 f
  | .sarI64Short f => .short .sarI64 f
  | .minI64Short f => .short .minI64 f
  | .maxI64Short f => .short .maxI64 f
  | .movI64Short f => .short .movI64 f
  | .cmpI64EqShort f => .short .cmpI64Eq f
  | .cmpI64NeShort f => .short .cmpI64Ne f
  | .cmpI64LtShort f => .short .cmpI64Lt f
  | .cmpI64GeShort f => .short .cmpI64Ge f
  | .cmpI64LtuShort f => .short .cmpI64Ltu f
  | .cmpI64GeuShort f => .short .cmpI64Geu f
  | .ldI64Short f => .short .ldI64 f
  | .ldI32Short f => .short .ldI32 f
  | .stI64Short f => .short .stI64 f
  | .stI32Short f => .short .stI32 f
  | .ldvShort f => .short .ldv f
  | .stvShort f => .short .stv f
  | .faddF32RneShort f => .short .faddF32Rne f
  | .fsubF32RneShort f => .short .fsubF32Rne f
  | .fmulF32RneShort f => .short .fmulF32Rne f
  | .ffmaF32RneShort f => .short .ffmaF32Rne f
  | .vaddF32RneShort f => .short .vaddF32Rne f
  | .vsubF32RneShort f => .short .vsubF32Rne f
  | .vmulF32RneShort f => .short .vmulF32Rne f
  | .vfmaF32RneShort f => .short .vfmaF32Rne f
  | .vminF32Short f => .short .vminF32 f
  | .vmaxF32Short f => .short .vmaxF32 f
  | .vaddI32Short f => .short .vaddI32 f
  | .vsubI32Short f => .short .vsubI32 f
  | .vandShort f => .short .vand f
  | .vorShort f => .short .vor f
  | .vxorShort f => .short .vxor f
  | .brShort f => .short .br f
  | .retShort f => .short .ret f
  | .exitShort f => .short .exit f
  | .yieldShort f => .short .yield f
  | .mcommitShort f => .short .mcommit f
  | .mwaitShort f => .short .mwait f
  | .mpollShort f => .short .mpoll f
  | .icacheFill _ _ => .event
  | .hamperEntryExecute _ => .event
  | .takeTrap _ => .event
  | .hintStallExpiry _ => .event
  | .idleCountExpiry _ => .event
  | .valueLands _ => .event
  | .faultRecordWrite _ => .event
  | .fqRespReplay _ _ => .event
  | .fqRespDecline _ _ => .event
  | .fqCtlWrite _ _ => .event
  | .notPresentTimeout _ _ => .event
  | .xltInvRange _ _ _ => .event
  | .xltInvAsid _ => .event
  | .xltInvVf _ => .event
  | .xltInvMove _ _ _ => .event
  | .xltInvComplete => .event
  | .anchorExpiry _ _ => .event
  | .linkGenAdvance _ => .event
  | .outsideRead _ => .event
  | .outsideWrite _ _ => .event
  | .gateTimeout _ _ => .event
  | .rowCommandStart => .event
  | .transferAttemptEnd _ => .event
  | .rowTransferComplete _ => .event
  | .refreshDue _ => .event
  | .refreshComplete _ => .event
  | .forcedBurst _ => .event
  | .activationWindowEnd => .event
  | .retrainDue => .event
  | .retrainStart => .event
  | .retrainEnd => .event
  | .seqWdogReset _ => .event
  | .seqResetEnd _ => .event
  | .seqResetHoldTimeout _ => .event
  | .engineOpStart => .event
  | .engineOpComplete => .event
  | .mcmdArrive _ => .event
  | .mcmdTimeout _ => .event
  | .mcmdStatusLand _ _ => .event
  | .planeOpStart _ => .event
  | .planeOpComplete _ _ => .event
  | .stopLaunch => .event
  | .stopComplete _ => .event
  | .streamGroupArrive _ => .event
  | .streamGroupWrite _ => .event
  | .messageMatch _ _ => .event
  | .messageLand _ _ => .event
  | .messageTimeout _ => .event
  | .chunkArrive _ => .event
  | .stepEntry _ => .event
  | .stepProgress _ _ => .event
  | .stepTimeout _ => .event
  | .beaconGrant _ => .event
  | .launchPacket _ => .event
  | .slotRecordWrite _ _ _ => .event
  | .dispatchStart _ => .event
  | .preemptRequest => .event
  | .partySaveComplete => .event
  | .quantumExpiry => .event
  | .queueAging _ _ => .event
  | .outingComplete _ _ => .event
  | .fcastWrite _ _ => .event
  | .schedQuantumWrite _ => .event
  | .thermSample _ _ => .event
  | .thermWrite _ _ => .event
  | .coldStart _ => .event
  | .bootCtlWarm _ _ => .event
  | .secAttestRequest _ _ => .event
  | .attestReportWrite => .event
  | .fpctlWrite _ _ _ => .event
  | .ctxModeWrite _ _ _ => .event
  | .ovflWrite _ _ _ => .event
  | .hamperPeakWrite _ _ _ => .event
  | .collTimeoutWrite _ _ => .event
  | .rowLogClear _ _ _ => .event
  | .coreMovedClear _ _ => .event
  | .planeCfgWrite _ _ _ => .event
  | .registerWrite _ _ => .event
  | .accessCompletesAtHome _ => .event
  | .debtRepaymentStart _ => .event

end Sys2Proof
end

