-- ==== Sys2Proof/WellFormed.lean ====
section
/-! DEFINITION. Which field values each opcode's entry accepts (R33 to R43 and the encoding rule of each
chapter), the ILLEGAL_INSTR reason a word earns (R51, R52), and the well-formed terms. -/

namespace Sys2Proof

/-- The device's capability list (R459). -/
structure Caps where
  expc : Bool
  fixed : Bool
  stoch : Bool
  narrow : Bool
  ports : BitVec 5
  deriving DecidableEq, Repr

/-- Every feature present, with 16 fabric ports: the example list of R459. -/
def Caps.full : Caps := ⟨true, true, true, true, 16⟩

/-- The fields of an internal word as they stand in it, reserved values included (R25). -/
structure Raw where
  form : Form
  gn : Bool
  gp : BitVec 3
  db : Bool
  yd : Bool
  stall : BitVec 3
  tr : Bool
  fd : BitVec 8
  fa : BitVec 8
  fb : BitVec 8
  os : BitVec 8
  sz : BitVec 3
  rm : BitVec 3
  ty : BitVec 4
  lit : BitVec 32
  deriving DecidableEq, Repr

/-! ## Codes -/

def OpClass.code : OpClass → BitVec 2
  | .scalar => 0 | .vector => 1 | .pred => 2 | .special => 3

def OpClass.ofCode (c : BitVec 2) : OpClass :=
  if c = 0 then .scalar else if c = 1 then .vector else if c = 2 then .pred else .special

def Opd.code (o : Opd) : BitVec 8 := o.cls.code ++ o.num

def Opd.ofCode (b : BitVec 8) : Opd := ⟨OpClass.ofCode (b.extractLsb' 6 2), b.extractLsb' 0 6⟩

/-- TY codes (R38). -/
def Ty.code : Ty → BitVec 4
  | .i8 => 0 | .i16 => 1 | .i32 => 2 | .i64 => 3 | .ui8 => 4 | .ui16 => 5 | .ui32 => 6 | .ui64 => 7
  | .f32 => 8 | .bf16 => 9 | .f16 => 10 | .nf => 11 | .i4 => 12 | .page => 13

def Ty.ofCode (c : BitVec 4) : Option Ty :=
  match c.toNat with
  | 0 => some .i8 | 1 => some .i16 | 2 => some .i32 | 3 => some .i64 | 4 => some .ui8
  | 5 => some .ui16 | 6 => some .ui32 | 7 => some .ui64 | 8 => some .f32 | 9 => some .bf16
  | 10 => some .f16 | 11 => some .nf | 12 => some .i4 | 13 => some .page | _ => none

/-- RM codes (R39). -/
def Rm.code : Rm → BitVec 3
  | .rne => 0 | .rtz => 1 | .rdn => 2 | .rup => 3 | .rna => 4 | .stoch => 5 | .dyn => 6

def Rm.ofCode (c : BitVec 3) : Option Rm :=
  match c.toNat with
  | 0 => some .rne | 1 => some .rtz | 2 => some .rdn | 3 => some .rup | 4 => some .rna
  | 5 => some .stoch | 6 => some .dyn | _ => none

/-- The fields as they stand in the internal word. -/
def Fields.raw (w : Fields) : Raw :=
  { form := w.form, gn := w.guard.neg, gp := w.guard.p, db := w.hints.db, yd := w.hints.yd,
    stall := w.hints.stall, tr := w.hints.tr, fd := w.fd.code, fa := w.fa.code, fb := w.fb.code,
    os := w.os, sz := w.sz, rm := w.rm.code, ty := w.ty.code, lit := w.lit }

/-- The fields read from the internal word; none where TY or RM is reserved. -/
def Raw.fields (r : Raw) : Option Fields :=
  match Ty.ofCode r.ty, Rm.ofCode r.rm with
  | some ty, some rm =>
    some { form := r.form, guard := ⟨r.gn, r.gp⟩, hints := ⟨r.db, r.yd, r.stall, r.tr⟩,
           fd := Opd.ofCode r.fd, fa := Opd.ofCode r.fa, fb := Opd.ofCode r.fb, os := r.os,
           sz := r.sz, rm := rm, ty := ty, lit := r.lit }
  | _, _ => none

/-! ## What an operand slot accepts -/

/-- Number limits beyond those of R33, each faulting with reason 0x03: tile and register pairs
(R370, R398, R345), RCON's groups (R144), stream registers (R226) and MMAV's group (R374). -/
inductive NumRule where
  | any | pair | group | stream | quad
  deriving DecidableEq, Repr

/-- Whether a number meets the limit. -/
def NumRule.ok : NumRule → Nat → Bool
  | .any, _ => true
  | .pair, n => 8 ≤ n && n ≤ 30
  | .group, n => n == 0 || n == 8 || n == 16
  | .stream, n => 24 ≤ n && n ≤ 31
  | .quad, n => n ≤ 28 && n % 4 == 0

/-- The classes a slot accepts (R36); `step` is a LINC step field (R314), and `zero` a slot some other
field's values leave unused, where that field holds a reserved value: 0x00 is accepted too. -/
structure Slot where
  used : Bool := true
  sc : Bool := false
  lit : Bool := false
  ve : Bool := false
  pd : Bool := false
  ms : Bool := false
  sp : Bool := false
  step : Bool := false
  zero : Bool := false
  nums : NumRule := .any
  deriving DecidableEq, Repr

namespace Slot
def none : Slot := { used := false }
def S : Slot := { sc := true }
def SL : Slot := { sc := true, lit := true }
def L : Slot := { lit := true }
def V : Slot := { ve := true }
def VSL : Slot := { ve := true, sc := true, lit := true }
def P : Slot := { pd := true }
def M : Slot := { ms := true }
def PM : Slot := { pd := true, ms := true }
def PMS : Slot := { pd := true, ms := true, sc := true }
def tested : Slot := { pd := true, ms := true, sc := true, ve := true }
def block : Slot := { sc := true, sp := true }
def pair : Slot := { sc := true, nums := .pair }
def group : Slot := { ve := true, nums := .group }
def stream : Slot := { ve := true, nums := .stream }
def quad : Slot := { ve := true, nums := .quad }
def linc : Slot := { step := true }
def VM : Slot := { ve := true, ms := true }
def optPM : Slot := { pd := true, ms := true, zero := true }
def optGroup : Slot := { ve := true, nums := .group, zero := true }
end Slot

/-- Everything an opcode's entry accepts, given the word's own MOD bits. -/
structure Shape where
  fd : Slot := Slot.none
  fa : Slot := Slot.none
  fb : Slot := Slot.none
  tys : List Ty := [.i8]
  rms : List Rm := [.rne]
  szs : List Nat := [0]
  os : Bool
  deriving DecidableEq, Repr

namespace Shape
def ints : List Ty := [.i8, .i16, .i32, .i64, .ui8, .ui16, .ui32, .ui64]
def floats : List Ty := [.f32, .bf16, .f16]
def lanes : List Ty := [.i32, .ui32, .f32]
def tym : List Ty := [.i8, .ui8, .i4, .bf16, .f16, .nf]
def tyx : List Ty := [.i8, .i16, .ui8, .ui16, .bf16, .f16, .nf, .i4, .page]
def allRm : List Rm := [.rne, .rtz, .rdn, .rup, .rna, .stoch, .dyn]
def noStoch : List Rm := [.rne, .rtz, .rdn, .rup, .rna, .dyn]
def intCc : List Nat := [0, 1, 2, 3, 4, 5]
def fpCc : List Nat := [0, 1, 2, 3, 6, 7]
end Shape

/-- The masking bits of R342: with ME = 0, MN and ZM are unused and zero; `low` bounds the
opcode's own bits [2:0]. -/
def maskOs (os : BitVec 8) (zmOk : Bool) (low : Nat → Bool) : Bool :=
  let o := os.toNat
  let me := o / 128; let mn := o / 16 % 8; let zm := o / 8 % 2
  low (o % 8) && (me == 1 || (mn == 0 && zm == 0)) && (zmOk || zm == 0)

/-- MOD.OS[5:0] is a descriptor number under NF and zero otherwise (R42). -/
def nfOs (r : Raw) : Bool := r.ty == Ty.nf.code || r.os.toNat % 64 == 0

/-- COLL's combinations (R253). -/
def collOs (caps : Caps) (r : Raw) : Bool :=
  let o := r.os.toNat
  let op := o / 32; let mode := o / 8 % 4; let expc := o / 4 % 2; let rop := o % 4
  let reduces := op == 3 || op == 4 || op == 5
  let fl := r.ty == Ty.f32.code || r.ty == Ty.bf16.code || r.ty == Ty.f16.code
  mode ≤ 2 && rop ≤ 2 && (reduces || (mode == 0 && rop == 0))
    && (mode != 2 || (fl && rop == 0 && caps.fixed))
    && (expc == 0 || (r.ty == Ty.f32.code && mode != 2 && caps.expc))

/-- The floating types among those a conversion may name (R338, R359). -/
def isFloatCode (c : BitVec 4) : Bool :=
  c == Ty.f32.code || c == Ty.bf16.code || c == Ty.f16.code || c == Ty.nf.code

/-- What an opcode accepts: R306 (control), R322 to R339 (scalar), R185 to R196, R206 to R209 (memory),
R144 (rows), R226, R246, R253, R271 (streams and communication), R345 (vector), R374 (matrix),
R398 (planes), R418 (launch) and R450 (system).
DEDUCED, log entry 14.
DEDUCED, log entry 17. -/
def shape (caps : Caps) (op : Opcode) (r : Raw) : Shape :=
  let o := r.os.toNat
  let f32Rm (l : List Rm) : List Rm := if r.ty == Ty.f32.code then l else [.rne]
  let flRm : List Rm := if isFloatCode r.ty then Shape.allRm else [.rne]
  match op with
  | .nop | .ret | .exit | .yield | .defer | .park => { os := o == 0 }
  | .br | .jmp | .call | .trap => { fb := .SL, os := o == 0 }
  | .callr => { fb := .S, os := o == 0 }
  | .jp => { fd := .tested, fa := .tested, fb := .SL, os := o ≤ 1 }
  | .waitp => if o % 2 == 1 then { os := o == 1 } else { fd := .tested, fa := .tested, os := o == 0 }
  | .loop => { fa := .SL, os := o < 32 }
  | .linc => { fd := .linc, fa := .linc, fb := .linc, os := o == 0 }
  | .start => { fd := .S, fa := .S, fb := .SL, os := true }
  | .join => { fd := .S, fa := .SL, os := o == 0 }
  | .add | .sub | .mul | .mulh | .mulhu | .div | .divu | .rem | .remu | .and | .or | .xor | .andn
  | .shl | .shr | .sar | .rot | .min | .max | .minu | .maxu | .bext | .bins =>
    { fd := .S, fa := .S, fb := .SL, tys := Shape.ints, os := o == 0 }
  | .clz | .ctz | .popc => { fd := .S, fa := .S, tys := Shape.ints, os := o == 0 }
  | .sext | .zext => { fd := .S, fa := .S, szs := [0, 1, 2], os := o == 0 }
  | .mov => { fd := .S, fa := .SL, tys := Shape.ints, os := o == 0 }
  | .movl => { fd := .S, fb := .L, os := o ≤ 1 }
  | .sel => { fd := .S, fa := .SL, fb := .SL, os := o < 8 }
  | .addr => { fd := .S, fa := .S, fb := .SL, szs := [0, 1, 2, 3, 4, 5, 6], os := o == 0 }
  | .cmp => { fd := .PM, fa := .S, fb := .SL, tys := Shape.ints, szs := Shape.intCc, os := o ≤ 2 }
  | .pset => { fd := .PM, fb := .SL, os := o == 0 }
  | .pmov => { fd := .PMS, fa := .PM,
               fb := if o % 8 ≤ 1 then Slot.none else if o % 8 ≤ 5 then Slot.PM else Slot.optPM, os := o ≤ 5 }
  | .fadd | .fsub | .fmul | .ffma | .fdiv =>
    { fd := .S, fa := .SL, fb := .SL, tys := Shape.floats, rms := Shape.allRm, os := o == 0 }
  | .fsqrt => { fd := .S, fa := .S, tys := Shape.floats, rms := Shape.allRm, os := o == 0 }
  | .fmin | .fmax => { fd := .S, fa := .SL, fb := .SL, tys := Shape.floats, os := o == 0 }
  | .fabs | .fneg | .fclass => { fd := .S, fa := .S, tys := Shape.floats, os := o == 0 }
  | .fcmp => { fd := .PM, fa := .SL, fb := .SL, tys := Shape.floats, szs := Shape.fpCc, os := o ≤ 2 }
  | .fcvt => { fd := .S, fa := .S, tys := Shape.ints ++ Shape.floats, rms := Shape.allRm,
               os := o ≤ 10 && (isFloatCode r.ty || 8 ≤ o) }
  | .ld | .st => { fd := .S, fa := .S, fb := .SL, tys := Shape.ints ++ [.f32], os := o % 128 == 0 }
  | .ldv | .stv => { fd := .V, fa := .S, fb := .SL, os := o % 128 == 0 }
  | .ldx => { fd := .V, fa := .S, fb := .SL, tys := Shape.tyx, os := o / 64 % 2 == 0 && nfOs r }
  | .stx => { fd := .V, fa := .S, fb := .SL, tys := Shape.tyx,
              rms := if isFloatCode r.ty || r.ty == Ty.page.code then Shape.allRm else [.rne],
              os := o / 64 % 2 == 0 && nfOs r }
  | .atom =>
    { fd := .S, fa := .S, fb := .SL,
      tys := if o % 16 ≤ 7 then [.i32, .i64] else if o % 16 == 9 then [.f32] else [.i32, .i64, .f32],
      rms := if o % 16 == 9 then Shape.noStoch else [.rne],
      os := o % 16 ≤ 9 && o / 64 % 2 == 0 }
  | .cas => { fd := .S, fa := .S, fb := .SL, tys := [.i32, .i64], os := o % 16 == 0 && o / 64 % 2 == 0 }
  | .pref => { fa := .S, fb := .SL, os := o % 128 == 0 }
  | .bbind => if o / 4 % 2 == 1 then { fa := .S, os := o < 8 } else { fd := .S, fa := .S, fb := .SL, os := o < 8 }
  | .acq => { fa := .S, os := o ≤ 1 }
  | .rel => { fa := .S, os := o == 0 }
  | .btry => { fd := .P, fa := .S, os := o ≤ 1 }
  | .fence => { os := 1 ≤ o && o < 128 }
  | .lbfence => { os := o == 0 }
  | .isync => { fa := if o % 2 == 1 then Slot.none else Slot.S, os := o ≤ 1 }
  | .ract => { fa := .SL, fb := .SL, os := o == 0 }
  | .rcon | .rwb =>
    if o % 4 == 2 then { fd := .group, fa := .SL, os := o == 2 }
    else { fd := if o % 4 == 3 then Slot.optGroup else Slot.none, fa := .SL, fb := .SL, os := o ≤ 1 }
  | .rpre => { fa := if o % 2 == 1 then Slot.none else Slot.SL, os := o ≤ 1 }
  | .rstat => { fd := .S, fa := if o % 8 == 4 then Slot.none else Slot.SL, os := o ≤ 4 }
  | .rref => { fa := .SL, os := o == 0 }
  | .sbind =>
    { fd := .stream, fa := .S,
      tys := [.i4, .i8, .i16, .i32, .ui8, .ui16, .ui32, .f32, .bf16, .f16, .nf, .page],
      rms := if 128 ≤ o && (isFloatCode r.ty || r.ty == Ty.page.code) then Shape.allRm else [.rne],
      os := o / 64 % 2 == 0 && nfOs r }
  | .sfree | .sdrain => { fd := .stream, os := o == 0 }
  | .sstat => { fd := .S, fa := .stream, os := o == 0 }
  | .iload => { fd := .S, fa := .S, fb := .SL, os := o % 128 == 0 }
  | .irun => { fd := .S, fa := .S, fb := .SL, os := o == 0 }
  | .iwait => { fd := .S, fa := .SL, fb := .SL, os := o ≤ 1 }
  | .ipoll => { fd := .P, fa := .SL, fb := .SL, os := o ≤ 1 }
  | .idrop => { fa := .SL, fb := if o % 2 == 1 then Slot.none else Slot.SL, os := o ≤ 1 }
  | .send | .recv | .put | .get => { fd := .S, fa := .S, os := o == 0 }
  | .coll => { fd := .S, fa := .S, tys := Shape.ints ++ Shape.floats, os := collOs caps r }
  | .bar => { fd := .S, os := o == 0 || o == 2 }
  | .barc => { fd := .S, fa := .S, os := o < 4 }
  | .vadd | .vsub | .vmul | .vfma | .vfms =>
    { fd := .V, fa := .V, fb := .VSL, tys := Shape.lanes, rms := f32Rm Shape.allRm,
      os := maskOs r.os true (· == 0) }
  | .vrcp | .vrsq | .vsqrt | .vexp2 | .vlog2 | .vtanh =>
    { fd := .V, fa := .V, tys := [.f32], os := maskOs r.os true (· == 0) }
  | .vmin | .vmax | .vclamp =>
    { fd := .V, fa := .V, fb := .VSL, tys := Shape.lanes, os := maskOs r.os true (· == 0) }
  | .vabs | .vneg => { fd := .V, fa := .V, tys := [.i32, .f32], os := maskOs r.os true (· == 0) }
  | .vand | .vor | .vxor | .vshl | .vshr | .vsar =>
    { fd := .V, fa := .V, fb := .VSL, os := maskOs r.os true (· == 0) }
  | .vcmp => { fd := .M, fa := .V, fb := .VSL, tys := Shape.lanes,
               szs := if r.ty == Ty.f32.code then Shape.fpCc else Shape.intCc,
               os := maskOs r.os true (· ≤ 2) }
  | .vsel => { fd := .V, fa := .VSL, fb := .VSL, os := 128 ≤ o && maskOs r.os false (· == 0) }
  | .vbcast => { fd := .V, fa := .VSL, fb := if r.fa.toNat / 64 == 1 then Slot.SL else Slot.none,
                 os := maskOs r.os true (· == 0) }
  | .vext => { fd := .S, fa := .V, fb := .SL, tys := Shape.lanes, os := o == 0 }
  | .vins => { fd := .V, fa := .S, fb := .SL, os := o == 0 }
  | .vshuf | .vperm => { fd := .V, fa := .V, fb := .V, os := maskOs r.os true (· == 0) }
  | .vrot => { fd := .V, fa := .V, fb := .SL, os := maskOs r.os true (· == 0) }
  | .vred => { fd := .S, fa := .V, tys := Shape.lanes, rms := f32Rm Shape.noStoch,
               os := maskOs r.os false (fun l => l % 4 ≤ 2) }
  | .vscan => { fd := .V, fa := .V, tys := Shape.lanes, rms := f32Rm Shape.noStoch,
                os := maskOs r.os true (fun l => l % 4 ≤ 2) }
  | .vcvt =>
    { fd := .V, fa := .V,
      tys := [.i4, .i8, .i16, .i32, .ui8, .ui16, .ui32, .f32, .bf16, .f16, .nf],
      rms := if isFloatCode r.ty || o / 64 == 0 then Shape.allRm else [.rne],
      os := o / 64 ≤ 2 && nfOs r }
  | .vcvto => { fd := .V, fa := .V, fb := .pair, tys := [.nf], rms := Shape.allRm, os := true }
  | .vpack => { fd := .V, fa := .V, fb := .SL,
                tys := [.i4, .i8, .i16, .ui8, .ui16, .bf16, .f16, .nf], rms := flRm,
                os := o < 64 && nfOs r }
  | .vunpk => { fd := .V, fa := .V, fb := .SL,
                tys := [.i4, .i8, .i16, .ui8, .ui16, .bf16, .f16, .nf], os := o < 64 && nfOs r }
  | .vdot => { fd := .V, fa := .V, fb := .V, tys := [.i8, .ui8, .i4, .bf16, .f16], rms := flRm,
               os := maskOs r.os true (· == 0) }
  | .vtag => { fd := .V, fa := .V, fb := .SL, os := maskOs r.os false (· == 0) }
  | .vargm => { fd := .S, fa := .V, tys := Shape.lanes, os := maskOs r.os false (· ≤ 1) }
  | .viota => { fd := .V, fb := .SL, os := maskOs r.os true (· == 0) }
  | .vmsk => { fd := if o % 4 == 1 then Slot.V else if o % 4 == 3 then Slot.VM else Slot.M,
               fa := if o % 4 == 0 then Slot.V else if o % 4 == 3 then Slot.VM else Slot.M, os := o ≤ 2 }
  | .vcnt => { fd := .V, fa := .V, os := maskOs r.os true (· ≤ 2) }
  | .vqnt => { fd := .V, fa := .V, tys := [.nf], rms := Shape.allRm, os := o < 64 }
  | .mmas => { fd := .block, fa := .pair, fb := .pair, tys := Shape.tym, os := nfOs r }
  | .mmav => { fd := .S, fa := .quad, fb := .pair, tys := Shape.tym, os := o < 64 && nfOs r }
  | .mmar => { fd := .block, fa := .SL, fb := if 128 ≤ o then .SL else .pair, tys := Shape.tym, os := nfOs r }
  | .mcommit => { fd := .S, os := o == 0 }
  | .mwait => { fb := if o % 2 == 1 then Slot.none else Slot.SL, os := o ≤ 1 }
  | .mpoll => { fd := .PM, fb := .SL, os := o == 0 }
  | .mcmd => { fd := .S, fa := .S, fb := .S, tys := Shape.tym, os := o < 64 && nfOs r }
  | .mcap => { fd := .S, fa := .SL, os := o == 0 }
  | .aballoc => { fd := .S, os := o < 4 }
  | .abfree | .abzero => { fa := .block, os := o < 4 }
  | .abread => { fd := .V, fa := .block, fb := .SL, tys := [.f32, .bf16, .f16, .nf, .i32],
                 os := o < 64 && nfOs r }
  | .abwrite => { fd := .V, fa := .block, fb := .SL, tys := [.f32], os := o == 0 }
  | .mtq => { fd := .pair, fa := .pair, tys := [.nf], os := o < 64 }
  | .mstat => { fd := .S, fa := if o % 4 == 1 || o % 4 == 3 then Slot.SL else Slot.none, os := o ≤ 2 }
  | .wload => { fa := .SL, fb := .SL, os := o ≤ 1 }
  | .wswap => { os := o == 0 }
  | .wpass => { fd := .M, fa := .pair, fb := .V, os := maskOs r.os false (fun l => l / 2 % 2 == 0) }
  | .wres => { fa := .SL, fb := .SL, os := o ≤ 1 }
  | .wchk => { fd := .S, os := o ≤ 1 }
  | .wgacc => { fd := .M, fa := .pair, fb := .V, os := maskOs r.os false (fun _ => true) }
  | .wcfg => { fa := .SL, os := o == 0 }
  | .wstat => { fd := .S, fa := if o % 4 == 0 then Slot.none else Slot.SL, os := o < 8 && o % 4 ≤ 1 }
  | .launch => { fd := .S, fa := .S, os := o == 0 }
  | .owait => { fd := .S, fa := .SL, os := o == 0 }
  | .opoll => { fd := .PM, fa := .SL, os := o == 0 }
  | .csrr => { fd := .S, fa := .SL, os := o == 0 }
  | .csrw | .csrs | .csrc => { fd := .S, fa := .SL, fb := .S, os := o == 0 }
  | .trapret => { os := o == 0 }
  | .tlbinv => if o % 2 == 1 then { os := o == 1 } else { fa := .S, fb := .SL, os := o == 0 }
  | .evrd => { fd := .S, fa := .SL, os := o ≤ 1 }
  | .evclr => { fa := .SL, os := o == 0 }
  | .idle => { fd := .S, fa := .SL, os := o == 0 }

/-! ## The reasons of R52 -/

/-- The ILLEGAL_INSTR reasons one operand field earns under its slot. FD never accepts the literal.
DEDUCED, log entry 12. -/
def slotReasons (s : Slot) (isFd : Bool) (b : BitVec 8) : List Nat :=
  let c := b.toNat / 64
  let n := b.toNat % 64
  if s.step then (if b.toNat < 16 then [] else [0x0A])
  else if !s.used then (if b.toNat == 0 then [] else [0x0A])
  else if s.zero && b.toNat == 0 then []
  else
    let isLit := c == 0 && n == 63
    let reserved := (c == 0 && 32 ≤ n && n ≤ 62) || (c == 1 && 32 ≤ n) || (c == 2 && 16 ≤ n)
    let classOk :=
      if c == 0 then (s.sc || (isLit && s.lit)) else if c == 1 then s.ve
      else if c == 2 then (if n < 8 then s.pd else s.ms) else s.sp
    (if reserved || (classOk && !isLit && !s.nums.ok n) then [0x03] else [])
      ++ (if classOk then [] else [0x04])
      ++ (if isLit && (isFd || !s.lit) then [0x05] else [])

/-- Whether a word names the literal operand in a slot that accepts it. -/
def namesLiteral (s : Shape) (r : Raw) : Bool :=
  (s.fa.used && s.fa.lit && r.fa == 63) || (s.fb.used && s.fb.lit && r.fb == 63)

/-- Every reason a word earns, but 0x01 (which needs no opcode) and 0x0B (R44, R52).
DEDUCED, log entry 15.
DEDUCED, log entry 16. -/
def reasons (caps : Caps) (op : Opcode) (r : Raw) : List Nat :=
  let s := shape caps op r
  (if r.gn && r.gp == 0 then [0x02] else [])
    ++ slotReasons s.fd true r.fd ++ slotReasons s.fa false r.fa ++ slotReasons s.fb false r.fb
    ++ (match Ty.ofCode r.ty with
        | some ty => if s.tys.contains ty then [] else [0x06]
        | none => [0x06])
    ++ (match Rm.ofCode r.rm with
        | some rm => if s.rms.contains rm && (rm != .stoch || caps.stoch) then [] else [0x07]
        | none => [0x07])
    ++ (if s.szs.contains r.sz.toNat then [] else [0x08])
    ++ (if s.os then [] else [0x09])
    ++ (if op == .linc || r.lit == 0 || namesLiteral s r then [] else [0x0A])

/-- The lowest reason of a list (R51).
DEDUCED, log entry 13. -/
def lowest : List Nat → Option Nat
  | [] => none
  | x :: xs =>
    match lowest xs with
    | none => some x
    | some y => some (if x ≤ y then x else y)

/-- The reason ILLEGAL_INSTR is raised with for a word of an assigned opcode, if it is (R51). -/
def illegalReason (caps : Caps) (op : Opcode) (r : Raw) : Option Nat := lowest (reasons caps op r)

/-! ## S forms -/

/-- The class R49 implies for an S slot. -/
inductive SClass where
  | none | sc | scLit | ve | pm
  deriving DecidableEq, Repr

/-- The opcode, MOD fields and slot classes of a short opcode (R49). -/
structure SEntry where
  op : Opcode
  ty : Ty := .i8
  sz : BitVec 3 := 0
  d : SClass := .none
  a : SClass := .none
  b : SClass := .none
  deriving DecidableEq, Repr

/-- The short-opcode table (R49). -/
def ShortOp.entry : ShortOp → SEntry
  | .nop => { op := .nop }
  | .addI64 => { op := .add, ty := .i64, d := .sc, a := .sc, b := .scLit }
  | .subI64 => { op := .sub, ty := .i64, d := .sc, a := .sc, b := .scLit }
  | .mulI64 => { op := .mul, ty := .i64, d := .sc, a := .sc, b := .scLit }
  | .andI64 => { op := .and, ty := .i64, d := .sc, a := .sc, b := .scLit }
  | .orI64 => { op := .or, ty := .i64, d := .sc, a := .sc, b := .scLit }
  | .xorI64 => { op := .xor, ty := .i64, d := .sc, a := .sc, b := .scLit }
  | .shlI64 => { op := .shl, ty := .i64, d := .sc, a := .sc, b := .scLit }
  | .shrI64 => { op := .shr, ty := .i64, d := .sc, a := .sc, b := .scLit }
  | .sarI64 => { op := .sar, ty := .i64, d := .sc, a := .sc, b := .scLit }
  | .minI64 => { op := .min, ty := .i64, d := .sc, a := .sc, b := .scLit }
  | .maxI64 => { op := .max, ty := .i64, d := .sc, a := .sc, b := .scLit }
  | .movI64 => { op := .mov, ty := .i64, d := .sc, a := .sc }
  | .cmpI64Eq => { op := .cmp, ty := .i64, sz := 0, d := .pm, a := .sc, b := .scLit }
  | .cmpI64Ne => { op := .cmp, ty := .i64, sz := 1, d := .pm, a := .sc, b := .scLit }
  | .cmpI64Lt => { op := .cmp, ty := .i64, sz := 2, d := .pm, a := .sc, b := .scLit }
  | .cmpI64Ge => { op := .cmp, ty := .i64, sz := 3, d := .pm, a := .sc, b := .scLit }
  | .cmpI64Ltu => { op := .cmp, ty := .i64, sz := 4, d := .pm, a := .sc, b := .scLit }
  | .cmpI64Geu => { op := .cmp, ty := .i64, sz := 5, d := .pm, a := .sc, b := .scLit }
  | .ldI64 => { op := .ld, ty := .i64, d := .sc, a := .sc, b := .scLit }
  | .ldI32 => { op := .ld, ty := .i32, d := .sc, a := .sc, b := .scLit }
  | .stI64 => { op := .st, ty := .i64, d := .sc, a := .sc, b := .scLit }
  | .stI32 => { op := .st, ty := .i32, d := .sc, a := .sc, b := .scLit }
  | .ldv => { op := .ldv, d := .ve, a := .sc, b := .scLit }
  | .stv => { op := .stv, d := .ve, a := .sc, b := .scLit }
  | .faddF32Rne => { op := .fadd, ty := .f32, d := .sc, a := .sc, b := .sc }
  | .fsubF32Rne => { op := .fsub, ty := .f32, d := .sc, a := .sc, b := .sc }
  | .fmulF32Rne => { op := .fmul, ty := .f32, d := .sc, a := .sc, b := .sc }
  | .ffmaF32Rne => { op := .ffma, ty := .f32, d := .sc, a := .sc, b := .sc }
  | .vaddF32Rne => { op := .vadd, ty := .f32, d := .ve, a := .ve, b := .ve }
  | .vsubF32Rne => { op := .vsub, ty := .f32, d := .ve, a := .ve, b := .ve }
  | .vmulF32Rne => { op := .vmul, ty := .f32, d := .ve, a := .ve, b := .ve }
  | .vfmaF32Rne => { op := .vfma, ty := .f32, d := .ve, a := .ve, b := .ve }
  | .vminF32 => { op := .vmin, ty := .f32, d := .ve, a := .ve, b := .ve }
  | .vmaxF32 => { op := .vmax, ty := .f32, d := .ve, a := .ve, b := .ve }
  | .vaddI32 => { op := .vadd, ty := .i32, d := .ve, a := .ve, b := .ve }
  | .vsubI32 => { op := .vsub, ty := .i32, d := .ve, a := .ve, b := .ve }
  | .vand => { op := .vand, d := .ve, a := .ve, b := .ve }
  | .vor => { op := .vor, d := .ve, a := .ve, b := .ve }
  | .vxor => { op := .vxor, d := .ve, a := .ve, b := .ve }
  | .br => { op := .br, b := .scLit }
  | .ret => { op := .ret }
  | .exit => { op := .exit }
  | .yield => { op := .yield }
  | .mcommit => { op := .mcommit, d := .sc }
  | .mwait => { op := .mwait, b := .scLit }
  | .mpoll => { op := .mpoll, d := .pm, b := .scLit }

/-- An S slot's operand (R46, R47): literals 32..63 in a "scalar or literal" slot name the literal
operand. -/
def SClass.opd : SClass → BitVec 6 → Opd
  | .ve, n => ⟨.vector, n⟩
  | .pm, n => ⟨.pred, n⟩
  | .scLit, n => if 32 ≤ n.toNat then ⟨.scalar, 63⟩ else ⟨.scalar, n⟩
  | _, n => ⟨.scalar, n⟩

/-- The reasons an S slot earns (R46, R47). -/
def SClass.reasons : SClass → BitVec 6 → List Nat
  | .none, n => if n.toNat == 0 then [] else [0x0A]
  | .sc, n => if n.toNat == 63 then [0x05] else if 32 ≤ n.toNat then [0x03] else []
  | .scLit, _ => []
  | .ve, n => if 32 ≤ n.toNat then [0x03] else []
  | .pm, n => if 16 ≤ n.toNat then [0x03] else []

/-- The expansion of an S form (R46, R47). -/
def SFields.expand (o : ShortOp) (f : SFields) : Fields :=
  let e := o.entry
  { form := .s, guard := ⟨false, f.p⟩, hints := ⟨false, false, 0, f.t⟩,
    fd := e.d.opd f.d, fa := e.a.opd f.a, fb := e.b.opd f.b,
    os := 0, sz := e.sz, rm := .rne, ty := e.ty,
    lit := if e.b = .scLit && decide (32 ≤ f.b.toNat) then BitVec.ofInt 32 ((f.b.toNat : Int) - 48) else 0 }

/-- The reason an S form earns, if it does (R51). -/
def shortReason (o : ShortOp) (f : SFields) : Option Nat :=
  let e := o.entry
  lowest (e.d.reasons f.d ++ e.a.reasons f.a ++ e.b.reasons f.b)

/-! ## Well-formed terms -/

/-- Well-formed fields of an opcode: an M or L form, LIT 0 in an M form, no reason (R24, R48, R52). -/
def wfFields (op : Opcode) (w : Fields) : Bool :=
  w.form != .s && (w.form == .l || w.lit == 0) && (illegalReason Caps.full op w.raw).isNone

/-- Well-formed S fields. -/
def wfShort (o : ShortOp) (f : SFields) : Bool := (shortReason o f).isNone

/-- A logical rank number (R6): one of 0..1,012. -/
def lrnOk (l : BitVec 10) : Bool := decide (l.toNat ≤ 1012)

/-- A message of a peer (R247, R249). -/
def PeerMsg.wf (p : PeerMsg) : Bool := lrnOk p.lrn && decide (p.data.length ≤ 4194304) && p.data.length % 8 == 0

/-- News of a step (R253, R258, R267): bytes within a rank, causes 1 to 7. -/
def StepNews.wf : StepNews → Bool
  | .failed _ cause => 1 ≤ cause.toNat && cause.toNat ≤ 7
  | .entered _ lrn _ _ _ _ _ _ => lrnOk lrn
  | .wrote _ lrn _ data => lrnOk lrn && !data.isEmpty
  | _ => true

/-- News of a beacon's directory (R6, R198). -/
def BeaconNews.wf : BeaconNews → Bool
  | .oldest => true
  | .asked lrn _ _ | .tried lrn _ _ | .withdrawn lrn _ | .released lrn _ _ _ => lrnOk lrn

/-- A near section (R65, R82): whole in 32-bit near space, its RANKREL fields inside it. -/
def NearSection.wf (n : NearSection) : Bool :=
  decide (n.addr.toNat + n.data.length ≤ 2 ^ 32) && n.rankrel.all (fun r => decide (r.1 + 4 ≤ n.data.length))

/-- The data events carry, held to the ranges the part can present: an outside request's length (R137), a rank's
number (R6), a message's bytes (R247), a chunk's (R275), a near section's fields (R82) and a fuse map of 11 sites
(R12).
DESIGN CHOICE, log entry 20. -/
def wfEvent : Instr → Bool
  | .outsideRead r => 1 ≤ r.len && r.len ≤ 4096
  | .outsideWrite r (.inl d) => 1 ≤ r.len && r.len ≤ 4096 && d.length == r.len
  | .outsideWrite _ (.inr (.atom ty op _ rm _ _)) =>
    (if op.toNat ≤ 7 then ty == .i32 || ty == .i64 else if op == 8 then ty == .i32 || ty == .i64 || ty == .f32
      else op == 9 && ty == .f32) && (op == 9 || rm == .rne)
  | .outsideWrite _ (.inr (.cas ty _ _)) => ty == .i32 || ty == .i64
  | .xltInvRange _ _ p => p.scope == 0 || p.scope == 3
  | .xltInvAsid w => w.extractLsb' 16 2 == 1 && !w.getLsbD 18
  | .xltInvVf w => w.extractLsb' 16 2 == 2 && !w.getLsbD 18
  | .mcmdArrive m => lrnOk m.lrn
  | .messageMatch _ p => p.wf
  | .messageLand _ p => p.wf
  | .stepProgress _ p => p.wf
  | .beaconGrant t => t.news.wf
  | .coldStart b => b.fused.length == 11 && decide b.fused.Nodup
  | .bootCtlWarm _ b => b.fused.length == 11 && decide b.fused.Nodup
  | .chunkArrive k => lrnOk k.lrn && 8 ≤ k.data.length && k.data.length ≤ 4096 && k.data.length % 8 == 0
  | .slotRecordWrite _ _ r => r.bits.extractLsb' 0 2 == 0 || lrnOk (r.bits.extractLsb' 112 10)
  | .dispatchStart d => d.lrns.all (fun l => lrnOk l.1) && d.near.all NearSection.wf
  | _ => true

/-- Well-formed instructions. -/
def Instr.wf (i : Instr) : Bool :=
  match i.view with
  | .op o w => wfFields o w
  | .short o f => wfShort o f
  | .event => wfEvent i

/-- Well-formedness as a proposition. -/
abbrev WellFormed (i : Instr) : Prop := i.wf = true

end Sys2Proof
end

