-- ==== Sys2Proof/Decode.lean ====
section
/-! DEFINITION. From parcels to instructions (R22 to R25, R44 to R52) and back: the decoder, total on any
bytes, and an encoder written from the same field tables. -/

namespace Sys2Proof

/-- Why bytes are no instruction (R50). -/
inductive Reject where
  /-- LEN is 0b00 (reason 0x01) or the word earns another reason of R52. -/
  | illegal (reason : BitVec 8)
  /-- The OPC is unassigned, or with `short` the SOPC. -/
  | reservedOpc (short : Bool) (code : BitVec 10)
  /-- Fewer bytes than the length code asks for. -/
  | truncated
  deriving DecidableEq, Repr

/-- Parcels an instruction with this first parcel takes (R23); a LEN of 0b00 takes one. -/
def parcels (p0 : BitVec 32) : Nat :=
  match (p0.extractLsb' 0 2).toNat with
  | 2 => 2
  | 3 => 3
  | _ => 1

def Opcode.ofCode (c : BitVec 10) : Option Opcode := Opcode.all.find? (fun o => o.code == c)

def ShortOp.ofCode (c : BitVec 8) : Option ShortOp := ShortOp.all.find? (fun o => o.code == c)

/-- The fields of an internal word (R25). -/
def rawOf (form : Form) (iw : BitVec 96) : Raw :=
  { form := form,
    gp := iw.extractLsb' 12 3, gn := iw.getLsbD 15, tr := iw.getLsbD 16,
    stall := iw.extractLsb' 17 3, yd := iw.getLsbD 20, db := iw.getLsbD 21,
    fd := iw.extractLsb' 22 8, fa := iw.extractLsb' 30 8, fb := iw.extractLsb' 38 8,
    os := iw.extractLsb' 46 8, sz := iw.extractLsb' 54 3, rm := iw.extractLsb' 57 3,
    ty := iw.extractLsb' 60 4, lit := iw.extractLsb' 64 32 }

/-- The fields of an S-form parcel (R45). -/
def shortOf (p : BitVec 32) : SFields :=
  { t := p.getLsbD 31, p := p.extractLsb' 28 3, b := p.extractLsb' 22 6, a := p.extractLsb' 16 6,
    d := p.extractLsb' 10 6 }

/-- Decode an M or L form from its internal word (R24, R44, R51). -/
def decodeWide (caps : Caps) (form : Form) (iw : BitVec 96) : Except Reject Instr :=
  match Opcode.ofCode (iw.extractLsb' 2 10) with
  | none => .error (.reservedOpc false (iw.extractLsb' 2 10))
  | some op =>
    let r := rawOf form iw
    match illegalReason caps op r with
    | some n => .error (.illegal (BitVec.ofNat 8 n))
    | none =>
      match r.fields with
      | some w => .ok (Instr.ofOp op w)
      | none => .error (.illegal 0x06)

/-- Decode an S form (R45 to R47, R49, R51). -/
def decodeShort (p : BitVec 32) : Except Reject Instr :=
  match ShortOp.ofCode (p.extractLsb' 2 8) with
  | none => .error (.reservedOpc true ((p.extractLsb' 2 8).setWidth 10))
  | some o =>
    let f := shortOf p
    match shortReason o f with
    | some n => .error (.illegal (BitVec.ofNat 8 n))
    | none => .ok (Instr.ofShort o f)

/-- Decode from three parcels; those beyond the length code's count are not read (R23, R24). -/
def decodeParcels (caps : Caps) (p0 p1 p2 : BitVec 32) : Except Reject Instr :=
  match (p0.extractLsb' 0 2).toNat with
  | 1 => decodeShort p0
  | 2 => decodeWide caps .m ((0 : BitVec 32) ++ p1 ++ p0)
  | 3 => decodeWide caps .l (p2 ++ p1 ++ p0)
  | _ => .error (.illegal 0x01)

/-- A parcel from its four bytes, lowest address first (R2, R22). -/
def parcelOf (b0 b1 b2 b3 : Byte) : BitVec 32 := b3 ++ b2 ++ b1 ++ b0

/-- Decode the instruction that starts a byte list, answering it with the bytes that follow it. -/
def decode (caps : Caps) (bytes : List Byte) : Except Reject (Instr × List Byte) :=
  match bytes with
  | b0 :: b1 :: b2 :: b3 :: rest =>
    let p0 := parcelOf b0 b1 b2 b3
    match parcels p0, rest with
    | 1, _ => (decodeParcels caps p0 0 0).map (·, rest)
    | 2, c0 :: c1 :: c2 :: c3 :: rest' => (decodeParcels caps p0 (parcelOf c0 c1 c2 c3) 0).map (·, rest')
    | 3, c0 :: c1 :: c2 :: c3 :: d0 :: d1 :: d2 :: d3 :: rest' =>
      (decodeParcels caps p0 (parcelOf c0 c1 c2 c3) (parcelOf d0 d1 d2 d3)).map (·, rest')
    | _, _ => .error .truncated
  | _ => .error .truncated

/-- The bytes of a number, `n` of them, lowest first (R2). -/
def bytesOfNat : Nat → Nat → List Byte
  | 0, _ => []
  | n + 1, v => BitVec.ofNat 8 v :: bytesOfNat n (v / 256)

/-- What the decoder reads from a table row's word: its bits laid out as parcels in memory, every bit
above `nbits` zero.
DESIGN CHOICE, log entry 18. -/
def decodeTableWord (nbits w : Nat) : Option Instr :=
  match decode Caps.full (bytesOfNat 12 (w % 2 ^ nbits)) with
  | .ok (i, _) => some i
  | .error _ => none

/-! ## The encoder -/

def Form.code : Form → BitVec 2
  | .s => 1 | .m => 2 | .l => 3

/-- The internal word of an opcode and fields (R25). -/
def Raw.word (op : Opcode) (r : Raw) : BitVec 96 :=
  r.lit ++ (r.ty ++ (r.rm ++ (r.sz ++ (r.os ++ (r.fb ++ (r.fa ++ (r.fd ++
    (BitVec.ofBool r.db ++ (BitVec.ofBool r.yd ++ (r.stall ++ (BitVec.ofBool r.tr ++
      (BitVec.ofBool r.gn ++ (r.gp ++ (op.code ++ r.form.code))))))))))))))

/-- The S-form parcel of a short opcode and its fields (R45). -/
def SFields.parcel (o : ShortOp) (f : SFields) : BitVec 32 :=
  BitVec.ofBool f.t ++ (f.p ++ (f.b ++ (f.a ++ (f.d ++ (o.code ++ Form.s.code)))))

/-- The parcels of a well-formed instruction, first parcel first; an event has none (R24, R45). -/
def encode (i : Instr) : List (BitVec 32) :=
  match i.view with
  | .op o w =>
    let iw := w.raw.word o
    if w.form == .l then [iw.extractLsb' 0 32, iw.extractLsb' 32 32, iw.extractLsb' 64 32]
    else [iw.extractLsb' 0 32, iw.extractLsb' 32 32]
  | .short o f => [f.parcel o]
  | .event => []

/-- The bytes of parcels as memory holds them (R2, R22). -/
def parcelBytes (ps : List (BitVec 32)) : List Byte := ps.flatMap (fun p => bytesOfNat 4 p.toNat)

/-- The length in bytes of an instruction's encoding (R23); an event has none. -/
def Instr.bytes (i : Instr) : Nat := 4 * (encode i).length

end Sys2Proof
end

