-- ==== Sys2Proof/Machine/Float.lean ====
section
/-! DEFINITION. Number formats (R88 to R97), the one rounding procedure (R98, R99), exact arithmetic on
decoded values, the special functions (R349, R350) and the FP32 accumulator pair (R104, R105). -/

namespace Sys2Proof.Machine

/-- Event counts an operation adds (R106). -/
structure Ev where
  inexact : Nat := 0
  overflow : Nat := 0
  underflow : Nat := 0
  nanMade : Nat := 0
  srOvf : Nat := 0
  clip : Nat := 0
  tagMisses : Nat := 0
  outliers : Nat := 0
  deriving DecidableEq, Repr

def Ev.zero : Ev := {}

def Ev.add (a b : Ev) : Ev :=
  { inexact := a.inexact + b.inexact, overflow := a.overflow + b.overflow,
    underflow := a.underflow + b.underflow, nanMade := a.nanMade + b.nanMade,
    srOvf := a.srOvf + b.srOvf, clip := a.clip + b.clip, tagMisses := a.tagMisses + b.tagMisses,
    outliers := a.outliers + b.outliers }

/-- The counts in the order of the counters 0..7 (R106, R453). -/
def Ev.list (a : Ev) : List Nat :=
  [a.inexact, a.overflow, a.underflow, a.nanMade, a.srOvf, a.clip, a.tagMisses, a.outliers]

/-- An exact value: NaN, an infinity, or `(-1)^neg * (mant + d) * 2^exp` with `d = 0`, or `0 < d < 1`
where `sticky` is set. -/
inductive Num where
  | nan
  | inf (neg : Bool)
  | fin (neg : Bool) (mant : Nat) (exp : Int) (sticky : Bool)
  deriving DecidableEq, Repr

def Num.isNan : Num → Bool
  | .nan => true
  | _ => false

def Num.isInf : Num → Bool
  | .inf _ => true
  | _ => false

def Num.isZero : Num → Bool
  | .fin _ 0 _ false => true
  | _ => false

/-- The sign of a value; a NaN has none. -/
def Num.neg : Num → Bool
  | .nan => false
  | .inf n => n
  | .fin n _ _ _ => n

def Num.zero (neg : Bool) : Num := .fin neg 0 0 false

def Num.ofInt (i : Int) : Num := .fin (i < 0) i.natAbs 0 false

/-- The value with its sign flipped. -/
def Num.flip : Num → Num
  | .nan => .nan
  | .inf n => .inf (!n)
  | .fin n m e s => .fin (!n) m e s

def Num.abs : Num → Num
  | .nan => .nan
  | .inf _ => .inf false
  | .fin _ m e s => .fin false m e s

/-- A floating format (R89, R95): its shape, its specials and its overflow policy (R98, R99). -/
structure Fmt where
  signed : Bool
  expBits : Nat
  man : Nat
  bias : Int
  sub : Bool
  spec : Nat
  sat : Bool
  deriving DecidableEq, Repr

namespace Fmt
def hasInf (f : Fmt) : Bool := f.spec == 0
def hasNan (f : Fmt) : Bool := f.spec != 2
def emin (f : Fmt) : Int := 1 - f.bias
/-- The magnitude code with every exponent and mantissa bit set. -/
def allOnes (f : Fmt) : Nat := 2 ^ (f.expBits + f.man) - 1
/-- The highest magnitude code that is finite (R95). -/
def maxCode (f : Fmt) : Nat :=
  if f.spec == 0 then (2 ^ f.expBits - 1) * 2 ^ f.man - 1
  else if f.spec == 1 then f.allOnes - 1 else f.allOnes
/-- The canonical NaN's code (R89, R95). -/
def nanCode (f : Fmt) : Nat :=
  if f.spec == 0 then (2 ^ f.expBits - 1) * 2 ^ f.man + 2 ^ (f.man - 1) else f.allOnes
def infCode (f : Fmt) : Nat := (2 ^ f.expBits - 1) * 2 ^ f.man
/-- The bits a code holds. -/
def bits (f : Fmt) : Nat := (if f.signed then 1 else 0) + f.expBits + f.man
/-- A magnitude code with a sign. -/
def withSign (f : Fmt) (neg : Bool) (mag : Nat) : Nat :=
  if neg && f.signed then mag + 2 ^ (f.expBits + f.man) else mag

/-- The value of a code (R89, R95). -/
def decode (f : Fmt) (code : Nat) : Num :=
  let c := code % 2 ^ f.bits
  let neg := f.signed && decide (2 ^ (f.expBits + f.man) ≤ c)
  let mag := c % 2 ^ (f.expBits + f.man)
  let e := mag / 2 ^ f.man
  let m := mag % 2 ^ f.man
  if f.spec == 0 && e == 2 ^ f.expBits - 1 then (if m == 0 then .inf neg else .nan)
  else if f.spec == 1 && mag == f.allOnes then .nan
  else if e == 0 then
    (if f.sub && m != 0 then .fin neg m (f.emin - f.man) false else .zero neg)
  else .fin neg (2 ^ f.man + m) ((e : Int) - f.bias - f.man) false
end Fmt

/-- FP32 (R89) with a policy. -/
def fmtF32 (sat : Bool) : Fmt := ⟨true, 8, 23, 127, true, 0, sat⟩
/-- BF16 (R89) with a policy. -/
def fmtBF16 (sat : Bool) : Fmt := ⟨true, 8, 7, 127, true, 0, sat⟩
/-- FP16 (R89) with a policy. -/
def fmtF16 (sat : Bool) : Fmt := ⟨true, 5, 10, 15, true, 0, sat⟩

/-! ## Format descriptors (R91, R92) -/

/-- The fields of a format descriptor (R91). -/
structure Desc where
  valid : Bool
  reserved : Bool
  offset : Nat
  side : Bool
  scfd : BitVec 6
  sckind : Bool
  block : Nat
  sub : Bool
  ovf : Bool
  spec : Nat
  bias : Int
  man : Nat
  expBits : Nat
  signed : Bool
  deriving DecidableEq, Repr

/-- The descriptor a 64-bit word holds (R91). -/
def Desc.ofWord (w : Word) : Desc :=
  { valid := w.getLsbD 63, reserved := w.getLsbD 62, offset := (w.extractLsb' 30 32).toNat,
    side := w.getLsbD 29, scfd := w.extractLsb' 23 6, sckind := w.getLsbD 22,
    block := (match (w.extractLsb' 20 2).toNat with | 0 => 0 | 1 => 16 | 2 => 32 | _ => 64),
    sub := w.getLsbD 19, ovf := w.getLsbD 18, spec := (w.extractLsb' 16 2).toNat,
    bias := (w.extractLsb' 8 8).toInt, man := (w.extractLsb' 5 3).toNat,
    expBits := (w.extractLsb' 1 4).toNat, signed := w.getLsbD 0 }

/-- The conditions of R92 that look at the descriptor alone. -/
def Desc.selfOk (d : Desc) : Bool :=
  d.valid && !d.reserved && d.spec != 3 && 1 ≤ d.expBits && d.expBits ≤ 8
    && (if d.signed then 1 else 0) + d.expBits + d.man ≤ 8
    && !(d.spec == 0 && (decide (d.expBits < 2) || d.man == 0))
    && !(d.spec == 1 && decide (d.expBits + d.man < 2))
    && !(d.ovf && d.spec != 0)
    && !(d.block == 0 && (d.sckind || d.scfd != 0 || d.side || d.offset != 0))

/-- Whether descriptor `n` of a table is valid (R92). A scale descriptor has BLOCK = 0, so it names no
other in turn. -/
def descOk (table : BitVec 6 → Word) (n : BitVec 6) : Bool :=
  let d := Desc.ofWord (table n)
  let sd := Desc.ofWord (table d.scfd)
  d.selfOk && (!d.sckind || (d.scfd != n && sd.selfOk && sd.block == 0))

/-- The element format of a descriptor. -/
def Desc.fmt (d : Desc) : Fmt := ⟨d.signed, d.expBits, d.man, d.bias, d.sub, d.spec, !d.ovf⟩

/-- The container width of R94. -/
def Desc.width (d : Desc) : Nat :=
  let b := d.fmt.bits
  if b ≤ 2 then 2 else if b ≤ 4 then 4 else 8

/-- A valid descriptor with the scale descriptor it names, as an instruction carries them. -/
structure FmtRef where
  desc : Desc
  scale : Option Fmt
  deriving DecidableEq, Repr

/-- The value of a scale byte (R96). -/
def FmtRef.scaleOf (r : FmtRef) (b : Nat) : Num :=
  match r.scale with
  | some f => f.decode (b % 256)
  | none => if b % 256 == 255 then .nan else .fin false 1 ((b % 256 : Nat) - 127) false

/-! ## Rounding (R98, R99) -/

/-- Flags of one rounding (R98, R99): inexact, overflow, underflow and stochastic overflow. -/
def evInexact : Ev := { inexact := 1 }

/-- The result of an overflow (R99), as a code. -/
def overflowCode (f : Fmt) (neg : Bool) (rm : Rm) : Nat :=
  let toMax :=
    f.sat || !f.hasInf ||
    (match rm with
     | .rtz => true
     | .rup => neg
     | .rdn => !neg
     | _ => false)
  f.withSign neg (if toMax then f.maxCode else f.infCode)

/-- Where `mant * 2^exp` falls on the grid `2^qe`: whole quanta, and the remainder over `2^n`. -/
def splitAt' (mant : Nat) (exp qe : Int) : Nat × Nat × Nat :=
  if qe ≤ exp then (mant * 2 ^ (exp - qe).toNat, 0, 0)
  else
    let n := (qe - exp).toNat
    (mant / 2 ^ n, mant % 2 ^ n, n)

/-- Whether the rounding mode rounds the magnitude up (R98): `t` whole quanta, remainder `rem / 2^n`
and `sticky` for a part below it; `draw` is the 32-bit stochastic draw (R100). -/
def roundUp (rm : Rm) (neg : Bool) (t rem n : Nat) (sticky : Bool) (draw : BitVec 32) : Bool :=
  let above := decide (2 ^ n < 2 * rem) || (2 * rem == 2 ^ n && n != 0 && sticky)
  let half := 2 * rem == 2 ^ n && n != 0 && !sticky
  let some := rem != 0 || sticky
  match rm with
  | .rne | .dyn => above || (half && t % 2 == 1)
  | .rna => above || half
  | .rtz => false
  | .rup => some && !neg
  | .rdn => some && neg
  | .stoch => decide (2 ^ 32 ≤ rem * 2 ^ 32 / 2 ^ n + draw.toNat)

/-- RoundToFormat (R98): the code delivered and what it counts. The rounding mode is resolved. -/
def roundTo (f : Fmt) (rm : Rm) (draw : BitVec 32) : Num → Nat × Ev
  | .nan => if f.hasNan then (f.nanCode, {}) else (0, evInexact)
  | .inf neg =>
    if neg && !f.signed then (0, evInexact)
    else if f.hasInf then (f.withSign neg f.infCode, {})
    else (f.withSign neg f.maxCode, evInexact)
  | .fin neg mant exp sticky =>
    if mant == 0 && !sticky then (f.withSign neg 0, {})
    else if neg && !f.signed then (0, evInexact)
    else
      let e0 : Int := exp + Nat.log2 mant
      let e : Int := if f.sub && decide (e0 < f.emin) then f.emin else e0
      let qe : Int := e - f.man
      let (t, rem, n) := splitAt' mant exp qe
      let up := roundUp rm neg t rem n sticky draw
      let t' := if up then t + 1 else t
      let code : Int := (e - f.emin) * (2 ^ f.man : Nat) + t'
      let inexact := rem != 0 || sticky
      if (f.maxCode : Int) < code then
        let rneUp := roundUp .rne neg t rem n sticky 0
        let rneCode : Int := (e - f.emin) * (2 ^ f.man : Nat) + (if rneUp then t + 1 else t)
        (overflowCode f neg rm,
         { inexact := 1, overflow := 1,
           srOvf := if rm == .stoch && decide (rneCode ≤ f.maxCode) then 1 else 0 })
      else if !f.sub && decide (code < (2 ^ f.man : Nat)) then
        (f.withSign neg 0, { inexact := 1, underflow := 1 })
      else
        (f.withSign neg code.toNat,
         { inexact := if inexact then 1 else 0,
           underflow := if inexact && decide (e0 < f.emin) then 1 else 0 })

/-- A value rounded to FP32 and read back, as accumulation and the special functions round (R104,
R350): RNE under the IEEE policy. -/
def roundF32 (x : Num) : Num × Ev :=
  let (c, ev) := roundTo (fmtF32 false) .rne 0 x
  ((fmtF32 false).decode c, ev)

/-! ## Exact arithmetic (R90, R335) -/

/-- A signed integer scaled to a power of two not above its own. -/
def alignTo (neg : Bool) (mant : Nat) (exp e : Int) : Int :=
  let m : Int := (mant * 2 ^ (exp - e).toNat : Nat)
  if neg then -m else m

/-- The exact sum. An exact zero from operands of opposite signs is +0, but -0 under RDN (R98). -/
def addNum (rm : Rm) : Num → Num → Num
  | .nan, _ => .nan
  | _, .nan => .nan
  | .inf a, .inf b => if a == b then .inf a else .nan
  | .inf a, _ => .inf a
  | _, .inf b => .inf b
  | .fin n1 m1 e1 s1, .fin n2 m2 e2 s2 =>
    if m1 == 0 && !s1 && m2 == 0 && !s2 then .zero (if n1 == n2 then n1 else rm == .rdn)
    else if m1 == 0 && !s1 then .fin n2 m2 e2 s2
    else if m2 == 0 && !s2 then .fin n1 m1 e1 s1
    else
      let e := if e1 ≤ e2 then e1 else e2
      let i := alignTo n1 m1 e1 e + alignTo n2 m2 e2 e
      if i == 0 then .zero (rm == .rdn) else .fin (i < 0) i.natAbs e (s1 || s2)

/-- The exact product. -/
def mulNum : Num → Num → Num
  | .nan, _ => .nan
  | _, .nan => .nan
  | .inf a, .inf b => .inf (a != b)
  | .inf a, .fin b m _ s => if m == 0 && !s then .nan else .inf (a != b)
  | .fin a m _ s, .inf b => if m == 0 && !s then .nan else .inf (a != b)
  | .fin n1 m1 e1 s1, .fin n2 m2 e2 s2 => .fin (n1 != n2) (m1 * m2) (e1 + e2) (s1 || s2)

/-- The quotient to at least 96 bits, with the rest in `sticky`. A finite value over a zero gives an
infinity (R335). -/
def divNum : Num → Num → Num
  | .nan, _ => .nan
  | _, .nan => .nan
  | .inf _, .inf _ => .nan
  | .inf a, .fin b _ _ _ => .inf (a != b)
  | .fin a _ _ _, .inf b => .zero (a != b)
  | .fin n1 m1 e1 _, .fin n2 m2 e2 _ =>
    if m2 == 0 then (if m1 == 0 then .nan else .inf (n1 != n2))
    else if m1 == 0 then .zero (n1 != n2)
    else
      let k := Nat.log2 m2 + 97
      .fin (n1 != n2) (m1 * 2 ^ k / m2) (e1 - e2 - k) (m1 * 2 ^ k % m2 != 0)

/-- The integer square root by bits, highest first: `bit` bits are still to try. -/
def isqrtFrom : Nat → Nat → Nat → Nat
  | 0, _, r => r
  | b + 1, n, r =>
    let c := r + 2 ^ b
    isqrtFrom b n (if c * c ≤ n then c else r)

/-- The integer square root. -/
def isqrt (n : Nat) : Nat := isqrtFrom (Nat.log2 n / 2 + 1) n 0

/-- The square root of a value to at least 96 bits (R335, R349). -/
def sqrtNum : Num → Num
  | .nan => .nan
  | .inf neg => if neg then .nan else .inf false
  | .fin neg m e _ =>
    if m == 0 then .zero neg
    else if neg then .nan
    else
      let odd := e % 2 != 0
      let m1 := if odd then 2 * m else m
      let e1 := if odd then e - 1 else e
      let m2 := m1 * 2 ^ 200
      let r := isqrt m2
      .fin false r (e1 / 2 - 100) (r * r != m2)

/-- The reciprocal square root (R349): of a zero an infinity of minus or plus, of +∞ a zero. -/
def rsqrtNum : Num → Num
  | .nan => .nan
  | .inf neg => if neg then .nan else .zero false
  | .fin neg m e _ =>
    if m == 0 then .inf neg
    else if neg then .nan
    else
      let odd := e % 2 != 0
      let m1 := if odd then 2 * m else m
      let e1 := if odd then e - 1 else e
      let k := Nat.log2 m1 + 201
      let q := 2 ^ (2 * k) / m1
      let r := isqrt q
      .fin false r (-(e1 / 2) - k) (r * r * m1 != 2 ^ (2 * k))

/-- Fixed-point precision of the exponential and the logarithm. -/
def fixBits : Nat := 480

/-- The product of the roots `2^(1/2), 2^(1/4), …` that a binary fraction's bits select: `n` bits of
`frac` are left, `root` is the current root and `acc` the product, both over `2^fixBits`. -/
def exp2Frac : Nat → Nat → Nat → Nat → Nat
  | 0, _, _, acc => acc
  | n + 1, frac, root, acc =>
    let acc' := if frac.testBit n then acc * root / 2 ^ fixBits else acc
    exp2Frac n frac (isqrt (root * 2 ^ fixBits)) acc'

/-- The power of two of a value (R349). -/
def exp2Num : Num → Num
  | .nan => .nan
  | .inf neg => if neg then .zero false else .inf false
  | .fin neg m e _ =>
    if m == 0 then .fin false 1 0 false
    else if decide (512 ≤ (m * 2 ^ e.toNat) / 2 ^ (-e).toNat) then
      (if neg then .fin false 1 (-512) true else .fin false 1 512 true)
    else
      let k := (-e).toNat
      let i : Int := alignTo neg m e (-(k : Int))
      let whole := i / (2 ^ k : Nat)
      let frac := (i % (2 ^ k : Nat)).toNat
      if frac == 0 then .fin false 1 whole false
      else
        .fin false (exp2Frac k frac (isqrt (2 * 2 ^ (2 * fixBits))) (2 ^ fixBits) / 2 ^ (fixBits - 128))
          (whole - 128) true

/-- Bits of the binary logarithm of a value in [1, 2), highest first: `x` is over `2^fixBits`. -/
def log2Frac : Nat → Nat → Nat → Nat
  | 0, _, acc => acc
  | n + 1, x, acc =>
    let y := x * x / 2 ^ fixBits
    if 2 ^ (fixBits + 1) ≤ y then log2Frac n (y / 2) (2 * acc + 1) else log2Frac n y (2 * acc)

/-- The binary logarithm of a value (R349). -/
def log2Num : Num → Num
  | .nan => .nan
  | .inf neg => if neg then .nan else .inf false
  | .fin neg m e _ =>
    if m == 0 then .inf true
    else if neg then .nan
    else
      let l := Nat.log2 m
      let k : Int := e + l
      if m == 2 ^ l then Num.ofInt k
      else
        let f := log2Frac 200 (m * 2 ^ fixBits / 2 ^ l) 0
        if 0 ≤ k then .fin false (k.toNat * 2 ^ 200 + f) (-200) true
        else .fin true ((-k).toNat * 2 ^ 200 - f - 1) (-200) true

/-- VTANH's lane (R350): the code and whether a step was inexact. -/
def tanhF32 (code : Nat) : Nat × Bool :=
  let f := fmtF32 false
  match f.decode code with
  | .nan => (f.nanCode, false)
  | a =>
    let mag := code % 2 ^ 31
    if mag < 0x39800000 then (code % 2 ^ 32, false)
    else
      let k := f.decode 0x4038AA3B
      let (t, v1) := roundF32 (mulNum k a.abs).flip
      let (u, v2) := roundF32 (exp2Num t)
      let one := f.decode 0x3F800000
      let (n, v3) := roundF32 (addNum .rne one u.flip)
      let (q, v4) := roundF32 (addNum .rne one u)
      let (y, v5) := roundTo f .rne 0 (divNum n q)
      (f.withSign a.neg y, 0 < v1.inexact + v2.inexact + v3.inexact + v4.inexact + v5.inexact)

/-! ## The generators (R100, R103) -/

/-- The state of generator `g` after a seed (R103). -/
def seedOf (seed : BitVec 32) (g : Nat) : BitVec 32 :=
  let x := seed ^^^ BitVec.ofNat 32 ((g + 1) * 0x9E3779B9)
  if x = 0 then 1 else x

/-- The 33 generators after a seed (R103). -/
def seedGens (seed : BitVec 32) : Vector (BitVec 32) 33 :=
  Vector.mk ((List.range 33).map (seedOf seed)).toArray (by simp)

/-- One step of a generator (R100): the new state is the draw. -/
def lfsr (st : BitVec 32) : BitVec 32 :=
  (st <<< 1) ||| (BitVec.ofBool (st.getLsbD 31 ^^ st.getLsbD 21 ^^ st.getLsbD 1 ^^ st.getLsbD 0)).setWidth 32

/-! ## Order (R41, R336) -/

/-- The signed integer a finite value is at exponent `e`. -/
def Num.at (x : Num) (e : Int) : Int :=
  match x with
  | .fin n m ex _ => alignTo n m ex e
  | _ => 0

/-- Whether one value is below another, −0 equal to +0; false with a NaN. -/
def Num.lt : Num → Num → Bool
  | .nan, _ => false
  | _, .nan => false
  | .inf a, .inf b => a && !b
  | .inf a, _ => a
  | _, .inf b => !b
  | .fin n1 m1 e1 s1, .fin n2 m2 e2 s2 =>
    let e := if e1 ≤ e2 then e1 else e2
    decide ((Num.fin n1 m1 e1 s1).at e < (Num.fin n2 m2 e2 s2).at e)

/-- Whether two values are equal, −0 equal to +0; false with a NaN. -/
def Num.eq (a b : Num) : Bool := !a.isNan && !b.isNan && !a.lt b && !b.lt a

/-- The order of FMIN and FMAX: −0 below +0 (R336). -/
def Num.below (a b : Num) : Bool := a.lt b || (a.isZero && b.isZero && a.neg && !b.neg)

/-- FMIN and FMAX on codes (R336): equal operands return the first; a NaN gives the canonical NaN. -/
def minMaxCode (f : Fmt) (max : Bool) (a b : Nat) : Nat :=
  let x := f.decode a
  let y := f.decode b
  if x.isNan || y.isNan then f.nanCode
  else if max then (if x.below y then b else a) % 2 ^ f.bits
  else (if y.below x then b else a) % 2 ^ f.bits

/-! ## Conversions to integers (R102) -/

/-- An integer type's range: signed or not, and its width. -/
def intRange (signed : Bool) (w : Nat) : Int × Int :=
  if signed then (-(2 ^ (w - 1) : Nat), (2 ^ (w - 1) : Nat) - 1) else (0, (2 ^ w : Nat) - 1)

/-- A value clamped to a range, and whether it was outside. -/
def clampTo (lo hi i : Int) : Int × Bool :=
  if i < lo then (lo, true) else if hi < i then (hi, true) else (i, false)

/-- A floating value converted to an integer type (R102). -/
def toIntType (signed : Bool) (w : Nat) (rm : Rm) (draw : BitVec 32) (x : Num) : Int × Ev :=
  let (lo, hi) := intRange signed w
  match x with
  | .nan => (0, { overflow := 1 })
  | .inf neg => (if neg then lo else hi, { overflow := 1 })
  | .fin neg m e s =>
    let (t, rem, n) := splitAt' m e 0
    let t' := if roundUp rm neg t rem n s draw then t + 1 else t
    let i : Int := if neg then -(t' : Int) else t'
    let (r, out) := clampTo lo hi i
    if out then (r, { overflow := 1 })
    else (r, { inexact := if rem != 0 || s then 1 else 0 })

/-! ## Block scales (R96, R97) -/

/-- The sign of a code. -/
def Fmt.negative (f : Fmt) (code : Nat) : Bool :=
  f.signed && decide (2 ^ (f.expBits + f.man) ≤ code % 2 ^ f.bits)

/-- The value of an element with its block scale (R96): the scale's NaN makes it NaN and a zero scale
makes it a zero of the element's sign, a NaN's too. -/
def scaled (f : Fmt) (code : Nat) (scale : Num) : Num :=
  match scale with
  | .nan => .nan
  | _ => if scale.isZero then .zero (f.negative code) else mulNum (f.decode code) scale

/-- Whether `x / 2^k ≤ maxfin`. -/
def fitsScale (f : Fmt) (x : Num) (k : Int) : Bool :=
  match x with
  | .nan => true
  | .inf _ => false
  | .fin _ m e s => !(f.decode f.maxCode).lt (.fin false m (e - k) s)

/-- The smallest `k` from `from'` on at which every input fits, at most 127; `fuel` tries are left. -/
def findScale (f : Fmt) (xs : List Num) : Nat → Int → Int
  | 0, k => k
  | n + 1, k => if k == 127 || xs.all (fitsScale f · k) then k else findScale f xs n (k + 1)

/-- The E8M0 scale byte R97 chooses for a block, and its exponent; none where an input is a NaN. -/
def chooseScale (f : Fmt) (xs : List Num) : Nat × Option Int :=
  if xs.any Num.isNan then (0xFF, none)
  else if xs.all Num.isZero then (0, some (-127))
  else
    let k := findScale f xs 255 (-127)
    ((k + 127).toNat, some k)

/-- An element divided by its block's scale before rounding (R97). -/
def unscale (x : Num) : Option Int → Num
  | none => .nan
  | some k =>
    match x with
    | .fin n m e s => .fin n m (e - k) s
    | y => y

/-! ## Accumulation (R104, R105) -/

/-- The exact sum of a group of products with R104's specials: NaN, infinities, and −0 only where every
product is −0. -/
def groupSum : List Num → Num
  | [] => .zero false
  | [x] => x
  | x :: xs => addNum .rne x (groupSum xs)

/-- AccumulateGroup (R104) on FP32 codes: the new pair, and the OVERFLOW and NAN_MADE it met. `made`
says that the group sum became a NaN from operands none of which is one. -/
def accumulate (s c : BitVec 32) (g : Num) (made : Bool) : BitVec 32 × BitVec 32 × Ev :=
  let f := fmtF32 false
  let sv := f.decode s.toNat
  let cv := f.decode c.toNat
  let (gv, e1) := roundF32 g
  let sum := addNum .rne sv gv
  let (s1c, e2) := roundTo f .rne 0 sum
  let s1 := f.decode s1c
  let e :=
    if s1.isNan || s1.isInf then Num.zero false
    else if gv.abs.lt sv.abs || gv.abs.eq sv.abs then
      addNum .rne gv (addNum .rne s1 sv.flip).flip
    else addNum .rne sv (addNum .rne s1 gv.flip).flip
  let csum := addNum .rne cv e
  let (cc, e3) := roundTo f .rne 0 csum
  let nan1 := made || (sum.isNan && !sv.isNan && !gv.isNan) || (csum.isNan && !cv.isNan && !e.isNan)
  let ovf := e1.overflow + e2.overflow + e3.overflow
  (BitVec.ofNat 32 s1c, BitVec.ofNat 32 cc,
    { overflow := if 0 < ovf then 1 else 0, nanMade := if nan1 then 1 else 0 })

/-- The value of an accumulator pair (R105). -/
def pairValue (s c : BitVec 32) : Num :=
  addNum .rne ((fmtF32 false).decode s.toNat) ((fmtF32 false).decode c.toNat)

end Sys2Proof.Machine
end

