-- ==== Sys2Proof/Machine/State.lean ====
section
/-! DEFINITION. The state of one rank of the Bolrid with the device state that bears on it, as plain
data, and the machine right after reset. Each field names the rule that gives it. -/

namespace Sys2Proof.Machine

/-! ## Memory -/

/-- Bytes by key, strictly rising, none of them zero: an unlisted key reads as zero. A key is a
physical place: region-2 form for the sites of this device, a DPA for the host and for other modules
(R107, R108). -/
structure Memory where
  cells : List Host.Cell
  deriving DecidableEq, Repr

def Memory.empty : Memory := ⟨[]⟩

/-- Whether keys rise strictly from `lo` on and no listed byte is zero. -/
def cellsWf : Nat → List Host.Cell → Bool
  | _, [] => true
  | lo, (k, b) :: rest => decide (lo ≤ k) && b != 0 && cellsWf (k + 1) rest

/-- The canonical form of a memory. -/
def Memory.wf (m : Memory) : Bool := cellsWf 0 m.cells

/-- The path classes of R19. -/
inductive PathClass where
  | s | r | m | w | g | c | o
  deriving DecidableEq, Repr

/-- Who makes an access: a context (11 for a requester outside the rank, 12 for a remote command, 16 with its device and
rank for a peer), its path and whether through a near name. -/
structure Agent where
  who : Nat
  cls : PathClass
  near : Bool
  deriving DecidableEq, Repr

/-- A word's older value that some readers may still return (R20, R176, R183, R202): its key, who wrote it, on which
path and through which name; `op` numbers the access that wrote it. `views` are the agents whose later accesses are
ordered after the write: a fence, an acquire, a start or a barrier gives it to more of them, and only to those its rule
names, so that orders compose (R471). `rel` marks the write of a release atomic, and `relays` are the release atomics
that carry this write, by number and name (R193); `pubs` are the beacons whose releases have published it (R201), and
`stop` the run and the stop or step whose write it was (R222, R260).
DESIGN CHOICE, log entry 29. -/
structure Unseen where
  op : Nat
  key : Nat
  old : Word
  writer : Nat
  cls : PathClass
  near : Bool
  views : List Agent
  rel : Bool
  relays : List (Nat × Bool)
  pubs : List Nat
  stop : Option (Fin 4 × Nat)
  deriving DecidableEq, Repr

/-! ## Registers and contexts (R278 to R305) -/

/-- A register by name; `w k` is the absolute frame register `16 * depth + index` (R282). -/
inductive RegName where
  | g (n : BitVec 3)
  | w (k : Nat)
  | v (n : BitVec 5)
  | p (n : BitVec 3)
  | m (n : BitVec 3)
  deriving DecidableEq, Repr

/-- The states of a context (R278). -/
inductive CtxState where
  | free | ready | waiting | hinted | ended
  deriving DecidableEq, Repr

/-- A fault waiting for an issue boundary (R280, R437): its cause and TRAP.INFO, TRAP.XLAT where R123
applies, the inner cause and info of a residual fault, whether the access or entry was issued inside
the handler (R436), and the cycle in which it was detected. -/
structure WaitingFault where
  cause : BitVec 8
  info : Word
  xlat : Option Word
  inner : Option (Word × Word)
  inHandler : Bool
  found : Nat
  deriving DecidableEq, Repr

/-- A deferred instruction (R295 to R297): what was captured at issue, its draws (R101), its rounding
mode (R103), its descriptor (R93), the in-stream groups it claims and the out-stream slot it took
(R237, R238), the depth its window registers are named at (R282), its place in the rank's order, the
sources it found pending (R466), the destinations it made pending and its first parcel (R52). The same record carries an
instruction that executes at issue. -/
structure Entry where
  op : Opcode
  w : Fields
  pc : Word
  cap : List (RegName × Vec)
  draws : List (BitVec 32)
  rm : Rm
  sat : Bool
  fmt : Option FmtRef
  claims : List (BitVec 5 × Nat)
  push : Option (BitVec 5 × Nat)
  pushDraws : List (BitVec 32)
  addrStep : Word
  residual : Bool
  depth : Nat
  seq : Nat
  waits : List RegName
  dests : List RegName
  parcel : BitVec 32
  deriving DecidableEq, Repr

/-- An expanded word of the loop buffer or of the instruction cache: an instruction, or the fault its
encoding earns with TRAP.INFO (R50, R313). -/
inductive Expanded where
  | ok (i : Instr)
  | bad (cause : BitVec 8) (info : Word)
  deriving DecidableEq, Repr

/-- A slot of the loop buffer (R313): the address and length of the body instruction, its expanded word
and the steps of its LINC (R314). -/
structure LoopSlot where
  addr : Word
  len : Nat
  parcel : BitVec 32
  word : Expanded
  sd : Int
  sa : Int
  sb : Int
  sl : Word
  deriving DecidableEq, Repr

/-- The loop of a context (R313): `CTX.LOOP`'s fields, the loop buffer, the address after the body and
whether a trap suspended it. -/
structure LoopState where
  count : Nat
  iter : Nat
  active : Bool
  pos : Nat
  slots : List LoopSlot
  exitAddr : Word
  suspended : Bool
  deriving DecidableEq, Repr

def LoopState.empty : LoopState := ⟨0, 0, false, 0, [], 0, false⟩

/-- A fetch, spill, fill or beacon instruction that parks on a not-present page (R28, R125, R285): the
page, and the failure (FAULT and REASON of R123) its record has come to. -/
structure Park where
  token : BitVec 32
  page : BitVec 45
  failed : Option (BitVec 3 × BitVec 4)
  deriving DecidableEq, Repr

/-- IDLE's wait (R454): when the count expires and whether an event woke the context. -/
structure Idle where
  until' : Nat
  woken : Bool
  deriving DecidableEq, Repr

/-- `CTX.CARVE` as numbers (R287). -/
structure Carve where
  oused : Nat
  sused : Nat
  ssize : Nat
  sbase : Nat
  deriving DecidableEq, Repr

/-- One context of a rank (R281 to R305, R433). A register that is `owed` will be in the bypass result of that
age once its value lands (R290), and one that is `delivering` waits for a scratchpad load, which sets no
pending bit (R190, R193). Results of executed hamper entries are `settling` until the cycle that writes them, and those
of instructions executed at issue keep their registers `busy` until theirs (R320, R343, R468). -/
structure Ctx where
  cstate : CtxState
  pc : Word
  g : Vector Word 8
  frames : List (Vector Word 16)
  ahead : Vector Word 8
  depth : Nat
  v : Vector Vec 32
  p : Vector Bool 8
  m : Vector Mask 8
  pending : List RegName
  bypass : List (List (RegName × Vec))
  owed : List (RegName × Nat)
  delivering : List RegName
  settling : List (Nat × RegName × Vec)
  busy : List (RegName × Nat)
  deferMode : Bool
  tmode : Bool
  fpctl : Word
  gens : Vector (BitVec 32) 33
  hamper : List Entry
  peak : Nat
  carve : Carve
  ovfl : Word
  loop : LoopState
  trapVec : Word
  trapCause : Word
  trapPc : Word
  trapInfo : Word
  trapXlat : Word
  trapRcause : Word
  trapRinfo : Word
  faults : List WaitingFault
  exitValue : Word
  held : List (Word × Nat × Bool)
  planeCfg : Word
  batchNext : BitVec 3
  batches : List (BitVec 3)
  openOps : Nat
  park : Option Park
  idle : Option Idle
  stallUntil : Nat
  yielded : Bool
  startAt : Nat
  tlbWait : Option (List Nat)
  acqQueued : Option Word
  barWait : Option (BitVec 6)
  deriving DecidableEq, Repr

/-- A context with no registers (R278): every register at zero and `p0` true.
DESIGN CHOICE, log entry 6.
DESIGN CHOICE, log entry 7. -/
def Ctx.blank : Ctx :=
  { cstate := .free, pc := 0, g := Vector.replicate 8 0, frames := [Vector.replicate 16 0],
    ahead := Vector.replicate 8 0, depth := 0, v := Vector.replicate 32 0,
    p := (Vector.replicate 8 false).set 0 true, m := Vector.replicate 8 0, pending := [],
    bypass := [], owed := [], delivering := [], settling := [], busy := [], deferMode := false, tmode := false, fpctl := 0,
    gens := seedGens 0, hamper := [], peak := 0, carve := ⟨0, 0, 0, 4096⟩,
    ovfl := 0, loop := LoopState.empty, trapVec := 0, trapCause := 0, trapPc := 0, trapInfo := 0,
    trapXlat := 0, trapRcause := 0, trapRinfo := 0, faults := [], exitValue := 0, held := [],
    planeCfg := 0, batchNext := 0, batches := [], openOps := 0, park := none, idle := none, stallUntil := 0,
    yielded := false, startAt := 0, tlbWait := none, acqQueued := none, barWait := none }

/-! ## Accesses in flight (R124, R190 to R193) -/

/-- What a landed load does with its bytes (R186 to R188): a scalar of `n` bytes, a vector, LDX's
elements (bit places of the elements and byte places of the scales), or an atomic's old value. -/
inductive Conv where
  | scalar (signed : Bool)
  | vector
  | elements (ty : Ty) (w : Nat) (fmt : Option FmtRef) (places : List (Nat × Nat))
  deriving DecidableEq, Repr

/-- What an access in flight does at its home. -/
inductive FlightKind where
  | load (conv : Conv)
  | store (data : List Byte)
  | atomic (ty : Ty) (mod : BitVec 4) (b : Word) (rm : Rm) (sat : Bool)
  | compare (ty : Ty) (old : Word) (new : Word)
  | status (value : Word)
  | abread (block : Nat) (row : Nat) (ty : Ty) (fmt : Option FmtRef) (sat : Bool) (after : List Nat)
  deriving DecidableEq, Repr

/-- How an access's translation stands (R123 to R125). -/
inductive Xlation where
  | ready
  | failed (fault : BitVec 3) (reason : BitVec 4) (va : Word)
  | held (token : BitVec 32) (va : Word)
  deriving DecidableEq, Repr

/-- An access in flight: its place in the rank's order, its context and PC, the keys of its bytes with the DPA of the
first, the register it lands in, and the captured instruction a replay or a reissue runs again (R129, R130); a
transient one lands in the bypass only (R291), the destination of an unpended one is no pending register (R190), and
an orphan's context has ended (R436). A load that a later load of its context has passed takes effect before the
write that `asOf` numbers (R190, R207). -/
structure Flight where
  id : Nat
  c : Fin 11
  pc : Word
  kind : FlightKind
  keys : List Nat
  dpa : Nat
  near : Bool
  dest : Option RegName
  xl : Xlation
  acquire : Bool
  redo : Option Entry
  tr : Bool
  unpended : Bool
  inHandler : Bool
  peer : Option Peer
  gateDead : Option Nat
  orphan : Bool
  asOf : Option Nat
  deriving DecidableEq, Repr

/-! ## Translation (R111 to R135) -/

/-- A translation in a TLB (R120): its address space, the first virtual address and the size it covers,
the entry, and the peer and link generation where it has one. -/
structure TlbEntry where
  asid : BitVec 8
  va : Nat
  size : Nat
  ent : BitVec 128
  gen : Option (Peer × Word)
  deriving DecidableEq, Repr

/-- What an access held for a record waits for: the host's answer to a NOT_PRESENT record (R129), or the
writing of another record, complete but for SEQ and TIME, after which it runs again or fails (R127). -/
inductive HeldFor where
  | host
  | again (bits : BitVec 512)
  | fail (bits : BitVec 512) (fault : BitVec 3) (reason : BitVec 4)
  deriving DecidableEq, Repr

/-- Who waits for a record: an access in flight, a parked context, a stop, a group of a stream, the oldest
request at the gate that it holds, or an outing's completion record. -/
inductive Holder where
  | flight (id : Nat)
  | park (c : Fin 11)
  | stop (run : Fin 4) (stop : BitVec 10)
  | group (c : Fin 11) (reg : BitVec 5) (idx : Nat)
  | request
  | outing (i : Nat)
  deriving DecidableEq, Repr

/-- An access that waits for a record: who makes it, where it met the page, and what it was (R128, R129). -/
structure HeldAccess where
  who : Holder
  va : Word
  pc : Word
  write : Bool
  fetch : Bool
  atomic : Bool
  deriving DecidableEq, Repr

/-- A record that holds accesses, outstanding or still to be written (R125, R127 to R130), and who waits for
it, in the order in which they arrived (R129). -/
structure TokenRec where
  token : BitVec 32
  vf : BitVec 6
  asid : BitVec 8
  va : Word
  pc : Word
  lrn : BitVec 10
  level : Nat
  count : Nat
  write : Bool
  fetch : Bool
  atomic : Bool
  out : Bool
  writtenAt : Option Nat
  held : HeldFor
  holders : List HeldAccess
  deriving DecidableEq, Repr

/-- A record waiting in the base die for its queue (R127): one that holds accesses by its token, or one
complete but for its SEQ field and TIME. -/
inductive PendingRec where
  | token (vf : BitVec 6) (t : BitVec 32)
  | other (vf : BitVec 6) (bits : BitVec 512)
  deriving DecidableEq, Repr

/-- A VF's fault queue (R127, R128). -/
structure FaultQueue where
  base : Word
  head : BitVec 16
  tail : BitVec 16
  logsize : BitVec 4
  ovf : Bool
  en : Bool
  seq : BitVec 16
  deriving DecidableEq, Repr

/-- A page the migration tracker counts (R132 to R134). -/
structure Tracked where
  asid : BitVec 8
  page : BitVec 45
  times : List Nat
  anchored : Option Nat
  told : Bool
  deriving DecidableEq, Repr

/-- A line of the instruction cache as it was filled (R28, R29): its address in lines of 64 bytes, whether
its page is handler-only, its bytes, and the places of the parcels that could not be read. -/
structure ICacheLine where
  asid : BitVec 8
  line : Nat
  handlerOnly : Bool
  bytes : List Byte
  poison : List Nat
  deriving DecidableEq, Repr

/-- An entry of the instruction cache (R26 to R29), keyed by address space and first parcel address, with
its first parcel on a handler-only page, if one is (R28). -/
structure ICacheEntry where
  asid : BitVec 8
  addr : Word
  len : Nat
  word : Expanded
  handlerOnly : Option Word
  parcel : BitVec 32
  deriving DecidableEq, Repr

/-! ## The outside gate (R136, R137) -/

/-- What an outside request does (R136): reads, writes its bytes, or is another rank's ATOM (its type,
operation, operand, rounding mode, draw and SAT) or CAS (its type, the expected and the new value). -/
inductive OutWhat where
  | read
  | write (data : List Byte)
  | atomic (a : OutAtomic)
  deriving DecidableEq, Repr

/-- The status an outside request ends with (R131, R136, R137, R269, R443), or a remote command (R389). -/
inductive ReplyStatus where
  | ok | pagePerm (reason : BitVec 4) | notPresent | remoteLost (reason : BitVec 4) | gateTimeout | poisoned
  | seqReset | denied
  deriving DecidableEq, Repr

/-- A request at the gate (R131, R136, R443, R444): what it does, when its hold ends by timeout, whether it
is admitted, the record that holds it, when it arrived, whether an exit from a step has come since, and, once it is a
command in a sequencer's queue or waits behind one, the keys it reaches. -/
structure GateReq where
  req : OutReq
  what : OutWhat
  deadline : Nat
  admitted : Bool
  token : Option (BitVec 32)
  arrived : Nat
  due : Bool
  keys : List Nat
  deriving DecidableEq, Repr

/-- An answer the gate has given: the requester, the status and the bytes read. -/
structure Reply where
  requester : Nat
  status : ReplyStatus
  data : List Byte
  deriving DecidableEq, Repr

/-! ## The row path (R139 to R174) -/

/-- Who issued a row command: a context's instruction by its PC, a stop by run and index, or the
sequencer for an eviction (R159). -/
inductive RowOwner where
  | ctx (c : Fin 11) (pc : Word)
  | stop (run : Fin 4) (stop : BitVec 10)
  | sequencer
  deriving DecidableEq, Repr

/-- The other side of a row transfer (R146, R147, R216). -/
inductive RowPlace where
  | spad (addr : Nat)
  | slot (n : Nat)
  | vreg (n : Nat) (tr : Bool)
  | data (bytes : List Byte)
  | keys (ks : List Nat) (near : Bool)
  deriving DecidableEq, Repr

inductive RowCmdKind where
  | act (bank : Nat) (row : Nat)
  | con (bank : Nat) (place : RowPlace)
  | wb (bank : Nat) (place : RowPlace)
  | pre (banks : List Nat)
  | ref (layer : Nat)
  deriving DecidableEq, Repr

/-- A row command: queued, or started at a time and complete at another. `row` is the row a transfer moves,
`beatAt` the cycle in which the beat of its attempt begins, `tries` counts failed wide attempts and `beat` and
`beatTries` the narrow ones (R162, R163); `beat = 18` once parity has passed. -/
structure RowCmd where
  id : Nat
  owner : RowOwner
  kind : RowCmdKind
  issued : Nat
  startedAt : Option Nat
  doneAt : Nat
  data : List Byte
  poisoned : Bool
  row : Nat
  beatAt : Nat
  tries : Nat
  beat : Nat
  beatTries : Nat
  inHandler : Bool
  deriving DecidableEq, Repr

/-- A bank of the row area (R143, R145, R151, R154, R161): the issue view, the physical open row and
the times its conditions count from. -/
structure RowBank where
  view : Option Nat
  row : Option Nat
  openedAt : Nat
  preAt : Nat
  preDone : Nat
  wbEnd : Nat
  evicted : Bool
  dist : Bool
  distRow : Option Nat
  nbrEnd : Nat
  deriving DecidableEq, Repr

/-- A layer of the row area (R152, R157 to R159), with the refreshes that fell due while one was running the
contexts whose RACT waits for a debt of 0, and whether the debt has been 8 since it last was 0 (R431). -/
structure RowLayer where
  debt : Nat
  refs : BitVec 32
  refreshEnd : Option Nat
  burst : Bool
  dueAt : Nat
  repaying : Bool
  owed : Nat
  stalled : List (Fin 11)
  deep : Bool
  deriving DecidableEq, Repr

/-- The rank's row path; `faulty` are the errors that the codewords of rows hold, by bank and physical row, until
they are rewritten (R164). -/
structure RowPath where
  queue : List RowCmd
  running : List RowCmd
  banks : Vector RowBank 16
  layers : Vector RowLayer 4
  busFree : Nat
  narrow : Bool
  trainDue : Bool
  trainDueAt : Nat
  trainEnd : Option Nat
  retrains : BitVec 16
  distCount : Nat
  evictCount : Nat
  activations : List (Nat × Nat)
  faulty : List ((Nat × Nat) × CellErr)
  windowEnd : Nat
  cellLog : List Word
  cellTotal : BitVec 32
  xferLog : List Word
  xferTotal : BitVec 32
  logSeq : BitVec 16
  lastStart : Nat
  deriving DecidableEq, Repr

def RowBank.blank : RowBank := ⟨none, none, 0, 0, 0, 0, false, false, none, 0⟩
def RowLayer.blank : RowLayer := ⟨0, 0, none, false, 4290, false, 0, [], false⟩

def RowPath.blank : RowPath :=
  { queue := [], running := [], banks := Vector.replicate 16 RowBank.blank,
    layers := Vector.replicate 4 RowLayer.blank, busFree := 0, narrow := false, trainDue := false,
    trainDueAt := 110000000, trainEnd := none, retrains := 0, distCount := 0, evictCount := 0,
    activations := [], faulty := [], windowEnd := 70400000, cellLog := [], cellTotal := 0, xferLog := [], xferTotal := 0,
    logSeq := 0, lastStart := 0 }

/-! ## Stack sequencers (R441 to R444) -/

/-- A quadrant's stack sequencer: its watchdog register, whether a reset runs and since when, and when it last completed
a port-area command (R441, R442). -/
structure Sequencer where
  wdog : Word
  resetting : Bool
  resetStart : Nat
  lastDone : Nat
  deriving DecidableEq, Repr

/-! ## The graph engine, streams and chunks (R211 to R243, R275 to R277) -/

/-- A stop in progress: the next element of a copy or a fill, how far its current part has come, a failure
it has met but not yet ended with (STATUS, REASON and INFO), the record that holds it, the address that it
waits for or that a row transfer of its reads from, and what a command read at launch while it waits for room in its
queue: the descriptors of an MMA command, the slots of a pass's tokens and how many missed (R390, R412). -/
structure StopRun where
  run : Fin 4
  stop : BitVec 10
  element : Nat
  phase : Nat
  fail : Option (BitVec 8 × BitVec 4 × Word)
  token : Option (BitVec 32)
  heldAt : Word
  fmts : Option FmtRef × Option FmtRef
  slots : List (Option Nat)
  misses : Nat
  deriving DecidableEq, Repr

/-- Another member's entry to the step in progress (R258, R260, R274): its number and LRN, and what it brings. -/
structure MemberEntry where
  member : Nat
  lrn : BitVec 10
  key : Word × Word
  src : List Byte
  counts : List Nat
  poisoned : List Nat
  counters : List (BitVec 32)
  regions : List (BitVec 28 × Nat)
  since : Nat
  deriving DecidableEq, Repr

/-- The collective a run slot carries (R256): the operation's fields, its descriptor and its instruction's PC, and, once an
AR's first step has reduced its blocks, what they hold and the entries of the other members (R255, R469). -/
structure CollRun where
  pc : Word
  op : Nat
  ty : Ty
  mode : Nat
  expc : Bool
  rop : Nat
  desc : BitVec 512
  counts : List Nat
  blocks : List (Nat × Bool)
  team : List MemberEntry
  deriving DecidableEq, Repr

/-- A run slot (R211, R218, R223, R228, R229); a cancelled run launches no more stops (R231), and a
dropping one is retired when it has ended (R317, R436). -/
structure RunSlot where
  state : BitVec 2
  failed : Bool
  fstop : Nat
  ended : Nat
  events : BitVec 16
  counters : List Nat
  launched : List Nat
  seq : BitVec 32
  ring : Word
  bases : List Word
  c : Fin 11
  coll : Option CollRun
  cancelled : Bool
  dropping : Bool
  deriving DecidableEq, Repr

def RunSlot.blank : RunSlot :=
  ⟨0, false, 0, 0, 0, [], [], 0, 0, [], 0, none, false, false⟩

/-- A group of a stream (R235 to R238): its number, its lanes once known, the instruction that pushed
it, the draws of its narrowing, a failure it met, the record that holds it, the pages whose records have
come to a failure, and whether it was pushed inside the handler (R436). -/
structure StreamGroup where
  idx : Nat
  data : Option Vec
  pc : Word
  draws : List (BitVec 32)
  rm : Rm
  fault : Option (BitVec 8 × Option Word)
  token : Option (BitVec 32)
  declined : List (BitVec 45 × BitVec 3 × BitVec 4)
  inHandler : Bool
  deriving DecidableEq, Repr

/-- A stream binding (R233 to R240): `claimed` pops or pushes taken, `next` groups read, and the elements
written whose byte a later element shares. -/
structure Stream where
  c : Fin 11
  reg : BitVec 5
  unit : BitVec 2
  out : Bool
  ty : Ty
  rm : Rm
  sat : Bool
  fmt : Option FmtRef
  desc : BitVec 512
  next : Nat
  claimed : Nat
  buf : List StreamGroup
  partialElems : List (Nat × BitVec 32 × BitVec 32)
  pc : Word
  deriving DecidableEq, Repr

/-- The graph engine, its streams, and the chunks buffered for its stops (R211, R233, R276). -/
structure Graph where
  stops : List (BitVec 512)
  overflow : List (BitVec 16)
  runs : Vector RunSlot 4
  launchQueue : List (Fin 4 × BitVec 10)
  inProgress : List StopRun
  streams : List Stream
  chunks : List Chunk
  deriving DecidableEq, Repr

def Graph.blank : Graph :=
  ⟨[], [], Vector.replicate 4 RunSlot.blank, [], [], [], []⟩

/-! ## Messages and collective steps (R244 to R274) -/

inductive MsgKind where
  | send | recv | put | get | mcmd
  deriving DecidableEq, Repr

/-- An outstanding message or remote command (R247 to R251, R388); `cmd` is a command to this rank itself
that has not arrived; the status of a transient one lands in the bypass only (R291), and an orphan's context has
ended (R436). -/
structure Msg where
  id : Nat
  kind : MsgKind
  c : Fin 11
  pc : Word
  dest : RegName
  dev : BitVec 14
  lrn : BitVec 10
  tag : BitVec 16
  len : Nat
  raddr : BitVec 32
  laddr : BitVec 32
  deadline : Nat
  matched : Option PeerMsg
  cmd : Option RemoteCmd
  tr : Bool
  inHandler : Bool
  orphan : Bool
  deriving DecidableEq, Repr

/-- What an entry to a scope's step sequence is (R258): a step of a run slot's COLL, or a barrier of a
context, if it has not ended. -/
inductive StepKind where
  | coll (run : Fin 4) (step : Nat)
  | bar (c : Option (Fin 11))
  | barc (c : Option (Fin 11)) (rec : BitVec 32) (clr : Bool)
  deriving DecidableEq, Repr

/-- A step of one scope: what it is, whether this rank has entered it and is inside, its timeout, the
counters sampled, the other members' entries, which of them have raised SRC_FREE and LOCAL_READY, a
failure before this rank's entry, this rank's own events, its source and poisoned elements, the number of
the next write when it was entered, and the words written before a save while it was inside
(R257, R258, R260, R267, R268, R274). -/
structure StepRun where
  kind : StepKind
  entered : Bool
  inside : Bool
  deadline : Nat
  sample : List (BitVec 32)
  others : List MemberEntry
  done : List Nat
  failed : Option (BitVec 4)
  srcFree : Bool
  localReady : Bool
  ownSrc : List Byte
  ownPoison : List Nat
  since : Nat
  wrote : List Nat
  deriving DecidableEq, Repr

/-- A scope's step sequence (R258): its steps in order, and other members' entries and a failure that
came before this rank's. -/
structure Scope where
  queue : List StepRun
  early : List MemberEntry
  earlyFail : Option (BitVec 4)
  deriving DecidableEq, Repr

/-! ## The matrix engine and the weight planes (R366 to R413) -/

/-- An operand of a matrix operation: a scratchpad tile, stage slots, or a row read at issue. -/
inductive TileSrc where
  | pair (base : Nat) (packed : Word)
  | slots (first : Nat)
  | row (bytes : BitVec 4096)
  deriving DecidableEq, Repr

/-- Who an engine or plane operation belongs to (R372, R376, R388, R390); an orphan's context has ended
(R436). -/
inductive OpOwner where
  | ctx (c : Fin 11) (pc : Word) (batch : Option (BitVec 3))
  | stop (run : Fin 4) (stop : BitVec 10)
  | remote (cmd : RemoteCmd)
  | orphan
  deriving DecidableEq, Repr

inductive EngineKind where
  | mma (c : Nat) (a : TileSrc) (b : TileSrc) (steps : Nat) (zero : Bool)
  | mmav (block : Nat) (row : Nat) (a : TileSrc) (b : TileSrc)
  | mtq (src : Nat × Word) (dst : Nat × Word)
  | plane (op : Nat)
  deriving DecidableEq, Repr

/-- An entry of the engine queue (R372): its number in the rank's order, the operation under its type
and descriptors, the blocks it targets, its engine time, whether it runs, and the RCONs it waits for. -/
structure EngineOp where
  id : Nat
  owner : OpOwner
  kind : EngineKind
  ty : Ty
  fa : Option FmtRef
  fb : Option FmtRef
  targets : List Nat
  cost : Nat
  running : Bool
  waits : List Nat
  inHandler : Bool
  deriving DecidableEq, Repr

/-- A block's allocation and poison (R367, R369, R384): FIRST and LEN of its allocation, its owner, the
rows written since it was poisoned, and whether the owner has ended and the allocation goes once none of
its blocks is in flight (R436). -/
structure Block where
  alloc : Option (Fin 11 × Nat × Nat)
  poison : Bool
  rewritten : BitVec 8
  doomed : Bool
  deriving DecidableEq, Repr

inductive PlaneKind where
  | load (alt : Nat) (slots : Bool) (src : Nat)
  | swap
  | pass (abase : Nat) (sbase : Nat) (pitch : Nat) (ablk : Nat) (ntok : Nat)
      (slot : List (Option Nat)) (full : Bool) (clipTrap : Bool)
  | check (dest : RegName) (tr : Bool)
  | grad (alt : Nat) (xbase : Nat) (dbase : Nat) (pitch : Nat) (ablk : Nat) (row0 : Nat)
      (tokens : List Nat)
  deriving DecidableEq, Repr

/-- An entry of the plane queue (R395). -/
structure PlaneOp where
  id : Nat
  owner : OpOwner
  plane : Nat
  kind : PlaneKind
  started : Bool
  waits : List Nat
  inHandler : Bool
  deriving DecidableEq, Repr

/-- The engine, the blocks and the planes; block contents and plane images are memories keyed by byte:
block `b` at `2048 * b` (R366), alternative `a` of plane `p` at `65536 * (4 * p + a)` (R393). -/
structure Matrix where
  queue : List EngineOp
  acc : Memory
  blocks : Vector Block 64
  planeQueue : List PlaneOp
  planeMem : Memory
  known : List ((Nat × Nat) × List (Int × Int))
  residency : Vector Word 8
  checkLog : Vector (BitVec 4 × BitVec 7) 2
  activeView : Bool
  activePlane : Bool
  deriving DecidableEq, Repr

def Matrix.blank : Matrix :=
  { queue := [], acc := Memory.empty, blocks := Vector.replicate 64 ⟨none, false, 0, false⟩, planeQueue := [],
    planeMem := Memory.empty, known := [], residency := Vector.replicate 8 0,
    checkLog := Vector.replicate 2 (0, 0), activeView := false, activePlane := false }

/-! ## Parties, outings and the scheduler (R414 to R432) -/

/-- The part of a party this rank runs (R415, R424, R428, R245); `starting` while its
register image is still to be read (R475), `ending` while it has ended, with its cause, and outside requests
admitted before are still to be answered (R465); `freeing` is the record that then frees its slot. -/
structure Party where
  bound : Bool
  site : BitVec 10
  slot : Fin 12
  packet : BitVec 512
  record : BitVec 256
  member : BitVec 23
  size : Nat
  lrns : List (BitVec 10 × BitVec 10)
  key : BitVec 256
  timeout : BitVec 32
  moved : Word
  boundAt : Nat
  preempting : Bool
  starting : Bool
  ending : Option (Option (BitVec 8))
  freeing : Option (BitVec 256)
  deriving DecidableEq, Repr

def Party.blank : Party :=
  { bound := false, site := 0, slot := 0, packet := 0, record := 0, member := 0, size := 1, lrns := [],
    key := 0, timeout := 50000, moved := 0, boundAt := 0, preempting := false,
    starting := false, ending := none, freeing := none }

/-- An outing's course (R415 to R422): refused and rejected ones are `done` at once. -/
inductive OutingState where
  | waiting | ready | running | done
  deriving DecidableEq, Repr

/-- An outing: which of its dependences are satisfied, its class and when it last changed, when it became ready, the
instances bound so far (all those below `begun`), the instances that have ended on this rank, its results and the time
of its completion; `token` is the record that holds the write of its completion record (R415 to R422). -/
structure Outing where
  vf : BitVec 6
  id : BitVec 32
  packet : BitVec 512
  state : OutingState
  met : Bool × Bool
  cls : Nat
  agedAt : Nat
  readyAt : Nat
  begun : Nat
  done : List Nat
  ended : Nat
  failed : Nat
  first : Nat
  reason : BitVec 16
  status : BitVec 8
  time : Nat
  recorded : Bool
  token : Option (BitVec 32)
  deriving DecidableEq, Repr

/-- A ticket (R419): its owner and the outing, by submission number. -/
structure Ticket where
  owner : Fin 11
  outing : Nat
  deriving DecidableEq, Repr

/-- A party saved off its rank (R429, R445 to R448): everything of the rank that travels with it, and when it was
saved.
DESIGN CHOICE, log entry 97. -/
structure Saved where
  party : Party
  ctxs : Vector Ctx 11
  flights : List Flight
  rows : RowPath
  graph : Graph
  msgs : List Msg
  arrivals : List PeerMsg
  scopes : Vector Scope 2
  matrix : Matrix
  counters : Vector (BitVec 32) 8
  tickets : Vector (Option Ticket) 32
  mem : List Host.Cell
  poison : List Nat
  savedAt : Nat
  deriving DecidableEq, Repr

/-- The scheduler of the device: its outings, the slot table, this rank's tickets, the quantum and the forecast, the
parties saved off this rank, whose the ranges of memory are (R138), and the address spaces into which the loader has put
an image that it took (R460). -/
structure Scheduler where
  outings : List Outing
  recent : List (BitVec 6 × BitVec 32 × BitVec 8)
  slotTable : List ((Nat × Nat) × BitVec 256)
  tickets : Vector (Option Ticket) 32
  quantum : BitVec 20
  fcast : Vector Word 24
  saveHost : Word
  saved : List Saved
  owners : List (Nat × Nat × (BitVec 6 × BitVec 8))
  loaded : List (BitVec 8)
  deriving DecidableEq, Repr

/-! ## Bring-up, security and heat (R455 to R463) -/

/-- Housekeeping: `BOOT.STAT`, whether training values are saved, the fuse map under which the saved logical map was
made and where its discovery began, the fused sites and the key slots read at the last start, the digest of the running
firmware, when the last start failed, `SEC.POLICY`, the attestation request that stands with the time by which its
report is written, the sensors with those above ADV, the next sampling and the sensors already sampled in it, and the
islands that are stretched. -/
structure Housekeeping where
  bootStat : Word
  trained : Bool
  mapped : Option (List (BitVec 5 × BitVec 5))
  origin : BitVec 5 × BitVec 5
  fused : List (BitVec 5 × BitVec 5)
  keys : List (Option (Word × BitVec 256))
  firmware : BitVec 512
  failEnd : Option Nat
  secPolicy : Word
  attest : Option (BitVec 256 × Word × Nat)
  therm : Vector Word 96
  above : List Nat
  sampleAt : Nat
  sampled : List Nat
  stretched : List Nat
  powered : Bool
  deriving DecidableEq, Repr

/-! ## The state -/

/-- What the next step is, where that is laid down from outside: an event of the part, the issue of the next
ready context, or the machine's own choice. -/
inductive Input where
  | event (i : Instr)
  | issue
  | own
  deriving DecidableEq, Repr

/-- The state of the machine. `agenda` lays down what the next steps are, one entry a step: any order of issues,
landings and outside events the manual allows is some agenda; past its end the machine chooses by itself. `cur` is the
context that issues, `pipe` says whether it does so on the wide pipe, and each pipe keeps the context it chose last;
`half` says that the wide pipe has had its issue of this cycle and the scalar pipe has not (R279). The rank's divider is
free again at `divFree` (R320). `turn` says whether an event of the part goes before the next issue, and `tick` counts the
free values used so far. `now` counts cycles, and `slow` the nominal cycles of wall-clock time by which stretched ones have lasted longer
(R463).
DESIGN CHOICE, log entry 1.
DESIGN CHOICE, log entry 9. -/
structure State where
  now : Nat
  slow : Nat
  cur : Fin 11
  pipe : Bool
  lastWide : Fin 11
  lastScalar : Fin 11
  half : Bool
  divFree : Nat
  turn : Bool
  agenda : List Input
  tick : Nat
  caps : Caps
  mem : Memory
  poison : List Nat
  unseen : List Unseen
  ctxs : Vector Ctx 11
  flights : List Flight
  nextId : Nat
  counters : Vector (BitVec 32) 8
  xltAs : Vector (BitVec 256) 256
  rankMap : List (BitVec 8 × BitVec 10 × Option (BitVec 10))
  l1 : List TlbEntry
  l2 : List TlbEntry
  xltInv : BitVec 128
  invWait : List Nat
  tracker : List Tracked
  linkGens : List (Peer × Word)
  lost : List (Peer × BitVec 8 × Word)
  faultQueues : Vector FaultQueue 64
  tokens : List TokenRec
  nextToken : BitVec 32
  pendingRecs : List PendingRec
  icache : List ICacheEntry
  ilines : List ICacheLine
  gate : List GateReq
  replies : List Reply
  beacons : List (Nat × List (Fin 11 × BitVec 10 × Bool))
  rows : RowPath
  seqs : Vector Sequencer 4
  graph : Graph
  msgs : List Msg
  cmds : List RemoteCmd
  arrivals : List PeerMsg
  scopes : Vector Scope 2
  matrix : Matrix
  party : Party
  sched : Scheduler
  house : Housekeeping
  deriving DecidableEq, Repr

/-- Why the machine stops. -/
inductive Fault where
  /-- The module has lost power: a shutdown trip asserted the power-off pin (R463), and only a start
  brings it back. Raised by `step` and by every instruction and event but the starts. Safe. -/
  | powerOff
  deriving DecidableEq, Repr

/-- Why an instruction has no meaning. -/
inductive Refusal where
  /-- The instruction's arm is not written yet. Safe: no claim about it can be proved. -/
  | notModelled (mnemonic : String)
  deriving DecidableEq, Repr

/-- The machine right after reset: powered, no start run yet, no party bound, every register at the
value its rule gives or the assumption log names.
DESIGN CHOICE, log entry 8. -/
def State.reset : State :=
  { now := 0, slow := 0, cur := 0, pipe := false, lastWide := 0, lastScalar := 0, half := false, divFree := 0, turn := false, agenda := [], tick := 0,
    caps := Caps.full, mem := Memory.empty, poison := [],
    unseen := [], ctxs := Vector.replicate 11 Ctx.blank, flights := [], nextId := 0,
    counters := Vector.replicate 8 0, xltAs := Vector.replicate 256 0, rankMap := [], l1 := [], l2 := [],
    xltInv := 0, invWait := [], tracker := [], linkGens := [], lost := [],
    faultQueues := Vector.replicate 64 ⟨0, 0, 0, 0, false, false, 0⟩, tokens := [], nextToken := 0,
    pendingRecs := [], icache := [], ilines := [], gate := [], replies := [], beacons := [],
    rows := RowPath.blank, seqs := Vector.replicate 4 ⟨0x00010000000003E8, false, 0, 0⟩,
    graph := Graph.blank, msgs := [], cmds := [], arrivals := [], scopes := Vector.replicate 2 ⟨[], [], none⟩,
    matrix := Matrix.blank, party := Party.blank,
    sched := { outings := [], recent := [], slotTable := [], tickets := Vector.replicate 32 none,
               quantum := 2000, fcast := Vector.replicate 24 0, saveHost := 0, saved := [],
               owners := [], loaded := [] },
    house := { bootStat := 0, trained := false, mapped := none, origin := (0, 0), fused := [], keys := [], firmware := 0,
               failEnd := none, secPolicy := 1, attest := none, therm := Vector.replicate 96 0x0073695F00000000,
               above := [], sampleAt := 110000, sampled := [], stretched := [], powered := true } }

end Sys2Proof.Machine
end

