-- ==== Sys2Proof/Machine/Memory.lean ====
section
/-! DEFINITION. Memory by key: its bytes, the keys of the places the manual names (R13, R107, R108), and
the bytes of compressed pages (R118, R119, R264, R265). -/

namespace Sys2Proof.Machine

/-- A list with one element replaced. -/
def setNth {α : Type} (i : Nat) (a : α) : List α → List α
  | [] => []
  | x :: xs => match i with
    | 0 => a :: xs
    | j + 1 => x :: setNth j a xs

/-! ## Memory by key -/

/-- The byte at a key: zero where none is listed.
DESIGN CHOICE, log entry 27. -/
def cellsGet (k : Nat) : List Host.Cell → Byte
  | [] => 0
  | (a, b) :: rest => if a = k then b else if k < a then 0 else cellsGet k rest

/-- The list with a key's byte set; a zero byte is not listed. -/
def cellsSet (k : Nat) (v : Byte) : List Host.Cell → List Host.Cell
  | [] => if v = 0 then [] else [(k, v)]
  | (a, b) :: rest =>
    if k < a then (if v = 0 then (a, b) :: rest else (k, v) :: (a, b) :: rest)
    else if k = a then (if v = 0 then rest else (k, v) :: rest)
    else (a, b) :: cellsSet k v rest

def Memory.get (m : Memory) (k : Nat) : Byte := cellsGet k m.cells
def Memory.set (m : Memory) (k : Nat) (v : Byte) : Memory := ⟨cellsSet k v m.cells⟩

/-- The keys of `n` bytes from `k` on. -/
def keysFrom (k n : Nat) : List Nat := (List.range n).map (k + ·)

def Memory.getBytes (m : Memory) (k n : Nat) : List Byte := (keysFrom k n).map m.get

/-- Bytes written at keys, pair by pair. -/
def Memory.setKeys (m : Memory) : List Nat → List Byte → Memory
  | k :: ks, b :: bs => (m.set k b).setKeys ks bs
  | _, _ => m

def Memory.setBytes (m : Memory) (k : Nat) (bs : List Byte) : Memory := m.setKeys (keysFrom k bs.length) bs

/-- The number little-endian bytes make (R2). -/
def natOfBytes : List Byte → Nat
  | [] => 0
  | b :: bs => b.toNat + 256 * natOfBytes bs

def Memory.getNat (m : Memory) (k n : Nat) : Nat := natOfBytes (m.getBytes k n)
def Memory.setNat (m : Memory) (k n v : Nat) : Memory := m.setBytes k (bytesOfNat n v)

/-- A memory without the listed cells in a range. -/
def Memory.clear (m : Memory) (lo hi : Nat) : Memory :=
  ⟨m.cells.filter (fun c => !(decide (lo ≤ c.1) && decide (c.1 < hi)))⟩

/-! ## Keys (R13, R107, R108)

Region-2 form for a site of this device, a DPA otherwise; above them the row areas and stage slots. -/

def siteKey (site : BitVec 10) (off : Nat) : Nat := 2 * 2 ^ 52 + site.toNat * 2 ^ 28 + off
/-- Rank offset of scratchpad byte 0 (R107). -/
def spadOff : Nat := 0x8000000
/-- The key of a row-area byte: bank, physical row and byte of a site's column (R13).
DESIGN CHOICE, log entry 28. -/
def rowKey (site : BitVec 10) (bank row byte : Nat) : Nat :=
  2 ^ 56 + site.toNat * 2 ^ 27 + bank * 2 ^ 23 + row * 2 ^ 10 + byte
/-- The key of a stage-slot byte (R13). -/
def slotKey (slot byte : Nat) : Nat := 2 ^ 57 + slot * 1024 + byte
/-- The key of a row buffer's byte (R145). -/
def bufferKey (bank byte : Nat) : Nat := 2 ^ 57 + 2 ^ 20 + bank * 1024 + byte

/-- The word a key lies in. -/
def wordOf (k : Nat) : Nat := k / 8

/-! ## Compressed pages (R118, R119)

The bytes of a compressed page have keys of their own, made of the frame's key, the metadata's key, the
code and the offset, so that a reader and a writer meet the page's logical bytes. -/

def packKey (cmp frame meta' off : Nat) : Nat := cmp * 2 ^ 200 + meta' * 2 ^ 120 + frame * 2 ^ 40 + off
def isPacked (k : Nat) : Bool := decide (2 ^ 200 ≤ k)
def packCmp (k : Nat) : Nat := k / 2 ^ 200
def packMeta (k : Nat) : Nat := k / 2 ^ 120 % 2 ^ 80
def packFrame (k : Nat) : Nat := k / 2 ^ 40 % 2 ^ 80
def packOff (k : Nat) : Nat := k % 2 ^ 40

def popcountNat : Nat → Nat → Nat
  | 0, _ => 0
  | n + 1, x => x % 2 + popcountNat n (x / 2)

/-- The 64 words of a ZVB block: the nonzero words packed, chosen by the metadata bits (R118). -/
def zvbBlock (m : Memory) (frame meta' unit : Nat) : List Nat :=
  let bits := m.getNat (meta' + 8 * unit) 8
  (List.range 64).map (fun k =>
    if bits.testBit k then
      m.getNat (frame + 256 * unit + 4 * popcountNat k (bits % 2 ^ k)) 4
    else 0)

/-- A ZVB block written back from its words (R118); the rest of its slot keeps its bytes, which no client reads.
DESIGN CHOICE, log entry 131. -/
def zvbWrite (m : Memory) (frame meta' unit : Nat) (ws : List Nat) : Memory :=
  let nz := ws.filter (· != 0)
  let bits := ws.zipIdx.foldl (fun a (w, i) => if w != 0 then a + 2 ^ i else a) 0
  (nz.zipIdx.foldl (fun m (w, i) => m.setNat (frame + 256 * unit + 4 * i) 4 w) m).setNat
    (meta' + 8 * unit) 8 bits

/-- A symbol of an EXPC code: its length, and its exponent; the escape has exponent 256 (R265). -/
structure ExpcSym where
  len : Nat
  exp : Nat
  deriving DecidableEq, Repr

/-- Symbols in canonical order: by length, then exponent, the escape last (R265). -/
def insertSym (x : ExpcSym) : List ExpcSym → List ExpcSym
  | [] => [x]
  | y :: ys =>
    if x.len < y.len || (x.len == y.len && x.exp ≤ y.exp) then x :: y :: ys else y :: insertSym x ys

/-- Canonical codes: the first symbol gets 0, each later one the code before plus one, shifted (R265). -/
def assignCodes : List ExpcSym → Nat → Nat → List (ExpcSym × Nat)
  | [], _, _ => []
  | x :: xs, code, len =>
    let c := code * 2 ^ (x.len - len)
    (x, c) :: assignCodes xs (c + 1) x.len

/-- Reads a code bit by bit, most significant bit first, for at most `n` bits (R264). -/
def matchCode (codes : List (ExpcSym × Nat)) (stream pos : Nat) : Nat → Nat → Nat → Option (ExpcSym × Nat)
  | 0, _, _ => none
  | n + 1, code, len =>
    let code' := 2 * code + (if stream.testBit (pos + len) then 1 else 0)
    match codes.find? (fun x => x.1.len == len + 1 && x.2 == code') with
    | some x => some (x.1, pos + len + 1)
    | none => matchCode codes stream pos n code' (len + 1)

/-- The elements of a coded chunk; none where it cannot be decoded (R264, R265). -/
def expcElements (codes : List (ExpcSym × Nat)) (stream limit : Nat) : Nat → Nat → Option (List Nat)
  | 0, _ => some []
  | n + 1, pos =>
    match matchCode codes stream pos 8 0 0 with
    | none => none
    | some (sym, p1) =>
      let (e, p2) := if sym.exp == 256 then (stream / 2 ^ p1 % 256, p1 + 8) else (sym.exp, p1)
      let sign := stream / 2 ^ p2 % 2
      let frac := stream / 2 ^ (p2 + 1) % 2 ^ 23
      if limit < p2 + 24 then none
      else
        match expcElements codes stream limit n (p2 + 24) with
        | none => none
        | some es => some ((sign * 2 ^ 31 + e * 2 ^ 23 + frac) :: es)

/-- A coded chunk of `n` elements in `len` bytes (R264, R265). -/
def expcDecode (stream len n : Nat) : Option (List Nat) :=
  let nexp := stream % 16
  let esc := stream / 16 % 16
  let listed := (List.range nexp).map (fun i =>
    (⟨stream / 2 ^ (8 + 12 * i + 8) % 16, stream / 2 ^ (8 + 12 * i) % 256⟩ : ExpcSym))
  let syms := listed ++ (if esc == 0 then [] else [⟨esc, 256⟩])
  let kraft := syms.foldl (fun a x => a + 2 ^ (8 - x.len)) 0
  if esc ≤ 8 && syms.all (fun x => 1 ≤ x.len && x.len ≤ 8) && (listed.map (·.exp)).eraseDups.length == nexp
      && kraft ≤ 256 && len ≤ 1024 then
    expcElements (assignCodes (syms.foldr insertSym []) 0 0) stream (8 * len) n (8 + 12 * nexp)
  else none

/-- The 256 elements of an EXPC chunk of a page; none where its coding cannot be decoded (R118). -/
def expcChunk (m : Memory) (frame meta' unit : Nat) : Option (List Nat) :=
  let len := m.getNat (meta' + 2 * unit) 2
  if len == 0 then some ((List.range 256).map (fun i => m.getNat (frame + 1024 * unit + 4 * i) 4))
  else expcDecode (m.getNat (frame + 1024 * unit) len) len 256

/-- A chunk written back raw, which any reader accepts (R118).
DESIGN CHOICE, log entry 37. -/
def expcWrite (m : Memory) (frame meta' unit : Nat) (ws : List Nat) : Memory :=
  (ws.zipIdx.foldl (fun m (w, i) => m.setNat (frame + 1024 * unit + 4 * i) 4 w) m).setNat
    (meta' + 2 * unit) 2 0

/-- The 4-byte words of the unit a packed key lies in. -/
def unitWords (m : Memory) (k : Nat) : List Nat :=
  if packCmp k == 1 then zvbBlock m (packFrame k) (packMeta k) (packOff k / 256)
  else (expcChunk m (packFrame k) (packMeta k) (packOff k / 1024)).getD []

/-- The byte at a key, compressed pages included. -/
def Memory.byteAt (m : Memory) (k : Nat) : Byte :=
  if isPacked k then
    let unit := if packCmp k == 1 then 256 else 1024
    BitVec.ofNat 8 ((unitWords m k).getD (packOff k % unit / 4) 0 / 2 ^ (8 * (packOff k % 4)))
  else m.get k

/-- A byte written at a key, compressed pages included. -/
def Memory.putAt (m : Memory) (k : Nat) (b : Byte) : Memory :=
  if isPacked k then
    let unit := if packCmp k == 1 then 256 else 1024
    let ws := unitWords m k
    let i := packOff k % unit / 4
    let sh := 2 ^ (8 * (packOff k % 4))
    let old := ws.getD i 0
    let ws' := setNth i (old - old / sh % 256 * sh + b.toNat * sh) ws
    if packCmp k == 1 then zvbWrite m (packFrame k) (packMeta k) (packOff k / 256) ws'
    else expcWrite m (packFrame k) (packMeta k) (packOff k / 1024) ws'
  else m.set k b

/-- The words of storage behind a key: its own, or its unit's.
DEDUCED, log entry 34. -/
def storageWords (k : Nat) : List Nat :=
  if isPacked k then
    let n := if packCmp k == 1 then 256 else 1024
    (List.range (n / 8)).map (fun i => packFrame k / 8 + packOff k / n * (n / 8) + i)
  else [wordOf k]

/-- Whether a packed key's unit cannot be decoded (R266). -/
def undecodable (m : Memory) (k : Nat) : Bool :=
  isPacked k && packCmp k == 2 && (expcChunk m (packFrame k) (packMeta k) (packOff k / 1024)).isNone

/-- The first key of the unit that a packed key lies in. -/
def unitKey (k : Nat) : Nat := k - packOff k % (if packCmp k == 1 then 256 else 1024)

/-- The DPA of a key: a packed key's byte as the frame's page numbers it (R118, R440). -/
def keyDpa (k : Nat) : Nat := if isPacked k then packFrame k + packOff k else k

/-- Bytes written at keys of any kind, pair by pair. -/
def Memory.putKeys (m : Memory) : List Nat → List Byte → Memory
  | k :: ks, b :: bs => (m.putAt k b).putKeys ks bs
  | _, _ => m

/-- An aligned word of eight keys of any kind. -/
def Memory.wordAt (m : Memory) (w : Nat) : Word :=
  BitVec.ofNat 64 (natOfBytes ((keysFrom (8 * w) 8).map m.byteAt))

end Sys2Proof.Machine
end

