-- ==== Sys2Proof/Machine/Tables.lean ====
section
/-! DEFINITION. The fields of a rank's packet and record (R415, R424), where a DPA lies (R107 to R109), and the
walk of the page tables (R112 to R114). -/

namespace Sys2Proof.Machine

/-- The carve-out in bytes (R74, R415). -/
def State.carve (s : State) : Nat := 128 * (s.party.packet.extractLsb' 51 10).toNat
/-- The lot's size in bytes (R415). -/
def State.lot (s : State) : Nat := 1024 * (s.party.packet.extractLsb' 61 18).toNat
/-- The lot's rank offset (R424). -/
def State.lotBase (s : State) : Nat := (s.party.record.extractLsb' 164 28).toNat
/-- The row window's rows per bank (R139). -/
def State.rowWindow (s : State) : Nat := (s.party.packet.extractLsb' 79 14).toNat
/-- The physical row of window row 0 (R424). -/
def State.rowBase (s : State) : Nat := (s.party.record.extractLsb' 150 14).toNat
def State.lrn (s : State) : BitVec 10 := s.party.record.extractLsb' 112 10
def State.asid (s : State) : BitVec 8 := s.party.packet.extractLsb' 8 8
def State.vf (s : State) : BitVec 6 := s.party.packet.extractLsb' 16 6
def State.gsize (s : State) : Nat := (s.party.packet.extractLsb' 122 14).toNat
def State.gpos (s : State) : BitVec 13 := s.party.packet.extractLsb' 109 13

/-! ## Where a DPA lies -/

/-- XLT.AS of an address space (R111). -/
def State.asRec (s : State) (asid : BitVec 8) : BitVec 256 := s.xltAs.get asid.toFin
def State.asVf (s : State) (asid : BitVec 8) : BitVec 6 := (s.asRec asid).extractLsb' 8 6
def State.asDiag (s : State) (asid : BitVec 8) : Bool := (s.asRec asid).getLsbD 15

/-- The coordinates of a site (R11): its number is x in [9:5] and y in [4:0], as region 2 names it (R107). -/
def siteX (site : BitVec 10) : BitVec 5 := site.extractLsb' 5 5
def siteY (site : BitVec 10) : BitVec 5 := site.extractLsb' 0 5

/-- The site holding a logical rank of an address space (R108, R427): none where it has no entry, or one that is
marked saved (R137). -/
def State.siteOf (s : State) (asid : BitVec 8) (lrn : BitVec 10) : Option (BitVec 10) :=
  (s.rankMap.find? (fun e => e.1 == asid && e.2.1 == lrn)).bind (·.2.2)

/-- Whether a bound or saved party of an address space holds a logical rank (R427). -/
def State.lrnHeld (s : State) (asid : BitVec 8) (lrn : BitVec 10) : Bool :=
  s.rankMap.any (fun e => e.1 == asid && e.2.1 == lrn)

/-- A physical place: its key, the link its access crosses, and another rank's LRN where it is one. -/
structure Place where
  key : Nat
  peer : Option Peer
  other : Option (BitVec 10)
  deriving DecidableEq, Repr

/-- Whether a site is fused off (R12). -/
def State.isFused (s : State) (site : BitVec 10) : Bool :=
  s.house.fused.contains (siteX site, siteY site)

/-- A site's place in the order of home ranks, 32y + x (R12). -/
def siteOrder (site : BitVec 10) : Nat := 32 * (siteY site).toNat + (siteX site).toNat

/-- The home rank of a live site (R12, R458): the live sites before it, in the logical map. -/
def State.homeLrn (s : State) (site : BitVec 10) : Nat :=
  siteOrder site - (s.house.mapped.getD s.house.fused).countP (fun f => decide (32 * f.2.toNat + f.1.toNat < siteOrder site))

/-- Whether a party of an address space runs on a site (R109). -/
def State.runsOn (s : State) (asid : BitVec 8) (site : BitVec 10) : Bool :=
  s.rankMap.any (fun e => e.1 == asid && e.2.2 == some site)

/-- Resolving a DPA for an address space (R107 to R109): its place, or the PAGE_PERM reason. -/
def State.resolve (s : State) (asid : BitVec 8) (dpa : Nat) : Except (BitVec 4) Place :=
  let region := dpa / 2 ^ 52 % 16
  let off := dpa % 2 ^ 28
  let hi := BitVec.ofNat 10 (dpa / 2 ^ 28)
  let dev := dpa / 2 ^ 38 % 2 ^ 14
  if region = 0 then
    if 0x8080000 ≤ off then .error 6
    else if dev = 0x3FFF || (dev < s.gsize && dev = s.gpos.toNat) then
      match s.siteOf asid hi with
      | some site => .ok ⟨siteKey site off, none, if hi = s.lrn then none else some hi⟩
      | none => .error 6
    else if dev < s.gsize then .ok ⟨dpa, some (.device (BitVec.ofNat 13 dev)), some hi⟩
    else .error 6
  else if region = 1 then
    if dpa / 2 ^ 48 % 16 = 0 then .ok ⟨dpa, some .servex, none⟩ else .error 6
  else if region = 2 then
    if !s.asDiag asid || s.party.moved.getLsbD 0 then .error 7
    else if dev ≠ 0 || 0x8080000 ≤ off || s.isFused hi || !s.runsOn asid hi then .error 6
    else .ok ⟨siteKey hi off, none, if hi = s.party.site then none else some hi⟩
  else if region = 15 then .error 7
  else .error 6

/-! ## Table entries (R113, R114) -/

def entV (e : BitVec 128) : Bool := e.getLsbD 0
def entLeaf (e : BitVec 128) : Bool := e.getLsbD 1
def entPpn (e : BitVec 128) : Nat := (e.extractLsb' 64 44).toNat
def entCmp (e : BitVec 128) : Nat := (e.extractLsb' 15 3).toNat
def entC16 (e : BitVec 128) : Bool := e.getLsbD 8
def entH (e : BitVec 128) : Bool := e.getLsbD 5
def entFmt (e : BitVec 128) : BitVec 6 := e.extractLsb' 9 6

/-- The size a leaf maps (R112). -/
def leafSize (lvl : Nat) : Nat := 2 ^ (12 + 9 * lvl)

/-- Whether a leaf's frame lies in a port area or in region 1, every byte of it, as a compressed one's must (R114). -/
def frameInPort (lvl : Nat) (e : BitVec 128) : Bool :=
  let region := entPpn e / 2 ^ 40
  region == 1 || (region == 0 && decide (entPpn e * 4096 % 2 ^ 28 + leafSize lvl ≤ 0x8000000))

/-- Whether an entry with V = 1 is malformed at its level (R114); CMP = 2 without EXPC is (R459). -/
def malformed (caps : Caps) (lvl : Nat) (e : BitVec 128) : Bool :=
  let region := entPpn e / 2 ^ 40
  let reserved := e.extractLsb' 108 20 != 0 || e.extractLsb' 45 19 != 0
  reserved ||
  (if entLeaf e then
    decide (2 < lvl)
      || entPpn e % 2 ^ (9 * lvl) != 0
      || (entC16 e && lvl != 0)
      || e.getLsbD 44
      || decide (2 < entCmp e) || (entCmp e == 2 && !caps.expc)
      || (entCmp e != 0 && !frameInPort lvl e)
      || (entCmp e == 0 && (e.getLsbD 18 || e.extractLsb' 19 24 != 0))
  else
    e.extractLsb' 2 43 != 0 || lvl == 0 || e.getLsbD 64 || decide (1 < region))

/-- What a walk comes to (R112): a leaf, no entry or a malformed one, with the key of the entry and its
level, or a DPA that fails to resolve. -/
inductive WalkEnd where
  | leaf (ent : BitVec 128) (entKey : Nat) (lvl : Nat)
  | absent (entKey : Nat) (lvl : Nat)
  | malformed (entKey : Nat) (lvl : Nat)
  | unresolved (reason : BitVec 4)
  deriving DecidableEq, Repr

/-- What an entry read at a level is to the walk (R112, R114): an end of it, or a pointer. -/
def entryEnd (caps : Caps) (e : BitVec 128) (k lvl : Nat) : Option WalkEnd :=
  if !entV e then some (.absent k lvl)
  else if malformed caps lvl e then some (.malformed k lvl)
  else if entLeaf e then some (.leaf e k lvl)
  else none

/-- The walk (R112), from a node's DPA at a level down; `n` is the level plus one. It reads the entries as they
stand.
DESIGN CHOICE, log entry 138. -/
def State.walkFrom (s : State) (asid : BitVec 8) (va : Nat) : Nat → Nat → WalkEnd
  | 0, _ => .malformed 0 0
  | n + 1, node =>
    let idx := va / 2 ^ (12 + 9 * n) % 512
    match s.resolve asid node with
    | .error r => .unresolved r
    | .ok p =>
      let k := p.key + 16 * idx
      let e := BitVec.ofNat 128 (s.mem.getNat k 16)
      match entryEnd s.caps e k n with
      | some r => r
      | none => s.walkFrom asid va n (entPpn e * 4096)

/-- The walk of an address by its address space's tables (R112).
DESIGN CHOICE, log entry 138. -/
def State.walk (s : State) (asid : BitVec 8) (va : Nat) : WalkEnd :=
  s.walkFrom asid va 5 ((s.asRec asid).extractLsb' 80 56).toNat

/-- The key of a byte through a leaf (R112, R119): its place, or a compressed page's own key. -/
def State.leafKeys (s : State) (asid : BitVec 8) (e : BitVec 128) (base size va n : Nat) :
    Except (BitVec 4) (List Nat × Option Peer × Nat) :=
  let dpa := entPpn e * 4096 + (va - base)
  match s.resolve asid dpa with
  | .error r => .error r
  | .ok p =>
    if entCmp e == 0 then .ok (keysFrom p.key n, p.peer, dpa)
    else
      let frame := p.key - (va - base)
      let metaDpa := if e.getLsbD 18 then ((s.asRec asid).extractLsb' 136 56).toNat + 64 * (e.extractLsb' 19 24).toNat
                     else entPpn e * 4096 + size
      match s.resolve asid metaDpa with
      | .error r => .error r
      | .ok mp => .ok ((List.range n).map (fun i => packKey (entCmp e) frame mp.key (va - base + i)), p.peer, dpa)

/-- Whether a word's key lies in a beacon's regions, through the address space's tables (R197, R201): base
lines and counts.
DEDUCED, log entry 88. -/
def State.inRegions (s : State) (rs : List (Nat × Nat)) (w : Nat) : Bool :=
  rs.any (fun r =>
    let lo := 64 * r.1
    let hi := lo + 64 * r.2
    (List.range ((hi - 1) / 4096 + 1 - lo / 4096)).any (fun i =>
      let va := 4096 * (lo / 4096 + i)
      match s.walk s.asid va with
      | .leaf e _ lvl =>
        (match s.leafKeys s.asid e (va - va % leafSize lvl) (leafSize lvl) va 4096 with
         | .ok ks => ks.1.zipIdx.any (fun (p : Nat × Nat) =>
             wordOf p.1 == w && decide (lo ≤ va + p.2) && decide (va + p.2 < hi))
         | .error _ => false)
      | _ => false))

end Sys2Proof.Machine
end

