-- ==== Sys2Proof/Machine/Ops.lean ====
section
/-! DEFINITION. The named operations over memory, registers and contexts that every meaning uses, taking a
trap (R434 to R437) and returning from one (R435). -/

namespace Sys2Proof.Machine

/-! ## Contexts -/

def State.ctx (s : State) (c : Fin 11) : Ctx := s.ctxs.get c
def State.setCtx (s : State) (c : Fin 11) (x : Ctx) : State := { s with ctxs := s.ctxs.set c.1 x c.2 }
def State.modCtx (s : State) (c : Fin 11) (f : Ctx → Ctx) : State := s.setCtx c (f (s.ctx c))

/-- Wall-clock time, in nominal cycles (R463).
DESIGN CHOICE, log entry 117. -/
def State.wall (s : State) : Nat := s.now + s.slow

/-- Every context number. -/
def allCtx : List (Fin 11) := [0, 1, 2, 3, 4, 5, 6, 7, 8, 9, 10]

/-- Whether a context runs a program (R278). -/
def Ctx.live (x : Ctx) : Bool := x.cstate != .free && x.cstate != .ended

def Ctx.inh (x : Ctx) : Bool := x.trapVec.getLsbD 1
def Ctx.trapEn (x : Ctx) : Bool := x.trapVec.getLsbD 0
def Ctx.kill (x : Ctx) : Bool := x.trapVec.getLsbD 63
/-- The handler address: TRAP.VEC.ADDR × 4 (R433). -/
def Ctx.handler (x : Ctx) : Word := x.trapVec &&& 0x01FFFFFFFFFFFFFC
/-- `CTX.FPCTL.SAT` (R103). -/
def Ctx.sat (x : Ctx) : Bool := x.fpctl.getLsbD 3

/-- `CTX.FPCTL.RM` as a mode (R103). -/
def Ctx.dynRm (x : Ctx) : Rm :=
  match (x.fpctl.extractLsb' 0 3).toNat with
  | 0 => .rne | 1 => .rtz | 2 => .rdn | 3 => .rup | 4 => .rna | _ => .stoch

/-! ## Registers (R281, R282) -/

/-- The register an operand field names, at a depth (R33, R282). -/
def regAt (depth : Nat) (o : Opd) : Option RegName :=
  let n := o.num.toNat
  match o.cls with
  | .scalar =>
    if n < 8 then some (.g (BitVec.ofNat 3 n))
    else if n < 32 then some (.w (16 * depth + (n - 8))) else none
  | .vector => if n < 32 then some (.v (BitVec.ofNat 5 n)) else none
  | .pred =>
    if n < 8 then some (.p (BitVec.ofNat 3 n))
    else if n < 16 then some (.m (BitVec.ofNat 3 (n - 8))) else none
  | .special => none

/-- The depth of the oldest resident frame. -/
def Ctx.oldestDepth (x : Ctx) : Nat := x.depth + 1 - x.frames.length

/-- A register of the file, as the low bits of a vector's width; `g0` is zero and `p0` true (R35). -/
def Ctx.file (x : Ctx) : RegName → Vec
  | .g n => if n = 0 then 0 else (x.g.get n.toFin).setWidth 1024
  | .w k =>
    if k / 16 = x.depth + 1 then
      ((x.ahead.toList.getD (k % 16) 0).setWidth 1024)
    else
      match x.frames[k / 16 - x.oldestDepth]? with
      | some f => (f.toList.getD (k % 16) 0).setWidth 1024
      | none => 0
  | .v n => x.v.get n.toFin
  | .p n => if n = 0 then 1 else (BitVec.ofBool (x.p.get n.toFin)).setWidth 1024
  | .m n => (x.m.get n.toFin).setWidth 1024

/-- A vector with one element replaced where the index is in range. -/
def setAt {α : Type} {n : Nat} (v : Vector α n) (i : Nat) (a : α) : Vector α n :=
  if h : i < n then v.set i a h else v

/-- A register of the file written; a write to `g0` or `p0` is discarded (R35). -/
def Ctx.setFile (x : Ctx) (r : RegName) (val : Vec) : Ctx :=
  match r with
  | .g n => if n = 0 then x else { x with g := setAt x.g n.toNat (val.setWidth 64) }
  | .w k =>
    if k / 16 = x.depth + 1 then { x with ahead := setAt x.ahead (k % 16) (val.setWidth 64) }
    else
      let i := k / 16 - x.oldestDepth
      match x.frames[i]? with
      | some f => { x with frames := setNth i (setAt f (k % 16) (val.setWidth 64)) x.frames }
      | none => x
  | .v n => { x with v := setAt x.v n.toNat val }
  | .p n => if n = 0 then x else { x with p := setAt x.p n.toNat (val.getLsbD 0) }
  | .m n => { x with m := setAt x.m n.toNat (val.setWidth 32) }

/-- The newest bypass result for a register (R290). -/
def bypassFind (r : RegName) : List (List (RegName × Vec)) → Option Vec
  | [] => none
  | res :: rest =>
    match res.find? (·.1 == r) with
    | some p => some p.2
    | none => bypassFind r rest

/-- A register as the issuing instruction reads it: the bypass from the newest result back, then the
file (R290, R291). -/
def Ctx.read (x : Ctx) (r : RegName) : Vec :=
  match r with
  | .g 0 => 0
  | .p 0 => 1
  | r => (bypassFind r x.bypass).getD (x.file r)

/-- Whether a register is one that discards writes (R35). -/
def RegName.fixed : RegName → Bool
  | .g n => n == 0
  | .p n => n == 0
  | _ => false

/-- Whether a register is pending; `g0` and `p0` never are (R292). -/
def Ctx.isPending (x : Ctx) (r : RegName) : Bool := !r.fixed && x.pending.contains r

/-- Registers made pending: once more for each value that will land in them. -/
def Ctx.setPending (x : Ctx) (rs : List RegName) : Ctx :=
  { x with pending := x.pending ++ rs.filter (fun r => !r.fixed) }

/-- One value fewer to land in a register. -/
def Ctx.clearPending (x : Ctx) (r : RegName) : Ctx := { x with pending := x.pending.erase r }

/-- A bypass without a register's results: a value that lands in the file is newer than they are.
DEDUCED, log entry 50. -/
def Ctx.forget (x : Ctx) (r : RegName) : Ctx :=
  { x with bypass := x.bypass.map (·.filter (·.1 != r)) }

/-- Wakes an idle context whose count has not expired before (R454). -/
def Ctx.wake (x : Ctx) : Ctx :=
  { x with idle := x.idle.map (fun i => if i.until' = 0 then i else { i with woken := true }) }

/-- A value that lands: the file is written and the pending bit cleared (R292). -/
def Ctx.land (x : Ctx) (r : RegName) (val : Vec) : Ctx :=
  (((x.setFile r val).forget r).clearPending r).wake

/-- Results of executed hamper entries written once their cycle has come (R320, R343). -/
def Ctx.settle (x : Ctx) (now : Nat) : Ctx :=
  if x.settling.isEmpty then x
  else
    (x.settling.filter (fun p => decide (p.1 ≤ now))).foldl (fun x p => x.land p.2.1 p.2.2)
      { x with settling := x.settling.filter (fun p => decide (now < p.1)) }

/-- Results in flight written at once: before a trap handler or a save (R320, R343). -/
def Ctx.settleAll (x : Ctx) : Ctx :=
  x.settling.foldl (fun x p => x.land p.2.1 p.2.2) { x with settling := [] }

/-- The bypass takes the result of an instruction issued directly whose value lands later: its place is kept
from issue on (R290).
DEDUCED, log entry 118. -/
def Ctx.owe (x : Ctx) (rs : List RegName) : Ctx :=
  { x with bypass := ([] :: x.bypass).take 3
           owed := rs.map (fun r => (r, 0))
             ++ (x.owed.map (fun o => (o.1, o.2 + 1))).filter (fun o => decide (o.2 < 3)) }

/-- An owed value put in its place in the bypass, if that is still there. -/
def Ctx.payOwed (x : Ctx) (r : RegName) (val : Vec) : Ctx :=
  match x.owed.find? (fun o => o.1 == r) with
  | none => x
  | some o =>
    { x with bypass := x.bypass.zipIdx.map (fun p => if p.2 = o.2 then (r, val) :: p.1 else p.1)
             owed := x.owed.erase o }

/-- A value of an instruction issued directly lands (R290 to R292): in the file, unless it is transient, and in
the bypass. -/
def Ctx.landDirect (x : Ctx) (tr : Bool) (r : RegName) (val : Vec) : Ctx :=
  if tr then x.payOwed r val else (x.land r val).payOwed r val

/-- Registers that an instruction issued directly will write when a value lands: pending unless it is
transient, and owed to the bypass (R290 to R292). -/
def Ctx.expect (x : Ctx) (tr : Bool) (rs : List RegName) : Ctx :=
  let live := rs.filter (fun r => !r.fixed)
  if live.isEmpty then x else (if tr then x else x.setPending live).owe live

/-- A bypass emptied (R291). -/
def Ctx.dropBypass (x : Ctx) : Ctx := { x with bypass := [], owed := [] }

/-- Results of an instruction issued directly, newest in the bypass (R290); a transient result goes to
the bypass only (R291). -/
def Ctx.results (x : Ctx) (tr : Bool) (res : List (RegName × Vec)) : Ctx :=
  let live := res.filter (fun p => !p.1.fixed)
  let y := if tr then x else live.foldl (fun y p => y.setFile p.1 p.2) x
  if res.isEmpty then y
  else { y with bypass := (live :: y.bypass).take 3
                owed := (y.owed.map (fun o => (o.1, o.2 + 1))).filter (fun o => decide (o.2 < 3)) }

/-! ## Event counters (R106) -/

/-- A counter raised by a count, saturating (R106). -/
def satAdd32 (a : BitVec 32) (n : Nat) : BitVec 32 := BitVec.ofNat 32 (min (a.toNat + n) 0xFFFFFFFF)

/-- The counters with an operation's counts added (R106). -/
def State.count (s : State) (e : Ev) : State :=
  if e = Ev.zero then s
  else { s with counters := Vector.zipWith satAdd32 s.counters ⟨e.list.toArray, rfl⟩ }

/-! ## Free values -/

def State.bump (s : State) : State := { s with tick := s.tick + 1 }

/-- A choice among `n` alternatives the specification leaves open. -/
def State.choose (s : State) (n : Nat) : Nat × State := (Config.pick s.tick % n, s.bump)

/-- `n` free bytes. -/
def State.freeBytes (s : State) : Nat → List Byte × State
  | 0 => ([], s)
  | n + 1 =>
    let (bs, s') := s.bump.freeBytes n
    ((Config.freeWord s.tick).setWidth 8 :: bs, s')

/-! ## Poison (R266, R269) -/

def State.poisonedAt (s : State) (keys : List Nat) : Bool :=
  keys.any (fun k => undecodable s.mem k)
    || (!s.poison.isEmpty && keys.any (fun k => (wordOf k :: storageWords k).any s.poison.contains))

/-- The address of the first poisoned byte of a run that starts at an address; none where no byte is (R224, R269). -/
def State.firstPoison (s : State) (a : Nat) (keys : List Nat) : Option Nat :=
  if s.poisonedAt keys then (keys.findIdx? (fun k => s.poisonedAt [k])).map (a + ·) <|> some a else none

/-- Marks words poisoned. -/
def State.mark (s : State) (ws : List Nat) : State :=
  { s with poison := s.poison ++ ws.eraseDups.filter (fun w => !s.poison.contains w) }

def State.unmark (s : State) (ws : List Nat) : State :=
  if s.poison.isEmpty then s else { s with poison := s.poison.filter (fun w => !ws.contains w) }

/-! ## Reads and writes on a path (R19, R20, R176, R183, R202) -/

/-- Every path class. -/
def allClasses : List PathClass := [.s, .r, .m, .w, .g, .c, .o]

/-- The writer that a record names for a peer (R252). -/
def peerWriter (dev : BitVec 14) (lrn : BitVec 10) : Nat := 16 + dev.toNat * 1024 + lrn.toNat

/-- A party's accesses on some paths through some names. -/
def agentsOf (who : Nat) (classes : List PathClass) (names : List Bool) : List Agent :=
  classes.flatMap (fun k => names.map (fun n => ⟨who, k, n⟩))

/-- Whether a reader must see the write a record stands for. -/
def Unseen.visibleTo (u : Unseen) (r : Agent) : Bool := u.views.contains r

/-- A write ordered before the later accesses of some agents. -/
def Unseen.view (u : Unseen) (rs : List Agent) : Unseen :=
  { u with views := u.views ++ rs.filter (fun r => !u.views.contains r) }

/-- The names through which a party sees a write on one of some paths. -/
def Unseen.namesTo (u : Unseen) (who : Nat) (classes : List PathClass) : List Bool :=
  [false, true].filter (fun n => classes.any (fun k => u.visibleTo ⟨who, k, n⟩))

/-- What a party sees, seen by another from now on: on the same paths and through the same names. -/
def Unseen.pass (u : Unseen) (whose next : Nat) : Unseen :=
  u.view ((u.views.filter (fun r => r.who == whose)).map (fun r => { r with who := next }))

/-- The records of writes changed one by one. -/
def State.modUnseen (s : State) (f : Unseen → Unseen) : State := { s with unseen := s.unseen.map f }

/-- The older values of a word that a reader may still return, newest first. -/
def olderValues (r : Agent) (w : Nat) : List Unseen → List Word
  | [] => []
  | u :: us =>
    if u.key != w then olderValues r w us
    else if u.visibleTo r then [] else u.old :: olderValues r w us

/-- An aligned word as a reader finds it: its value now, or one of the older values it may still see. -/
def State.readWord (s : State) (r : Agent) (w : Nat) : Word × State :=
  let cur := s.mem.wordAt w
  match olderValues r w s.unseen with
  | [] => (cur, s)
  | olds =>
    let (i, s') := s.choose (olds.length + 1)
    ((cur :: olds).getD i cur, s')

/-- The records of words that a reader need not see yet, newest first: of each word, those newer than one it
must see. -/
def unseenOf (sees : Unseen → Bool) (ws : List Nat) : List Unseen → List Nat → List Unseen
  | [], _ => []
  | u :: us, shut =>
    if !ws.contains u.key || shut.contains u.key then unseenOf sees ws us shut
    else if sees u then unseenOf sees ws us (u.key :: shut)
    else u :: unseenOf sees ws us shut

/-- A word as it stood before the accesses of a list of records. -/
def undone (s : Memory) (us : List Unseen) (w : Nat) : Word :=
  us.foldl (fun v u => if u.key == w then u.old else v) (s.wordAt w)

/-- Bytes that a reader finds all old or all new: those of one moment, before some of the newest accesses it
need not see yet. -/
def State.readMoment (s : State) (sees : Unseen → Bool) (keys : List Nat) : List Byte × State :=
  let us := unseenOf sees (keys.map wordOf) s.unseen []
  let ops := (us.map (·.op)).eraseDups
  let (i, s1) := if ops.isEmpty then (0, s) else s.choose (ops.length + 1)
  let back := us.filter (fun u => (ops.take i).contains u.op)
  (keys.map (fun k =>
    if back.any (fun u => u.key == wordOf k) then (undone s.mem back (wordOf k)).extractLsb' (8 * (k % 8)) 8
    else s.mem.byteAt k), s1)

/-- A line or row, all old or all new (R29, R379, R406). -/
def State.readUnit (s : State) (r : Agent) (keys : List Nat) : List Byte × State :=
  s.readMoment (·.visibleTo r) keys

/-- What an atomic finds (R19, R20, R191): its own path's newest value under its name.
DEDUCED, log entry 121. -/
def State.readNewest (s : State) (r : Agent) (keys : List Nat) : List Byte × State :=
  s.readMoment (fun u => u.visibleTo r || (u.cls == r.cls && u.near == r.near)) keys

/-- Bytes at keys as a reader finds them, each aligned word read once. -/
def State.readKeysFrom (s : State) (r : Agent) : List Nat → Option (Nat × Word) → List Byte × State
  | [], _ => ([], s)
  | k :: ks, last =>
    match last with
    | some (w, v) =>
      if w = wordOf k then
        let (bs, s') := s.readKeysFrom r ks last
        (v.extractLsb' (8 * (k % 8)) 8 :: bs, s')
      else
        let (v', s1) := s.readWord r (wordOf k)
        let (bs, s') := s1.readKeysFrom r ks (some (wordOf k, v'))
        (v'.extractLsb' (8 * (k % 8)) 8 :: bs, s')
    | none =>
      let (v', s1) := s.readWord r (wordOf k)
      let (bs, s') := s1.readKeysFrom r ks (some (wordOf k, v'))
      (v'.extractLsb' (8 * (k % 8)) 8 :: bs, s')

def State.readKeys (s : State) (r : Agent) (keys : List Nat) : List Byte × State :=
  s.readKeysFrom r keys none

/-- The words that keys cover whole. -/
def wholeWords (keys : List Nat) : List Nat :=
  (keys.map wordOf).eraseDups.filter (fun w => (List.range 8).all (fun i => keys.contains (8 * w + i)))

/-- The record that an access leaves for a word it writes. -/
def Memory.record (m : Memory) (op : Nat) (r : Agent) (w : Nat) : Unseen :=
  { op := op, key := w, old := m.wordAt w, writer := r.who, cls := r.cls,
    near := r.near, views := [r], rel := false, relays := [], pubs := [], stop := none }

/-- The number of the next access that writes. -/
def State.nextOp (s : State) : Nat := match s.unseen with | u :: _ => u.op + 1 | [] => 0

/-- The chunk that a key lies in stored raw with some bytes, every word of it poisoned. -/
def State.rawUnit (s : State) (k : Nat) (bs : List Byte) : State :=
  let ws := (List.range 256).map (fun i => natOfBytes ((bs.drop (4 * i)).take 4))
  { s with mem := expcWrite s.mem (packFrame k) (packMeta k) (packOff k / 1024) ws }.mark
    ((List.range 128).map (fun i => wordOf k + i))

/-- Chunks of compressed pages that keys lie in and that cannot be decoded, stored raw: every word of them is poisoned,
with contents that are not specified (R118, R266, R269).
DESIGN CHOICE, log entry 37. -/
def State.recode (s : State) (keys : List Nat) : State :=
  (((keys.filter (undecodable s.mem)).map unitKey).eraseDups).foldl (fun (s : State) k =>
    (s.freeBytes 1024).2.rawUnit k (s.freeBytes 1024).1) s

/-- Bytes written at keys on a path: the older values stay visible to readers not yet ordered after the
write, and a word written whole loses its poison (R20, R269). -/
def State.writeKeys (s0 : State) (r : Agent) (keys : List Nat) (data : List Byte) : State :=
  let s := if keys.any (undecodable s0.mem) then s0.recode keys else s0
  let ws := (keys.map wordOf).eraseDups
  let s1 := { s with mem := s.mem.putKeys keys data, unseen := ws.map (s.mem.record s.nextOp r) ++ s.unseen }
  s1.unmark (wholeWords keys)

/-- The records a write has left since a state, changed by a function. -/
def State.markNew (s : State) (before : State) (f : Unseen → Unseen) : State :=
  let n := s.unseen.length - before.unseen.length
  { s with unseen := (s.unseen.take n).map f ++ s.unseen.drop n }

/-- A write of a stop or a step, which its records name (R222, R260). -/
def State.writeAs (s : State) (tag : Fin 4 × Nat) (r : Agent) (keys : List Nat) (data : List Byte) : State :=
  (s.writeKeys r keys data).markNew s (fun u => { u with stop := some tag })

/-- Words poisoned with contents that are not specified (R269).
DESIGN CHOICE, log entry 35. -/
def State.poisonKeys (s : State) (r : Agent) (keys : List Nat) : State :=
  let ws := (keys.map wordOf).eraseDups
  let all := ws.flatMap (fun w => keysFrom (8 * w) 8)
  let (bs, s1) := s.freeBytes all.length
  (s1.writeKeys r all bs).mark ws

/-- A FENCE of a context over classes (R20, R206, R471): what it has written or sees on a named class becomes visible
to its accesses of every named class, through the same name. -/
def State.fence (s : State) (who : Nat) (classes : List PathClass) : State :=
  s.modUnseen (fun u => u.view (agentsOf who classes (u.namesTo who classes)))

/-- An LBFENCE of a context (R208, R471): what it has written or sees through one name of its rank's memory becomes
visible to it through the other. -/
def State.nameFence (s : State) (who : Nat) : State :=
  s.modUnseen (fun u =>
    u.view ((u.views.filter (fun r => r.who == who)).map (fun r => { r with near := !r.near })))

/-- The write of a release atomic, if it made one, is marked; what its context sees on path S, made or acquired before,
goes with it (R193, R471). -/
def State.markRelease (s : State) (before : State) (r : Agent) : State :=
  match s.unseen with
  | u :: us =>
    if us.length < before.unseen.length then s
    else
      { s with unseen := { u with rel := true } :: us.map (fun v =>
          { v with relays := (v.namesTo r.who [.s]).map (fun n => (u.op, n)) ++ v.relays }) }
  | [] => s

/-- An acquire atomic that reads the value a release atomic wrote through the same name: what that one carries becomes
visible to the acquiring context on path S (R193). -/
def State.acquireAtomic (s : State) (r : Agent) (w : Nat) : State :=
  match s.unseen.find? (fun u => u.key == w) with
  | some u =>
    if u.rel && u.near == r.near then
      s.modUnseen (fun v =>
        v.view (agentsOf r.who [.s] ((v.relays.filter (fun p => p.1 == u.op)).map (·.2))))
    else s
  | none => s

/-- Memory and its records as they stood before the accesses from a number on. -/
def State.rewind (s : State) (op : Nat) : State :=
  let later := s.unseen.takeWhile (fun u => decide (op ≤ u.op))
  { s with
    mem := later.foldl (fun m u => m.putKeys (keysFrom (8 * u.key) 8) (bytesOfNat 8 u.old.toNat)) s.mem
    unseen := s.unseen.drop later.length }

/-- Bytes as a reader finds them now, or as it found them before the access of a number. -/
def State.readAsOf (s : State) (op : Option Nat) (r : Agent) (keys : List Nat) : List Byte × State :=
  match op with
  | none => s.readKeys r keys
  | some k =>
    let (bs, s1) := (s.rewind k).readKeys r keys
    (bs, { s1 with
      mem := s.mem
      unseen := s.unseen })

/-- Near-space places (R180): the keys of near addresses, by address; none outside the two ranges. -/
def State.nearKey (s : State) (a : Nat) : Option Nat :=
  if a < 0x80000 - s.carve then some (siteKey s.party.site (spadOff + a))
  else if 0x8000000 ≤ a && a < 0x8000000 + s.lot then
    some (siteKey s.party.site (s.lotBase + (a - 0x8000000)))
  else none

/-- Whether `n` near bytes from `a` lie inside one mapped range (R180). -/
def State.nearOk (s : State) (a n : Nat) : Bool :=
  a + n ≤ 0x80000 - s.carve || (0x8000000 ≤ a && a + n ≤ 0x8000000 + s.lot)

/-- Whether `n` near bytes lie in the scratchpad outside the carve-out. -/
def State.spadOk (s : State) (a n : Nat) : Bool := a + n ≤ 0x80000 - s.carve

/-- The keys of near bytes that R180 allows. -/
def State.nearKeys (s : State) (a n : Nat) : List Nat :=
  if a < 0x80000 then keysFrom (siteKey s.party.site (spadOff + a)) n
  else keysFrom (siteKey s.party.site (s.lotBase + (a - 0x8000000))) n

/-! ## Draws (R100, R101) -/

/-- Generators stepped once each, in order: the draw list has an entry per generator 0..32, zero where
none was taken. -/
def takeDraws (take : Nat → Bool) (gens : Vector (BitVec 32) 33) :
    List (BitVec 32) × Vector (BitVec 32) 33 :=
  let l := gens.toList
  let stepped := (List.range 33).map (fun i => if take i then lfsr (l.getD i 0) else l.getD i 0)
  ((List.range 33).map (fun i => if take i then stepped.getD i 0 else 0),
    (List.range 33).foldl (fun g i => setAt g i (stepped.getD i 0)) gens)

/-! ## Fault-queue records (R127, R128, R440) -/

/-- A field placed at a bit of a record. -/
def at' (lo : Nat) (v : Nat) : BitVec 512 := BitVec.ofNat 512 (v * 2 ^ lo)

/-- The header of a record (R128) but for SEQ: kind, address space, VF and rank. -/
def recHeader (kind : Nat) (asid : BitVec 8) (vf : BitVec 6) (lrn : BitVec 10) : BitVec 512 :=
  at' 0 kind ||| at' 8 asid.toNat ||| at' 16 vf.toNat ||| at' 32 lrn.toNat

def State.queueOf (s : State) (vf : BitVec 6) : FaultQueue := s.faultQueues.get vf.toFin

def State.modQueue (s : State) (vf : BitVec 6) (f : FaultQueue → FaultQueue) : State :=
  { s with faultQueues := s.faultQueues.set vf.toNat (f (s.queueOf vf)) vf.isLt }

/-- Whether a queue takes no record: it is off, or TAIL + 1 equals HEAD modulo its size (R127). -/
def FaultQueue.closed (q : FaultQueue) : Bool :=
  !q.en || (q.tail.toNat + 1) % 2 ^ (q.logsize.toNat + 4) == q.head.toNat % 2 ^ (q.logsize.toNat + 4)

/-- OVF is set when a record has to wait for space (R127). -/
def State.noteWait (s : State) (vf : BitVec 6) : State :=
  if (s.queueOf vf).closed then s.modQueue vf (fun q => { q with ovf := true }) else s

/-- A record handed to the base die (R127). -/
def State.postRec (s : State) (vf : BitVec 6) (bits : BitVec 512) : State :=
  ({ s with pendingRecs := s.pendingRecs ++ [PendingRec.other vf bits] }).noteWait vf

/-! ## Waiting faults (R437) -/

/-- A fault put in a list: behind those detected before it, and among those of its cycle in ascending cause code
(R437). -/
def insertFault (f : WaitingFault) : List WaitingFault → List WaitingFault
  | [] => [f]
  | g :: gs => if g.found == f.found && decide (f.cause.toNat < g.cause.toNat) then f :: g :: gs else g :: insertFault f gs

/-- A late fault joins the context's list of 16, or is dropped and counted (R437). -/
def Ctx.lateFault (x : Ctx) (f : WaitingFault) : Ctx :=
  if x.faults.length < 16 then { x with faults := insertFault f x.faults }.wake
  else
    let lost := (x.trapCause.extractLsb' 8 8).toNat
    { x with trapCause := (x.trapCause &&& 0xFF) ||| BitVec.ofNat 64 (min (lost + 1) 255 * 256) }

def State.lateFault (s : State) (c : Fin 11) (f : WaitingFault) : State :=
  if (s.ctx c).live then s.modCtx c (·.lateFault { f with found := s.now }) else s

/-! ## Releasing what a context holds (R199, R239, R419, R436) -/

/-- The state of a beacon object at its key (R194). -/
def State.beacon (s : State) (k : Nat) : BitVec 512 := BitVec.ofNat 512 (s.mem.getNat k 64)

/-- A beacon object's state written (R194).
DESIGN CHOICE, log entry 138. -/
def State.setBeacon (s : State) (k : Nat) (b : BitVec 512) : State :=
  { s with mem := s.mem.setNat k 64 b.toNat }

/-- A bit field of a wide word replaced. -/
def setField {w : Nat} (b : BitVec w) (lo n v : Nat) : BitVec w :=
  (b &&& ~~~(BitVec.ofNat w ((2 ^ n - 1) * 2 ^ lo))) ||| BitVec.ofNat w (v % 2 ^ n * 2 ^ lo)

/-- The virtual 64-byte lines a beacon's bound regions cover: base line and count (R194). -/
def beaconRegions (b : BitVec 512) : List (Nat × Nat) :=
  (List.range 4).filterMap (fun n =>
    let r := b.extractLsb' (80 * n) 80
    if r.getLsbD 79 then some ((r.extractLsb' 0 51).toNat, (r.extractLsb' 51 24).toNat) else none)

/-- What an exclusive release of a beacon publishes (R201): every write in its regions that the releasing
context sees on path S through their global names. -/
def State.publish (s : State) (c : Fin 11) (k : Nat) : State :=
  if s.unseen.isEmpty then s
  else
    let rs := beaconRegions (s.beacon k)
    { s with unseen := s.unseen.map (fun (u : Unseen) =>
        if u.visibleTo ⟨c.1, .s, false⟩ && s.inRegions rs u.key then
          { u with pubs := u.pubs ++ [k] } else u) }

/-- A beacon released (R199): an exclusive release clears EXCL, with the holder's fields, and counts in GEN, a shared
one lowers HOLDERS.
DESIGN CHOICE, log entry 129. -/
def beaconReleased (b : BitVec 512) (excl : Bool) : BitVec 512 :=
  if excl then
    setField (setField (setField (setField b 479 1 0) 470 4 0) 460 10 0) 384 64
      ((b.extractLsb' 384 64).toNat + 1)
  else setField b 480 16 ((b.extractLsb' 480 16).toNat - 1)

/-- A release of a beacon by a context that holds it (R199, R201): an exclusive one publishes. -/
def State.releaseBeacon (s : State) (c : Fin 11) (k : Nat) (addr : Word) (excl : Bool) : State :=
  let s1 := if excl then s.publish c k else s
  (s1.setBeacon k (beaconReleased (s.beacon k) excl)).modCtx c (fun x => { x with held := x.held.filter (·.1 != addr) })

/-- Whether a context's request waits in a beacon's queue. -/
def State.inQueue (s : State) (c : Fin 11) : Bool :=
  s.beacons.any (fun q => q.2.any (fun r => r.1 == c && r.2.1 == s.lrn))

/-- A context's streams freed at once, unwritten groups discarded (R436). -/
def State.dropStreams (s : State) (c : Fin 11) : State :=
  { s with graph := { s.graph with streams := s.graph.streams.filter (·.c != c) } }

/-- Runs a context started are retired when they are done (R317, R436). -/
def State.dropRuns (s : State) (c : Fin 11) : State :=
  { s with graph := { s.graph with runs := s.graph.runs.map (fun r =>
      if r.state != 0 && r.c == c then { r with dropping := true } else r) } }

def State.dropTickets (s : State) (c : Fin 11) : State :=
  { s with sched := { s.sched with tickets := s.sched.tickets.map (fun t =>
      match t with
      | some k => if k.owner == c then none else some k
      | none => none) } }

/-- One of an outing's runs counted as ended, and as failed with a cause (R417, R420). -/
def Outing.runEnd (o : Outing) (inst : Nat) (cause : Option (BitVec 8)) : Outing :=
  let o := { o with ended := o.ended + 1, done := inst :: o.done }
  match cause with
  | none => o
  | some k =>
    if o.failed == 0 || inst < o.first then
      { o with failed := o.failed + 1, first := inst, reason := k.setWidth 16 }
    else { o with failed := o.failed + 1 }

/-- What a context that has ended leaves running loses its tie to the context: nothing of it lands in a
register or faults there (R436). -/
def State.detach (s : State) (c : Fin 11) : State :=
  let row := fun (k : RowCmd) =>
    match k.owner with
    | .ctx d _ =>
      if d == c then
        { k with owner := .sequencer
                 kind := match k.kind with | .con b (.vreg _ _) => .con b (.data []) | x => x }
      else k
    | _ => k
  let own := fun (o : OpOwner) => match o with | .ctx d pc b => if d == c then .orphan else .ctx d pc b | o => o
  let step := fun (k : StepRun) => match k.kind with
    | .bar d => if d == some c then { k with kind := .bar none } else k
    | .barc d rec clr => if d == some c then { k with kind := .barc none rec clr } else k
    | .coll _ _ => k
  { s with
    flights := (s.flights.filter (fun f => !(f.c == c && (match f.kind with
        | .abread _ _ _ _ _ _ => true | .status _ => true | _ => false)))).map (fun f =>
      if f.c == c then { f with dest := none, orphan := true } else f)
    msgs := s.msgs.map (fun m => if m.c == c then { m with dest := .g 0, orphan := true } else m)
    rows := { s.rows with queue := s.rows.queue.map row, running := s.rows.running.map row }
    matrix := { s.matrix with queue := s.matrix.queue.map (fun q => { q with owner := own q.owner })
                              blocks := s.matrix.blocks.map (fun b => match b.alloc with
                                | some (d, _, _) => if d == c then { b with doomed := true } else b
                                | none => b)
                              planeQueue := s.matrix.planeQueue.map (fun q => { q with owner := own q.owner }) }
    scopes := s.scopes.map (fun k => { k with queue := k.queue.map step }) }

/-- Whether a slot record is one of the bound party's: this rank's, or one in use under its number at another of its
sites (R424). -/
def State.recordOfParty (s : State) (e : (Nat × Nat) × BitVec 256) : Bool :=
  e.1 == (s.party.site.toNat, s.party.slot.1)
    || (s.party.lrns.any (fun l => l.2.toNat == e.1.1) && e.2.extractLsb' 0 2 != 0
      && e.2.extractLsb' 224 32 == s.party.record.extractLsb' 224 32)

/-- The records of the party given a STATE (R424 to R426, R429). -/
def State.setSlotState (s : State) (v : Nat) : State :=
  { s with sched := { s.sched with slotTable := s.sched.slotTable.map (fun e =>
      if s.recordOfParty e then (e.1, setField e.2 0 2 v) else e) } }

/-- The rank's slot freed by a record, and its number given up (R426, R427). -/
def State.freeRecord (s : State) (r : BitVec 256) : State :=
  { s with
    rankMap := s.rankMap.filter (fun e => !(e.1 == s.asid && e.2.1 == s.lrn))
    sched := { s.sched with slotTable := s.sched.slotTable.map (fun e =>
      if e.1 == (s.party.site.toNat, s.party.slot.1) then (e.1, r) else e) } }

/-- What a part that has ended leaves to its rank is released once every outside request that the gate had
admitted is answered (R465): the outing counts the run where this rank decides it: the only rank of its party, or one
that has failed (R420). The only rank's end is its party's: its record is free and it leaves the map (R426, R427); a
party of more ranks ends with its last context, which the write of its records tells. -/
def State.releasePart (s : State) : State :=
  match s.party.ending with
  | none => s
  | some cause =>
    if s.gate.any (·.admitted) then s
    else
      let outing := s.party.packet.extractLsb' 160 32
      let inst := (s.party.record.extractLsb' 204 20).toNat
      let s1 := if s.party.size ≤ 1 then { s.setSlotState 0 with rankMap := s.rankMap.filter (fun e => !(e.1 == s.asid && e.2.1 == s.lrn)) }
        else
          match s.party.freeing with
          | some r => s.freeRecord r
          | none => s
      { s1 with
        party := { s1.party with
          ending := none
          freeing := none }
        sched := { s1.sched with
          outings := s1.sched.outings.map (fun o =>
            if o.vf == s.vf && o.id == outing && o.state == .running && (cause.isSome || decide (s.party.size ≤ 1)) then
              o.runEnd inst cause
            else o) } }

/-! ## The row path's views (R142, R143) -/

def State.modRows (s : State) (f : RowPath → RowPath) : State := { s with rows := f s.rows }

def RowPath.bank (r : RowPath) (b : Nat) : RowBank := r.banks.toList.getD b RowBank.blank
def RowPath.layer (r : RowPath) (l : Nat) : RowLayer := r.layers.toList.getD l RowLayer.blank

def RowPath.modBank (r : RowPath) (b : Nat) (f : RowBank → RowBank) : RowPath :=
  { r with banks := setAt r.banks b (f (r.bank b)) }
def RowPath.modLayer (r : RowPath) (l : Nat) (f : RowLayer → RowLayer) : RowPath :=
  { r with layers := setAt r.layers l (f (r.layer l)) }

/-- Commands that the queue holds at most (R142). -/
def rowQueueSize : Nat := 16

/-- A command put into the queue. -/
def State.rowEnqueue (s : State) (owner : RowOwner) (kind : RowCmdKind) (data : List Byte)
    (inHandler : Bool) : State :=
  let cmd : RowCmd :=
    { id := s.nextId, owner := owner, kind := kind, issued := s.now, startedAt := none, doneAt := 0,
      data := data, poisoned := false, row := 0, beatAt := 0, tries := 0, beat := 0, beatTries := 0, inHandler := inHandler }
  { s with nextId := s.nextId + 1, rows := { s.rows with queue := s.rows.queue ++ [cmd] } }

/-- The banks the issue view holds open, ascending. -/
def RowPath.viewOpen (r : RowPath) : List Nat := (List.range 16).filter (fun b => (r.bank b).view.isSome)

/-- Banks closed in the issue view. -/
def RowPath.closeView (r : RowPath) (bs : List Nat) : RowPath :=
  bs.foldl (fun r b => r.modBank b (fun k => { k with view := none })) r

/-- No RACT of a context waits for a layer's debt any more: it has left it (R145). -/
def State.unstall (s : State) (c : Fin 11) : State :=
  if s.rows.layers.toList.all (fun l => l.stalled.isEmpty) then s
  else s.modRows (fun r => { r with layers := r.layers.map (fun l => { l with stalled := l.stalled.erase c }) })

/-- Every bank that is open to the rank closes with write-back, behind the commands already queued (R172).
DEDUCED, log entry 68. -/
def State.closeAll (s : State) : State :=
  if s.rows.viewOpen.isEmpty then s
  else (s.modRows (·.closeView s.rows.viewOpen)).rowEnqueue .sequencer (.pre s.rows.viewOpen) [] false

/-- The rank's part of its party ends (R317, R420, R426): every context is freed, what its units have begun
goes on without one, its banks close (R172), nothing more is admitted, and its resources are released (R465).
DEDUCED, log entry 80. -/
def State.endPart (s : State) (cause : Option (BitVec 8)) : State :=
  let s1 := (allCtx.foldl (fun (s : State) c => s.unstall c) (allCtx.foldl State.detach s)).closeAll
  let s2 : State := { s1 with
      ctxs := Vector.replicate 11 Ctx.blank
      flights := s1.flights.filter (fun f => f.xl == .ready)
      graph := { s1.graph with
        streams := []
        runs := s1.graph.runs.map (fun r =>
          if r.coll.isSome then RunSlot.blank else if r.state == 0 then r else { r with dropping := true }) }
      arrivals := []
      scopes := Vector.replicate 2 ⟨[], [], none⟩
      beacons := (s1.beacons.map (fun q => (q.1, q.2.filter (fun r => r.2.1 != s.lrn)))).filter (fun q => !q.2.isEmpty)
      party := { s1.party with
        bound := false
        preempting := false
        starting := false
        ending := some cause
        freeing := none }
      sched := { s1.sched with tickets := Vector.replicate 32 none } }
  s2.releasePart

/-- Every beacon that contexts hold is released. -/
def State.releaseHeld (s : State) (cs : List (Fin 11)) : State :=
  cs.foldl (fun (s : State) d => (s.ctx d).held.foldl (fun (s : State) h => s.releaseBeacon d h.2.1 h.1 h.2.2) s) s

/-- The rank's part is halted, its party having ended by the failure of another rank: its resources are released
(R420). -/
def State.haltPart (s : State) : State := (s.releaseHeld allCtx).endPart none

/-- The CONTEXT_END record (R440). -/
def State.contextEndRec (s : State) (c : Fin 11) (cause : BitVec 8) (resume info : Word)
    (xlat : Option Word) (double rankEnd : Bool) : BitVec 512 :=
  recHeader 0x06 s.asid s.vf s.lrn ||| at' 64 (if rankEnd then 1 else 0)
    ||| at' 65 (if double then 1 else 0) ||| at' 96 cause.toNat ||| at' 104 c.1
    ||| at' 108 (s.party.record.extractLsb' 204 20).toNat ||| at' 128 resume.toNat
    ||| at' 192 info.toNat ||| at' 256 (s.now % 2 ^ 64)
    ||| at' 320 (xlat.getD (s.ctx c).trapXlat).toNat

/-- A context ends by a fault (R436): its hamper and waiting faults are discarded and its held accesses
withdrawn; its beacons, streams, runs and tickets are released; the record is written. The control
context, or a helper with KILL, ends the rank's part as well.
DEDUCED, log entry 61. -/
def State.endContext (s : State) (c : Fin 11) (cause : BitVec 8) (resume info : Word)
    (xlat : Option Word) : State :=
  let x := s.ctx c
  let rankEnd := c == 0 || x.kill
  let s1 := s.postRec s.vf (s.contextEndRec c cause resume info xlat x.inh rankEnd)
  let s2 := s1.releaseHeld (if rankEnd then allCtx else [c])
  let s3 := ((s2.dropStreams c).dropRuns c).dropTickets c
  let s4 := { s3 with flights := s3.flights.filter (fun f =>
    !(f.c == c && (match f.xl with | .held _ _ => true | _ => false))) }
  if rankEnd then s4.endPart (some cause)
  else
    ((s4.detach c).unstall c).modCtx c (fun x =>
      { x with cstate := .ended, exitValue := (1 <<< 63) ||| cause.setWidth 64, hamper := [],
               faults := [], park := none, idle := none, bypass := [], owed := [], settling := [], busy := [],
               acqQueued := none, barWait := none, tlbWait := none })

/-- A context's waiting ACQ leaves the directory's queue (R203). -/
def State.withdraw (s : State) (c : Fin 11) : State :=
  match (s.ctx c).acqQueued with
  | none => s
  | some _ =>
    { s with beacons := s.beacons.map (fun (q : Nat × List (Fin 11 × BitVec 10 × Bool)) =>
        (q.1, q.2.filter (fun r => r.1 != c || r.2.1 != s.lrn))) }.modCtx c (fun x => { x with acqQueued := none })

/-- Taking a trap (R434): the context ends where traps do not vector or it is inside its handler;
otherwise results in flight are written, the trap registers are written, MODE goes to TMODE and becomes PARK, the
hamper freezes, the bypass empties, a running loop is suspended, INH is set, LOST is cleared, and the PC is the
handler's, which issues first after 6 cc. -/
def State.takeTrap (s0 : State) (c : Fin 11) (cause : BitVec 8) (resume info : Word)
    (xlat : Option Word) (inner : Option (Word × Word)) : State :=
  let s := (s0.withdraw c).unstall c
  let x := (s.ctx c).settleAll
  if !x.trapEn || x.inh then s.endContext c cause resume info xlat
  else
    s.setCtx c
      { x with
        cstate := .ready
        trapCause := cause.setWidth 64
        trapPc := resume &&& 0x01FFFFFFFFFFFFFC
        trapInfo := info
        trapXlat := xlat.getD x.trapXlat
        trapRcause := match inner with | some p => p.1 | none => x.trapRcause
        trapRinfo := match inner with | some p => p.2 | none => x.trapRinfo
        tmode := x.deferMode
        deferMode := false
        bypass := []
        owed := []
        busy := []
        startAt := s.now + 6
        loop := { x.loop with suspended := x.loop.active }
        trapVec := x.trapVec ||| 2
        park := none
        idle := none
        pc := x.handler }

/-- Returning from a handler (R435): MODE from TMODE, INH cleared, the bypass emptied, the PC from
TRAP.PC, and a suspended loop resumed. -/
def Ctx.trapReturn (x : Ctx) : Ctx :=
  { x with
    deferMode := x.tmode
    trapVec := x.trapVec &&& ~~~2
    bypass := []
    owed := []
    loop := { x.loop with suspended := false }
    pc := x.trapPc }

/-! ## Cause codes (R438) -/

namespace Cause
def illegal : BitVec 8 := 0x01
def reservedOpc : BitVec 8 := 0x02
def fetchFault : BitVec 8 := 0x03
def misaligned : BitVec 8 := 0x04
def nearBounds : BitVec 8 := 0x05
def notPresent : BitVec 8 := 0x06
def pagePerm : BitVec 8 := 0x07
def remoteLost : BitVec 8 := 0x08
def poisoned : BitVec 8 := 0x09
def bankBusy : BitVec 8 := 0x0A
def rowClosed : BitVec 8 := 0x0B
def rowUncorrectable : BitVec 8 := 0x0C
def hamperFull : BitVec 8 := 0x0D
def residual : BitVec 8 := 0x0E
def windowExhausted : BitVec 8 := 0x0F
def accBusy : BitVec 8 := 0x10
def accLeak : BitVec 8 := 0x11
def accExhausted : BitVec 8 := 0x12
def tagMiss : BitVec 8 := 0x13
def planeBusy : BitVec 8 := 0x14
def arrayCheck : BitVec 8 := 0x15
def arrayClip : BitVec 8 := 0x16
def capabilityDenied : BitVec 8 := 0x17
def stepFailed : BitVec 8 := 0x18
def gateTimeout : BitVec 8 := 0x19
def launchRange : BitVec 8 := 0x1A
def beaconErr : BitVec 8 := 0x1B
def streamUnbound : BitVec 8 := 0x1C
def seqReset : BitVec 8 := 0x1D
def software : BitVec 8 := 0x1E
end Cause

/-- TRAP.XLAT of a failed translation (R123). -/
def xlatWord (fault : BitVec 3) (reason : BitVec 4) (va : Word) : Word :=
  (fault ++ reason ++ va.setWidth 57 : BitVec 64)

/-- The cause TRAP.XLAT.FAULT names (R123, R124). -/
def xlatCause (fault : BitVec 3) : BitVec 8 :=
  match fault.toNat with
  | 1 => Cause.notPresent
  | 2 => Cause.pagePerm
  | 3 => Cause.remoteLost
  | _ => Cause.illegal

/-- A REASON in TRAP.INFO[63:60] (R195, R241, R256, R308). -/
def reasonInfo (r : Nat) (low : Word) : Word := BitVec.ofNat 64 (r * 2 ^ 60) ||| low

/-- A store whose outcome a lost link leaves unknown: it is over, and its fault waits for the next FENCE or
REL of its context (R135). -/
def Flight.lost (f : Flight) : Bool :=
  match f.xl with | .failed fault reason _ => fault == 3 && reason == 10 | _ => false

/-- Whether an access lands a value: a load, an atomic or a status. -/
def Flight.hasValue (f : Flight) : Bool :=
  match f.kind with
  | .load _ | .atomic _ _ _ _ _ | .compare _ _ _ | .status _ => true
  | _ => false

/-- Whether an access is held. -/
def Flight.isHeld (f : Flight) : Bool := match f.xl with | .held _ _ => true | _ => false

/-- Whether an access lands at an engine's or a plane's completion. -/
def Flight.isRead (f : Flight) : Bool := match f.kind with | .abread _ _ _ _ _ _ => true | _ => false

/-- Whether an access in flight of a context has still to be performed before a later one of its (R193, R207):
a held one only if it acquires. -/
def Flight.before (g : Flight) : Bool := !g.lost && !g.isRead && (!g.isHeld || g.acquire)

/-- Whether an operation belongs to a context. -/
def OpOwner.isOf (o : OpOwner) (c : Fin 11) : Bool := match o with | .ctx d _ _ => d == c | _ => false

/-- Runs of which a stop in progress has met a failure are failed from that moment: none of their stops
launches any more, and the first to fail stands in FSTOP (R220). -/
def State.failRuns (s : State) : State :=
  s.graph.inProgress.foldl (fun (s : State) p =>
    if p.fail.isNone || (s.graph.runs.get p.run).failed then s
    else
      { s with graph := { s.graph with
          runs := s.graph.runs.set p.run.1 { s.graph.runs.get p.run with
            failed := true
            fstop := p.stop.toNat } p.run.2
          launchQueue := s.graph.launchQueue.filter (fun q => q.1 != p.run) } }) s

/-! ## What a meaning answers -/

/-- What executing an instruction's body comes to: register results and a new state; the same with a jump; a precise
fault, in the state before or in one a walk has changed (R114, R116); a wait at issue, with whatever the wait itself
changes; or the whole state that follows, where the PC, the loop and the hints are the meaning's own. -/
inductive Act where
  | done (res : List (RegName × Vec)) (s : State)
  | jump (res : List (RegName × Vec)) (s : State) (target : Word)
  | trap (cause : BitVec 8) (info : Word) (xlat : Option Word)
  | trapIn (s : State) (cause : BitVec 8) (info : Word) (xlat : Option Word)
  | stay (s : State)
  | whole (s : State)
  deriving DecidableEq, Repr

/-- Every step of the machine needs power (R463).
DEDUCED, log entry 115. -/
def powered (s : State) (next : State) : Host.Outcome State Fault Refusal :=
  if s.house.powered then .next next else .fault .powerOff

end Sys2Proof.Machine
end

