-- ==== Sys2Proof/Machine/Operands.lean ====
section
/-! DEFINITION. Which registers an instruction reads and writes (R32 to R35, R294 to R301, R342), and how
its operands are read (R34, R237, R290, R297). -/

namespace Sys2Proof

/-- MOD.OS[7], the ME of R342. -/
def Fields.me (w : Fields) : Bool := w.os.getLsbD 7
/-- MOD.OS[6:4], the MN of R342. -/
def Fields.mn (w : Fields) : BitVec 3 := w.os.extractLsb' 4 3
/-- MOD.OS[3], the ZM of R342. -/
def Fields.zm (w : Fields) : Bool := w.os.getLsbD 3

/-- Whether an operand field names the literal operand (R34). -/
def Opd.isLit (o : Opd) : Bool := o.cls == .scalar && o.num == 63

namespace Machine

/-- Opcodes whose MOD.OS carries the masking bits of R342. -/
def maskable : Opcode → Bool
  | .vadd | .vsub | .vmul | .vfma | .vfms | .vrcp | .vrsq | .vsqrt | .vexp2 | .vlog2 | .vtanh | .vmin
  | .vmax | .vabs | .vneg | .vand | .vor | .vxor | .vshl | .vshr | .vsar | .vcmp | .vsel | .vbcast
  | .vshuf | .vperm | .vrot | .vred | .vscan | .vdot | .vtag | .vargm | .viota | .vcnt | .vclamp
  | .wpass | .wgacc => true
  | _ => false

/-- What an instruction does with the register FD names. -/
inductive FdRole where
  | none | dst | src | both
  deriving DecidableEq, Repr

/-- Masked without `.Z`, the destination's old lanes are kept, so it is read as well (R342). -/
def maskedRole (w : Fields) : FdRole := if w.me && !w.zm then .both else .dst

/-- The role of FD in each opcode's entry. -/
def fdRole (op : Opcode) (w : Fields) : FdRole :=
  match op with
  | .nop | .br | .jmp | .call | .callr | .ret | .jp | .waitp | .loop | .linc | .exit | .yield | .trap
  | .defer | .park | .pref | .acq | .rel | .fence | .lbfence | .isync | .ract | .rpre | .rref | .sbind
  | .sfree | .sdrain | .idrop | .mwait | .abfree | .abzero | .wload | .wswap | .wres | .wcfg | .trapret
  | .tlbinv | .evclr => .none
  | .st | .stv | .stx | .bbind | .mmas | .mmav | .mmar | .abwrite | .mtq => .src
  | .bins | .ffma | .cas | .vins | .vpack => .both
  | .vfma | .vfms | .vperm | .vdot => .both
  | .movl => if w.os.getLsbD 0 then .both else .dst
  | .cmp | .fcmp => if w.os.extractLsb' 0 2 = 0 then .dst else .both
  | .vcmp => if w.os.extractLsb' 0 2 = 0 then maskedRole w else .both
  | .rcon => if w.os = 2 then .dst else .none
  | .rwb => if w.os = 2 then .src else .none
  | .vadd | .vsub | .vmul | .vrcp | .vrsq | .vsqrt | .vexp2 | .vlog2 | .vtanh | .vmin | .vmax | .vabs
  | .vneg | .vand | .vor | .vxor | .vshl | .vshr | .vsar | .vbcast | .vshuf | .vrot | .vscan | .viota
  | .vcnt | .vclamp => maskedRole w
  | _ => .dst

/-- The register after one, for the second of a pair (R370). -/
def RegName.next : RegName → RegName
  | .g n => .g (n + 1)
  | .w k => .w (k + 1)
  | .v n => .v (n + 1)
  | .p n => .p (n + 1)
  | .m n => .m (n + 1)

/-- `n` consecutive registers. -/
def RegName.run (r : RegName) : Nat → List RegName
  | 0 => []
  | n + 1 => r :: r.next.run n

/-- How many registers an operand field names: both registers of a pair, MMAV's four vectors, the eight
of a row's group. -/
def fdCount (op : Opcode) : Nat :=
  match op with
  | .mtq => 2
  | .rcon | .rwb => 8
  | _ => 1

def faCount (op : Opcode) : Nat :=
  match op with
  | .mmas | .mtq | .wpass | .wgacc => 2
  | .mmav => 4
  | _ => 1

def fbCount (op : Opcode) (w : Fields) : Nat :=
  match op with
  | .mmas | .mmav | .vcvto => 2
  | .mmar => if w.os.getLsbD 7 then 1 else 2
  | _ => 1

def regsAt (depth : Nat) (o : Opd) (n : Nat) : List RegName :=
  match regAt depth o with
  | some r => r.run n
  | none => []

/-- The guard's register (R32). -/
def guardReg (w : Fields) : RegName := .p w.guard.p

/-- The registers an instruction reads, its guard aside. The operands JP and WAITP test and the vector
operand that names a binding are not read (R226, R299). -/
def sources (depth : Nat) (op : Opcode) (w : Fields) : List RegName :=
  let fd := match fdRole op w with
    | .src | .both => regsAt depth w.fd (fdCount op)
    | _ => []
  let fa := match op with
    | .jp | .waitp | .sstat | .linc => []
    | _ => regsAt depth w.fa (faCount op)
  let fb := match op with
    | .linc => []
    | _ => regsAt depth w.fb (fbCount op w)
  let extra := match op with
    | .sel => [.p (w.os.extractLsb' 0 3)]
    | .ret => [.w (16 * depth + 7)]
    | _ => if maskable op && w.me then [.m w.mn] else []
  fd ++ fa ++ fb ++ extra

/-- The registers an instruction writes; a call writes `w7` of the new depth (R283). -/
def dests (depth : Nat) (op : Opcode) (w : Fields) : List RegName :=
  let fd := match fdRole op w with
    | .dst | .both => regsAt depth w.fd (fdCount op)
    | _ => []
  match op with
  | .vcvto => fd ++ [.m (4 + (w.os.extractLsb' 6 2).setWidth 3)] ++ regsAt depth w.fb 1
  | .call | .callr => [.w (16 * (depth + 1) + 7)]
  | _ => fd

/-! ## Streams an instruction names (R237, R238) -/

/-- The binding of a vector register of a context (R233). -/
def State.stream? (s : State) (c : Fin 11) (n : BitVec 5) : Option Stream :=
  s.graph.streams.find? (fun b => b.c == c && b.reg == n)

/-- The vector register numbers among registers. -/
def vectorNums : List RegName → List (BitVec 5)
  | [] => []
  | .v n :: rest => n :: vectorNums rest
  | _ :: rest => vectorNums rest

/-- The registers of a list that are bound to streams, each once. -/
def boundRegs (s : State) (c : Fin 11) (rs : List RegName) : List (BitVec 5) :=
  if s.graph.streams.isEmpty then [] else
    ((vectorNums rs).filter (fun n => (s.stream? c n).isSome)).eraseDups

/-- Opcodes whose vector operand may not touch a bound register: LDV, which the rule names, and those with a group
operand (R238, R374).
DEDUCED, log entry 51. -/
def groupOp : Opcode → Bool
  | .ldv | .mmav | .abread | .abwrite | .rcon | .rwb => true
  | _ => false

/-- The groups a stream walks in all: ⌈T/32⌉ (R235, R237). -/
def streamTotal (desc : BitVec 512) : Nat :=
  (desc.extractLsb' 64 32).toNat * (desc.extractLsb' 96 16).toNat * (desc.extractLsb' 112 16).toNat
    * (desc.extractLsb' 128 16).toNat

def Stream.groups (b : Stream) : Nat := (streamTotal b.desc + 31) / 32

/-- A group of a binding's buffer by number. -/
def Stream.group? (b : Stream) (i : Nat) : Option StreamGroup := b.buf.find? (·.idx == i)

/-! ## Reading operands -/

/-- A register as an instruction reads it: captured at issue, a group it claims, the file for a residual,
or bypass and file (R237, R290, R297). -/
def Entry.reg (e : Entry) (s : State) (c : Fin 11) (r : RegName) : Vec :=
  match e.cap.find? (·.1 == r) with
  | some p => p.2
  | none =>
    match r with
    | .v n =>
      match e.claims.find? (·.1 == n) with
      | some cl =>
        (((s.stream? c n).bind (·.group? cl.2)).bind (·.data)).getD 0
      | none => if e.residual then (s.ctx c).file r else (s.ctx c).read r
    | _ => if e.residual then (s.ctx c).file r else (s.ctx c).read r

/-- The literal, sign-extended (R34). -/
def Entry.lit (e : Entry) : Word := e.w.lit.signExtend 64

/-- A scalar operand: the literal sign-extended, or a scalar register (R34). -/
def Entry.scalar (e : Entry) (s : State) (c : Fin 11) (o : Opd) : Word :=
  if o.isLit then e.lit
  else match regAt e.depth o with
    | some r => (e.reg s c r).setWidth 64
    | none => 0

/-- Operand A: a scalar register's value is raised by the loop's address step (R314). -/
def Entry.opA (e : Entry) (s : State) (c : Fin 11) : Word :=
  if e.w.fa.isLit then e.lit else e.scalar s c e.w.fa + e.addrStep

def Entry.opB (e : Entry) (s : State) (c : Fin 11) : Word := e.scalar s c e.w.fb
def Entry.opD (e : Entry) (s : State) (c : Fin 11) : Word := e.scalar s c e.w.fd

/-- A literal read zero-extended where the entry says so (JMP, LOOP; R306). -/
def Entry.scalarZ (e : Entry) (s : State) (c : Fin 11) (o : Opd) : Word :=
  if o.isLit then e.w.lit.setWidth 64 else e.scalar s c o

/-- The second register of a pair (R370). -/
def Entry.second (e : Entry) (s : State) (c : Fin 11) (o : Opd) : Word :=
  match regAt e.depth o with
  | some r => (e.reg s c r.next).setWidth 64
  | none => 0

/-- A vector operand slot V/S/L (R341): a vector, a scalar's low word in every lane, or LIT in every
lane. -/
def Entry.vecOp (e : Entry) (s : State) (c : Fin 11) (o : Opd) (step : Word) : Nat → BitVec 32 :=
  match o.cls with
  | .vector =>
    let v := match regAt e.depth o with | some r => e.reg s c r | none => 0
    fun i => v.extractLsb' (32 * i) 32
  | _ =>
    let x := if o.isLit then e.w.lit else (e.scalar s c o + step).setWidth 32
    fun _ => x

/-- The whole register an operand names. -/
def Entry.vec (e : Entry) (s : State) (c : Fin 11) (o : Opd) : Vec :=
  match regAt e.depth o with
  | some r => e.reg s c r
  | none => 0

/-- The value of a predicate or mask operand as 32 bits (R333). -/
def Entry.mask32 (e : Entry) (s : State) (c : Fin 11) (o : Opd) : Mask :=
  match regAt e.depth o with
  | some (.p n) => if (e.reg s c (.p n)).getLsbD 0 then 0xFFFFFFFF else 0
  | some r => (e.reg s c r).setWidth 32
  | none => 0

/-- The register FD names. -/
def Entry.fdReg (e : Entry) : RegName := (regAt e.depth e.w.fd).getD (.g 0)

/-- A result to FD of a 64-bit value. -/
def Entry.toFd (e : Entry) (v : Word) : List (RegName × Vec) := [(e.fdReg, v.setWidth 1024)]

/-- A truth value to a predicate or mask destination (R331). -/
def Entry.truth (e : Entry) (t : Bool) : List (RegName × Vec) :=
  match e.fdReg with
  | .m n => [(.m n, if t then 0xFFFFFFFF else 0)]
  | r => [(r, if t then 1 else 0)]

/-! ## Pending registers as an issuing instruction finds them (R294, R303) -/

/-- Pending for an issuing instruction: inside a handler, a register's frozen entries do not count
(R303). -/
def Ctx.blocked (x : Ctx) (r : RegName) : Bool :=
  if r.fixed then false
  else if x.inh then
    decide ((x.hamper.map (fun h => h.dests.count r)).sum < x.pending.count r)
  else x.pending.contains r

/-- A register that holds an instruction at issue though it is not pending: a scratchpad load has still to
deliver it (R190, R193), a result is not readable yet (R320, R343, R468), or a transient result that is the newest to
hold it has still to land (R291). -/
def Ctx.undelivered (x : Ctx) (now : Nat) (r : RegName) : Bool :=
  x.delivering.contains r || x.busy.any (fun p => p.1 == r && decide (now < p.2))
    || (!x.pending.contains r && x.owed.any (fun o => o.1 == r
      && (x.bypass.take o.2).all (fun res => !res.any (·.1 == r))))

end Machine

end Sys2Proof
end

