-- ==== Sys2Proof/Machine/Flags.lean ====
section
/-! DEFINITION. Conditions (R41), the combination of a condition with an old truth value (R331), and
classes of values (R339): every flag-like result the specification computes. The event counters, the
machine's other flags, are raised through `State.count` (R106). -/

namespace Sys2Proof.Machine

/-- An integer comparison under CC on `w`-bit operands (R41, R331). -/
def intCond (cc : Nat) (w a b : Nat) : Bool :=
  let sa := signedOf w a
  let sb := signedOf w b
  match cc with
  | 0 => a == b
  | 1 => a != b
  | 2 => decide (sa < sb)
  | 3 => decide (sb ≤ sa)
  | 4 => decide (a < b)
  | _ => decide (b ≤ a)

/-- A floating-point comparison under CC (R41, R337). -/
def floatCond (cc : Nat) (a b : Num) : Bool :=
  let un := a.isNan || b.isNan
  match cc with
  | 0 => a.eq b
  | 1 => un || !a.eq b
  | 2 => a.lt b
  | 3 => !un && !a.lt b
  | 6 => un
  | _ => !un

/-- The truth a comparison writes (R331): `.SET`, `.AND` or `.OR` with the old one. -/
def combine (comb : Nat) (cond old : Bool) : Bool :=
  match comb with
  | 0 => cond
  | 1 => cond && old
  | _ => cond || old

/-- FD's old truth: a mask counts as true when it is nonzero (R331). -/
def Entry.oldTruth (e : Entry) (s : State) (c : Fin 11) : Bool :=
  match e.fdReg with
  | .p n => (e.reg s c (.p n)).getLsbD 0
  | r => e.reg s c r != 0

/-- The class bit of a floating value (R339). -/
def classBit (f : Fmt) (code : Nat) : Nat :=
  match f.decode code with
  | .nan => 8
  | .inf neg => if neg then 0 else 7
  | .fin neg m _ _ =>
    let sub := code % 2 ^ (f.expBits + f.man) < 2 ^ f.man
    if m == 0 then (if neg then 3 else 4)
    else if sub then (if neg then 2 else 5)
    else (if neg then 1 else 6)

end Sys2Proof.Machine
end

