-- ==== Sys2Proof/Machine/Translate.lean ====
section
/-! DEFINITION. From a global virtual address to the keys of its bytes: the walk (R112 to R117), the
translation buffers (R120), where a DPA lies (R107 to R110), compressed pages (R118, R119, R264, R265),
and the records a failed or held translation raises (R123 to R128, R133, R135). -/

namespace Sys2Proof.Machine

/-- The entries of the contiguous group that an entry of level 0 lies in (R115): 256 aligned bytes of its node. -/
def groupBase (k : Nat) : Nat := k - k % 256

def State.groupEntry (s : State) (k i : Nat) : BitVec 128 :=
  BitVec.ofNat 128 (s.mem.getNat (groupBase k + 16 * i) 16)

/-- Whether a group meets R115: every entry has C16 = 1 and the fields of the first, with PPN rising;
A and D, which walkers set in the first entry only (R116), aside. -/
def State.groupOk (s : State) (k : Nat) : Bool :=
  let e0 := s.groupEntry k 0
  let strip := fun (e : BitVec 128) => e &&& 0xFFFFF000000000000000FFFFFFFFFF3F &&& ~~~0xC0
  let low := fun (e : BitVec 128) => (strip e).extractLsb' 0 64
  entPpn e0 % 16 == 0 && (List.range 16).all (fun i =>
    let e := s.groupEntry k i
    low e == low e0 && entPpn e == entPpn e0 + i)

/-- Whether a page at level 0 lies in a group that some entry claims with C16 and that breaks R115. -/
def State.groupBroken (s : State) (k : Nat) : Bool :=
  (List.range 16).any (fun i => let e := s.groupEntry k i; entV e && entLeaf e && entC16 e) && !s.groupOk k

/-- What a walk that ended at an entry of level 0 comes to in a broken group: any one of the 16 entries, with
its PPN moved to the page's (R115).
DESIGN CHOICE, log entry 47. -/
def State.groupWalk (s : State) (k va : Nat) (r : WalkEnd) : WalkEnd × State :=
  if s.groupBroken k then
    let (i, s') := s.choose 16
    let e := s.groupEntry k i
    match entryEnd s.caps e (groupBase k + 16 * i) 0 with
    | some (.leaf e' at' _) => (.leaf (setField e' 64 44 (entPpn e' + va / 4096 % 16 + 2 ^ 44 - i)) at' 0, s')
    | some r' => (r', s')
    | none => (r, s')
  else (r, s)

/-- A walk as an access finds it (R112, R115). -/
def State.walkOnce (s : State) (asid : BitVec 8) (va : Nat) : WalkEnd × State :=
  match s.walk asid va with
  | .leaf e k 0 => s.groupWalk k va (.leaf e k 0)
  | .absent k 0 => s.groupWalk k va (.absent k 0)
  | .malformed k 0 => s.groupWalk k va (.malformed k 0)
  | r => (r, s)

/-- Where an entry's accessed and dirty bits stand: in it, or in the first of its group (R116). -/
def markKey (e : BitVec 128) (k : Nat) : Nat := if entC16 e then groupBase k else k

/-- A byte of an entry with A, and D before a write (R116). -/
def markedByte (b : Byte) (write : Bool) : Byte := b ||| 0x40 ||| (if write then 0x80 else 0)

/-- The accessed and dirty bits set (R116).
DEDUCED, log entry 46. -/
def State.touch (s : State) (e : BitVec 128) (k : Nat) (write : Bool) : State :=
  let old := s.mem.get (markKey e k)
  let new := markedByte old write
  if new = old then s else { s with mem := s.mem.set (markKey e k) new }

/-- Whether a walk would set no bit that is not set already. -/
def State.marked (s : State) (e : BitVec 128) (k : Nat) (write : Bool) : Bool :=
  let old := s.mem.get (markKey e k)
  markedByte old write == old

/-- An entry as a walker holds it once it has set A, and D before a write (R116). -/
def markedEntry (e : BitVec 128) (write : Bool) : BitVec 128 := e ||| 0x40 ||| (if write then 0x80 else 0)

/-- Whether two entries differ in A and D at most. -/
def sameLeaf (e f : BitVec 128) : Bool := markedEntry e true == markedEntry f true

/-! ## Access kinds and rights (R117) -/

/-- What an access is to a page (R117): of a rank, or an outside request. -/
inductive AccessKind where
  | read | write | atomic | fetch | outRead | outWrite | outAtomic
  deriving DecidableEq, Repr

/-- Whether an access writes, is an ATOM or a CAS, fetches, or comes from outside (R128). -/
def AccessKind.writes : AccessKind → Bool
  | .write | .atomic | .outWrite | .outAtomic => true
  | _ => false
def AccessKind.atomics : AccessKind → Bool
  | .atomic | .outAtomic => true
  | _ => false
def AccessKind.fetches (k : AccessKind) : Bool := k == .fetch
def AccessKind.outside : AccessKind → Bool
  | .outRead | .outWrite | .outAtomic => true
  | _ => false

/-- The lowest reason of R117 a leaf refuses an access for, if it does. -/
def rightsReason (k : AccessKind) (inHandler : Bool) (e : BitVec 128) : Option (BitVec 4) :=
  let r := e.getLsbD 2
  let w := e.getLsbD 3
  let x := e.getLsbD 4
  let ok := match k with
    | .read | .outRead => r
    | .write | .outWrite => w
    | .atomic | .outAtomic => r && w
    | .fetch => x
  if !ok then some 1
  else if entH e && !inHandler then some 2
  else if k.atomics && entCmp e != 0 then some 3
  else none

/-- A leaf an access goes through: the entry, what it maps, and the DPA of the access's first byte. -/
structure Leaf where
  ent : BitVec 128
  base : Nat
  size : Nat
  dpa : Nat
  deriving DecidableEq, Repr

def Leaf.none : Leaf := ⟨0, 0, 4096, 0⟩

/-- Why an access is held: an entry with V = 0 at a level (R125), or a record that has to be written first
(R127). -/
structure Hold where
  lvl : Nat
  held : HeldFor
  deriving DecidableEq, Repr

/-- What translating a range comes to. -/
inductive XlEnd where
  | ok (keys : List Nat) (peer : Option Peer) (leaf : Leaf)
  | absent (va : Nat) (hold : Hold)
  | fail (fault : BitVec 3) (reason : BitVec 4) (va : Nat)
  deriving DecidableEq, Repr

def State.genOf (s : State) (p : Peer) : Word :=
  match s.linkGens.find? (·.1 == p) with
  | some g => g.2
  | none => 0

/-- The entry that covers an address in a buffer, newest first.
DESIGN CHOICE, log entry 48. -/
def tlbFind (asid : BitVec 8) (va : Nat) : List TlbEntry → Option TlbEntry
  | [] => none
  | e :: es => if e.asid == asid && decide (e.va ≤ va) && decide (va < e.va + e.size) then some e
               else tlbFind asid va es

/-- The fields every translation record has (R128). -/
def State.xlRec (s : State) (kind : Nat) (asid : BitVec 8) (va : Nat) (k : AccessKind) (pc : Word) : BitVec 512 :=
  recHeader kind asid (s.asVf asid) (if k.outside then 0x3FF else s.lrn) ||| at' 22 k.writes.toNat
    ||| at' 23 k.fetches.toNat ||| at' 24 k.atomics.toNat ||| at' 25 k.outside.toNat ||| at' 64 (va % 2 ^ 57)
    ||| at' 128 (if k.outside then 0 else pc.toNat) ||| at' 192 1 ||| at' 256 (s.now % 2 ^ 64)

/-- Whether a record of a VF has to wait for space (R127): its queue takes none, or earlier ones wait. -/
def State.recordWaits (s : State) (vf : BitVec 6) : Bool :=
  (s.queueOf vf).closed || s.pendingRecs.any (fun r => (match r with | .token v _ | .other v _ => v) == vf)

/-- An access that fails with a record of its own (R114, R135): at once, or when the record has been written,
where that has to wait (R127). -/
def State.failWith (s : State) (asid : BitVec 8) (bits : BitVec 512) (fault : BitVec 3) (reason : BitVec 4)
    (va : Nat) : XlEnd × State :=
  if s.recordWaits (s.asVf asid) then (.absent va ⟨0, .fail bits fault reason⟩, s)
  else (.fail fault reason va, s.postRec (s.asVf asid) bits)

/-- A translation of an older link generation (R135): REMOTE_LOST reason 9, with one record per address space
and generation. -/
def State.lostEnd (s : State) (asid : BitVec 8) (peer : Peer) (dpa va : Nat) (k : AccessKind) (pc : Word) :
    XlEnd × State :=
  let g := s.genOf peer
  if s.lost.any (fun l => l.1 == peer && l.2.1 == asid && l.2.2 == g) then (.fail 3 9 va, s)
  else
    ({ s with lost := (peer, asid, g) :: s.lost }).failWith asid
      (s.xlRec 0x04 asid va k pc ||| at' 320 dpa ||| at' 384 g.toNat) 3 9 va

/-- A malformed entry (R114, R128): the MALFORMED record and PAGE_PERM reason 4. -/
def State.malformedEnd (s : State) (asid : BitVec 8) (va lvl : Nat) (k : AccessKind) (pc : Word) : XlEnd × State :=
  s.failWith asid (s.xlRec 0x02 asid va k pc ||| at' 208 lvl) 2 4 va

/-- The first 4 KiB page of what a leaf maps: a larger page or a group counts once (R132). -/
def Leaf.firstPage (l : Leaf) (va : Nat) : Nat :=
  if 4096 < l.size then l.base / 4096 else if entC16 l.ent then va / 4096 / 16 * 16 else va / 4096

/-- An access through a leaf goes on, after the ANCHORED record of this rank's first access to an anchored
page (R133): held until it is written where that has to wait (R127). An outside request is no access of this rank. -/
def State.anchoredEnd (s : State) (asid : BitVec 8) (va : Nat) (k : AccessKind) (pc : Word) (keys : List Nat)
    (peer : Option Peer) (l : Leaf) : XlEnd × State :=
  match s.tracker.find? (fun t => !k.outside && t.asid == asid && t.page.toNat == l.firstPage va && t.anchored.isSome
    && !t.told) with
  | .none => (.ok keys peer l, s)
  | some t =>
    let s1 := { s with tracker := s.tracker.map (fun u => if u == t then { u with told := true } else u) }
    let bits := s.xlRec 0x03 asid va k pc ||| at' 320 l.dpa
    if s.recordWaits (s.asVf asid) then (.absent va ⟨0, .again bits⟩, s1)
    else (.ok keys peer l, s1.postRec (s.asVf asid) bits)

/-- A hit of an access in the translation buffers, newest first, L1 before L2 (R120). -/
def State.tlbHit (s : State) (asid : BitVec 8) (va : Nat) : Option TlbEntry :=
  match tlbFind asid va s.l1 with
  | some e => some e
  | none => tlbFind asid va s.l2

/-- A cached translation as it bears on an address: the entry of its page and what that maps. One of a whole group
stands for the 16 pages of it (R115). -/
def TlbEntry.leafAt (h : TlbEntry) (va : Nat) : BitVec 128 × Nat × Nat :=
  if h.size = 65536 then (setField h.ent 64 44 (entPpn h.ent + (va - h.va) / 4096), va - va % 4096, 4096)
  else (h.ent, h.va, h.size)

/-- Whether a hit is used: one whose tables have changed since, in A or D too, may have been evicted or not, which is
not specified; a first write through it finds the entry changed, and walks again (R116, R120).
DESIGN CHOICE, log entry 48. -/
def State.useHit (s : State) (h : TlbEntry) (va : Nat) (fresh : WalkEnd) (write : Bool) : Bool × State :=
  let (ent, _, size) := h.leafAt va
  let same := match fresh with
    | .leaf e k lvl => sameLeaf ent e && size == leafSize lvl && s.marked e k write
    | _ => false
  let stale := match h.gen with | some (p, g) => g != s.genOf p | none => false
  if (same && !stale) || (write && !stale && !h.ent.getLsbD 7) then (false, s)
  else
    let (i, s') := s.choose 2
    (i == 0, s')

/-- Rights, keys and records through a leaf (R117, R133). -/
def State.throughLeaf (s : State) (asid : BitVec 8) (e : BitVec 128) (base size va n : Nat) (k : AccessKind)
    (inHandler : Bool) (pc : Word) : XlEnd × State :=
  match rightsReason k inHandler e with
  | some r => (.fail 2 r va, s)
  | none =>
    match s.leafKeys asid e base size va n with
    | .error r => (.fail 2 r va, s)
    | .ok (keys, peer, dpa) => s.anchoredEnd asid va k pc keys peer ⟨e, base, size, dpa⟩

/-- What a walk that ended at a leaf loads: the page it maps, or all of a sound group, which is not specified
(R115).
DESIGN CHOICE, log entry 47. -/
def State.loads (s : State) (e : BitVec 128) (k va lvl : Nat) : (BitVec 128 × Nat × Nat) × State :=
  let page := (e, va - va % leafSize lvl, leafSize lvl)
  if lvl == 0 && entC16 e && !s.groupBroken k then
    let (i, s1) := s.choose 2
    if i = 0 then (page, s1)
    else ((setField e 64 44 (entPpn e + 2 ^ 44 - va / 4096 % 16), va - va % 65536, 65536), s1)
  else (page, s)

/-- A translation loaded into both buffers (R120, R135).
DESIGN CHOICE, log entry 47. -/
def State.fillTlb (s : State) (asid : BitVec 8) (e : BitVec 128) (base size : Nat) (write : Bool) : State :=
  let gen := match s.resolve asid (entPpn e * 4096) with
    | .ok p => p.peer.map (fun q => (q, s.genOf q))
    | .error _ => none
  let t : TlbEntry := ⟨asid, base, size, markedEntry e write, gen⟩
  { s with l1 := (t :: s.l1.filter (fun u => !(u.asid == asid && u.va == base))).take 1024
           l2 := (t :: s.l2.filter (fun u => !(u.asid == asid && u.va == base))).take 65536 }

/-- A translation by the tables (R112 to R117).
DEDUCED, log entry 46. -/
def State.walkPage (s : State) (asid : BitVec 8) (va n : Nat) (k : AccessKind) (inHandler : Bool) (pc : Word) :
    XlEnd × State :=
  match s.walkOnce asid va with
  | (.absent _ lvl, s1) => (.absent va ⟨lvl, .host⟩, s1)
  | (.malformed _ lvl, s1) => s1.malformedEnd asid va lvl k pc
  | (.unresolved r, s1) => (.fail 2 r va, s1)
  | (.leaf e key lvl, s1) =>
    match rightsReason k inHandler e with
    | some r => (.fail 2 r va, s1.touch e key false)
    | none =>
      let ((ent, base, size), s2) := s1.loads e key va lvl
      ((s2.touch e key k.writes).fillTlb asid ent base size k.writes).throughLeaf asid e (va - va % leafSize lvl)
        (leafSize lvl) va n k inHandler pc

/-- One translation within a 4 KiB page (R112 to R117, R120, R135). -/
def State.translatePage (s : State) (asid : BitVec 8) (va n : Nat) (k : AccessKind) (inHandler : Bool)
    (pc : Word) : XlEnd × State :=
  match s.tlbHit asid va with
  | none => s.walkPage asid va n k inHandler pc
  | some h =>
    let (used, s1) := s.useHit h va (s.walk asid va) k.writes
    if used then
      let (ent, base, size) := h.leafAt va
      match h.gen with
      | some (p, g) =>
        if g != s1.genOf p then s1.lostEnd asid p (entPpn ent * 4096 + (va - base)) va k pc
        else s1.throughLeaf asid ent base size va n k inHandler pc
      | none => s1.throughLeaf asid ent base size va n k inHandler pc
    else s1.walkPage asid va n k inHandler pc

/-- A range translated page by page, ascending; the first failure is the access's (R187). -/
def State.translateFrom (s : State) (asid : BitVec 8) (k : AccessKind) (inHandler : Bool) (pc : Word) :
    Nat → Nat → Nat → XlEnd × State
  | 0, _, _ => (.ok [] none Leaf.none, s)
  | fuel + 1, va, n =>
    let here := min n (4096 - va % 4096)
    match s.translatePage asid va here k inHandler pc with
    | (.ok keys peer l, s1) =>
      if n ≤ here then (.ok keys peer l, s1)
      else
        match s1.translateFrom asid k inHandler pc fuel (va + here) (n - here) with
        | (.ok keys' peer' _, s2) => (.ok (keys ++ keys') (peer <|> peer') l, s2)
        | r => r
    | r => r

/-- Translating `n` bytes at a 64-bit address (R112): bits [63:57] must be zero on every byte. -/
def State.translate (s : State) (asid : BitVec 8) (va : Word) (n : Nat) (k : AccessKind)
    (inHandler : Bool) (pc : Word) : XlEnd × State :=
  if 2 ^ 57 ≤ va.toNat + (n - 1) then (.fail 2 5 (if 2 ^ 57 ≤ va.toNat then va.toNat else 2 ^ 57), s)
  else s.translateFrom asid k inHandler pc (n / 4096 + 2) va.toNat n

/-- The leaf that maps an address, with its size, as a buffer or the tables give it. -/
def State.leafOf (s : State) (va : Nat) : Option (BitVec 128 × Nat) :=
  match s.tlbHit s.asid va with
  | some t => let (e, _, size) := t.leafAt va; some (e, size)
  | none =>
    match s.walk s.asid va with
    | .leaf e _ lvl => some (e, leafSize lvl)
    | _ => none

/-! ## Not-present pages (R125, R128) -/

/-- Whether a record holds accesses to a page for the host's answer (R125, R128). -/
def TokenRec.opens (t : TokenRec) (asid : BitVec 8) (page : Nat) : Bool :=
  t.asid == asid && t.va.toNat / 4096 == page && t.held == .host

/-- An access as a record holds it. -/
def AccessKind.held (k : AccessKind) (who : Holder) (va : Nat) (pc : Word) : HeldAccess :=
  ⟨who, BitVec.ofNat 64 va, pc, k.writes, k.fetches, k.atomics⟩

/-- The kind of a held access of this rank. -/
def HeldAccess.kind (h : HeldAccess) : AccessKind :=
  if h.fetch then .fetch else if h.atomic then .atomic else if h.write then .write else .read

/-- A held access joins the outstanding record of its page, or opens one (R125, R128); a record of another
kind holds one access (R127).
DESIGN CHOICE, log entry 104. -/
def State.holdPage (s : State) (asid : BitVec 8) (va : Nat) (h : Hold) (k : AccessKind) (pc : Word) (who : Holder) :
    BitVec 32 × State :=
  match (if h.held == .host then s.tokens.find? (fun t => t.opens asid (va / 4096)) else none) with
  | some t =>
    (t.token, { s with tokens := s.tokens.map (fun u =>
      if u.token == t.token then { u with
        count := min (u.count + 1) 0xFFFF
        holders := u.holders ++ [k.held who va pc] } else u) })
  | none =>
    let t : TokenRec :=
      { token := s.nextToken, vf := s.asVf asid, asid := asid, va := BitVec.ofNat 64 va,
        pc := if k.outside then 0 else pc, lrn := if k.outside then 0x3FF else s.lrn, level := h.lvl, count := 1,
        write := k.writes, fetch := k.fetches, atomic := k.atomics,
        out := k.outside, writtenAt := none, held := h.held, holders := [k.held who va pc] }
    (s.nextToken, ({ s with
      tokens := s.tokens ++ [t]
      nextToken := s.nextToken + 1
      pendingRecs := s.pendingRecs ++ [PendingRec.token (s.asVf asid) s.nextToken] }).noteWait (s.asVf asid))

/-! ## Format descriptors (R91 to R93) -/

/-- Descriptor `n` of an address space, from its table (R111).
DESIGN CHOICE, log entry 138. -/
def State.fmtWord (s : State) (asid : BitVec 8) (n : BitVec 6) : Word :=
  match s.resolve asid ((s.asRec asid).extractLsb' 192 56).toNat with
  | .ok p => BitVec.ofNat 64 (s.mem.getNat (p.key + 8 * n.toNat) 8)
  | .error _ => 0

/-- A descriptor without its reserved bit, which reads as zero and discards what is written (R8, R91). -/
def unreserved (w : Word) : Word := w &&& 0xBFFFFFFFFFFFFFFF

/-- A descriptor an instruction reads, with the scale format it names; none where it is invalid (R92,
R93). -/
def State.fmtRef (s : State) (asid : BitVec 8) (n : BitVec 6) : Option FmtRef :=
  if descOk (s.fmtWord asid) n then
    let d := Desc.ofWord (s.fmtWord asid n)
    some ⟨d, if d.sckind then some (Desc.ofWord (s.fmtWord asid d.scfd)).fmt else none⟩
  else none

end Sys2Proof.Machine
end

