-- ==== Sys2Proof/Machine/Address.lean ====
section
/-! DEFINITION. Effective addresses and the places of elements and scales (R94, R96, R185 to R188), and the
ranges by which hamper entries are ordered (R126, R296). -/

namespace Sys2Proof

/-- MOD.OS[7] of a memory instruction: a near access (R185, R191). -/
def Fields.near (w : Fields) : Bool := w.os.getLsbD 7

/-- ATOM's and CAS's ORD (R193): acquire. -/
def Fields.aq (w : Fields) : Bool := w.os.getLsbD 4
/-- ATOM's and CAS's ORD (R193): release. -/
def Fields.rl (w : Fields) : Bool := w.os.getLsbD 5

/-- The bytes of a type (R186). -/
def Ty.bytes : Ty → Nat
  | .i8 | .ui8 => 1
  | .i16 | .ui16 | .bf16 | .f16 => 2
  | .i32 | .ui32 | .f32 => 4
  | .i64 | .ui64 => 8
  | _ => 1

/-- Whether a type is signed (R319). -/
def Ty.signed : Ty → Bool
  | .i8 | .i16 | .i32 | .i64 | .i4 => true
  | _ => false

namespace Machine

/-- The element width of LDX, STX and streams in bits (R188, R235). -/
def elemWidth (ty : Ty) (fmt : Option FmtRef) : Nat :=
  match ty with
  | .i4 => 4
  | .nf | .page => match fmt with | some f => f.desc.width | none => 8
  | t => 8 * t.bytes

/-- The block length of a format under NF and PAGE: none for a plain type or BLOCK = 0 (R96). -/
def blockLen (fmt : Option FmtRef) : Option Nat :=
  match fmt with
  | some f => if f.desc.block = 0 then none else some f.desc.block
  | none => none

/-- Where element `e` of an operand lies: its bit from the operand's first byte, and its scale's byte
under a block format (R94, R96, R188). -/
def elemPlace (fmt : Option FmtRef) (w e : Nat) : Nat × Option Nat :=
  match fmt, blockLen fmt with
  | some f, some l =>
    let j := e / l
    if f.desc.side then (e * w, some (f.desc.offset + j))
    else (8 * (j * (1 + l * w / 8) + 1) + w * (e % l), some (j * (1 + l * w / 8)))
  | _, _ => (e * w, none)

/-- Inserts a number into an ascending list without repeats. -/
def insertNat (x : Nat) : List Nat → List Nat
  | [] => [x]
  | y :: ys => if x < y then x :: y :: ys else if x = y then y :: ys else y :: insertNat x ys

/-- The bytes elements take, ascending: their own and their scales'. -/
def elemBytes (w : Nat) (places : List (Nat × Option Nat)) : List Nat :=
  (places.flatMap (fun p =>
    (List.range (max 1 (w / 8))).map (fun i => p.1 / 8 + i) ++ p.2.toList)).foldr insertNat []

/-- Element places as places in the list of their bytes: the bit of each element, and the byte of its
scale. -/
def relPlaces (bytes : List Nat) (places : List (Nat × Option Nat)) : List (Nat × Nat) :=
  places.map (fun p =>
    (8 * bytes.findIdx (· == p.1 / 8) + p.1 % 8,
     match p.2 with | some b => bytes.findIdx (· == b) | none => 0))

/-- Ascending addresses as ranges: first address and length. -/
def rangesOf : List Nat → List (Nat × Nat)
  | [] => []
  | a :: rest =>
    match rangesOf rest with
    | (b, n) :: more => if b = a + 1 then (a, n + 1) :: more else (a, 1) :: (b, n) :: more
    | [] => [(a, 1)]

/-- What an operand's bits hold at a place of a list of bytes (R94). -/
def bitsAt (bytes : List Byte) (bit w : Nat) : Nat :=
  ((bytes.getD (bit / 8) 0).toNat + 256 * (bytes.getD (bit / 8 + 1) 0).toNat) / 2 ^ (bit % 8) % 2 ^ w

/-! ## Addresses of an instruction -/

/-- The effective address of a load, a store or a prefetch (R185). -/
def Entry.ea (e : Entry) (s : State) (c : Fin 11) : Word := e.opA s c + e.opB s c

/-- The bytes an LDX or an STX touches, from its operand base (R188): the base, the first element and the
places. -/
def Entry.elements (e : Entry) (s : State) (c : Fin 11) (fmt : Option FmtRef) (pageSize : Option Nat) :
    Nat × List (Nat × Option Nat) :=
  let w := elemWidth e.w.ty fmt
  match blockLen fmt with
  | none => ((e.ea s c).toNat, (List.range 32).map (fun k => elemPlace fmt w k))
  | some _ =>
    let a := (e.opA s c).toNat
    let base := match pageSize with | some n => a - a % n | none => a
    (base, (List.range 32).map (fun k => elemPlace fmt w ((e.opB s c).toNat + k)))

/-- Whether an address operand still waits for a value. -/
def Entry.addressPending (e : Entry) (x : Ctx) : Bool :=
  let captured := fun (r : RegName) => (e.cap.find? (fun (p : RegName × Vec) => p.1 == r)).isSome
  ((match e.op with | .vcvto => [] | _ => regsAt e.depth e.w.fa 1)
      ++ (match e.op with | .atom | .cas => [] | _ => regsAt e.depth e.w.fb 1)).any
    (fun (r : RegName) => !captured r && x.pending.contains r)

/-- The format of the page at an address, and the page's size, as the tables stand. -/
def State.formatSeen (s : State) (va : Nat) : Option (FmtRef × Nat) :=
  match s.walk s.asid va with
  | .leaf e _ lvl => (s.fmtRef s.asid (entFmt e)).map (fun f => (f, leafSize lvl))
  | _ => none

/-- The format of a PAGE access as the tables stand, with the page's size (R93, R188). -/
def Entry.formatSeen (e : Entry) (s : State) (c : Fin 11) : Option (FmtRef × Nat) :=
  match s.formatSeen (e.opA s c).toNat with
  | some (f, n) => if f.desc.block ≠ 0 then some (f, n) else s.formatSeen (e.ea s c).toNat
  | none => s.formatSeen (e.ea s c).toNat

/-- The bytes of an LDX or an STX under a format. -/
def Entry.elementSpan (e : Entry) (s : State) (c : Fin 11) (fmt : Option FmtRef) (size : Option Nat) :
    List (Nat × Nat) :=
  let p := e.elements s c fmt size
  (rangesOf (elemBytes (elemWidth e.w.ty fmt) p.2)).map (fun r => (p.1 + r.1, r.2))

/-- The ranges of bytes an S-path instruction names, with its space (R296); none where they are not known: an
address is pending, or its page, whose format gives them, is not there.
DEDUCED, log entry 132. -/
def Entry.span (e : Entry) (s : State) (c : Fin 11) : Option (Bool × List (Nat × Nat)) :=
  if e.addressPending (s.ctx c) then none
  else
    match e.op with
    | .ld | .st => some (e.w.near, [((e.ea s c).toNat, e.w.ty.bytes)])
    | .ldv | .stv => some (e.w.near, [((e.ea s c).toNat, 128)])
    | .atom | .cas => some (e.w.near, [((e.opA s c).toNat, e.w.ty.bytes)])
    | .vcvto => some (true, [((e.opB s c).toNat, 64)])
    | .ldx | .stx =>
      if e.w.ty = .page then (e.formatSeen s c).map (fun p => (e.w.near, e.elementSpan s c (some p.1) (some p.2)))
      else some (e.w.near, e.elementSpan s c e.fmt none)
    | _ => none

/-- Whether two known sets of ranges share a byte under one name; unknown ones might (R296). -/
def overlaps (a b : Option (Bool × List (Nat × Nat))) : Bool :=
  match a, b with
  | some (n, as), some (m, bs) =>
    n == m && as.any (fun p => bs.any (fun q => decide (p.1 < q.1 + q.2) && decide (q.1 < p.1 + p.2)))
  | _, _ => true

/-! ## Classes of memory instructions (R296) -/

/-- VCVTO counts as a store (R364). -/
def isStore : Opcode → Bool
  | .st | .stv | .stx | .atom | .cas | .vcvto => true
  | _ => false

def isLoad : Opcode → Bool
  | .ld | .ldv | .ldx | .atom | .cas => true
  | _ => false

/-- Whether an instruction accesses path S by an entry of its own (R296). -/
def onPathS (op : Opcode) : Bool := isStore op || isLoad op

end Machine

end Sys2Proof
end

