-- ==== Sys2Proof/Machine/Issue.lean ====
section
/-! DEFINITION. Issuing an instruction: what makes it wait, defer or fault before it executes (R30, R93,
R125, R126, R142, R226, R237, R238, R248, R290 to R303, R374, R398, R450, R466), what it takes at issue
(R101, R237, R238), and how it retires (R32, R290, R313). -/

namespace Sys2Proof

/-- The S-form parcel of expanded fields, found through the short-opcode table (R46, R49). -/
def Fields.shortParcel (op : Opcode) (w : Fields) : BitVec 32 :=
  match ShortOp.all.find? (fun o => o.entry.op == op && o.entry.ty == w.ty && o.entry.sz == w.sz) with
  | some o =>
    SFields.parcel o ⟨w.hints.tr, w.guard.p,
      if w.fb.isLit then BitVec.ofInt 6 (w.lit.toInt + 48) else w.fb.num, w.fa.num, w.fd.num⟩
  | none => 0

/-- The first parcel of an instruction. -/
def Fields.parcel (op : Opcode) (w : Fields) : BitVec 32 :=
  match w.form with
  | .s => w.shortParcel op
  | _ => (w.raw.word op).extractLsb' 0 32

/-- Bytes an instruction of these fields takes (R23). -/
def Fields.length (w : Fields) : Nat :=
  match w.form with
  | .s => 4 | .m => 8 | .l => 12

namespace Machine

/-- TRAP.INFO of ILLEGAL_INSTR (R52). -/
def illegalInfo (reason : BitVec 8) (parcel : BitVec 32) : Word := (reason ++ parcel).setWidth 64

/-! ## Classes of instructions -/

/-- Instructions that can be deferred (R296, R299): the scalar, memory and vector groups. -/
def deferrable (op : Opcode) : Bool :=
  let n := op.code.toNat
  (0x040 ≤ n && n < 0x108) || (0x1C0 ≤ n && n < 0x2C0)

/-- Cycles after which a result of an instruction that can be deferred is written (R190, R320, R343). -/
def resultCycles (op : Opcode) (w : Fields) : Nat :=
  match op with
  | .mul | .mulh | .mulhu => 3
  | .div | .divu | .rem | .remu => match 8 * w.ty.bytes with | 8 => 12 | 16 => 16 | 32 => 24 | _ => 40
  | .fadd | .fsub | .fmul | .ffma | .fcvt => 4
  | .fdiv | .fsqrt => 12
  | .ld | .ldv | .ldx => 4
  | .vadd | .vsub => if w.ty == .f32 then 4 else 2
  | .vfma | .vfms | .vmul | .vcvt | .vpack | .vunpk | .vdot | .vqnt | .vcvto => 4
  | .vrcp | .vrsq | .vsqrt | .vexp2 | .vlog2 | .vred | .vscan | .vargm => 8
  | .vtanh => 24
  | op => if 0x1C0 ≤ op.code.toNat then 2 else 1

/-- Cycles after which a result written at issue is readable (R190, R320, R343, R468). -/
def readCycles (op : Opcode) (w : Fields) : Nat :=
  if op == .abread then 4 else if deferrable op then resultCycles op w else 1

/-- Instructions of the rank's one divider, which is not pipelined (R320). -/
def divides : Opcode → Bool
  | .div | .divu | .rem | .remu => true
  | _ => false

/-- Instructions that drain (R300). -/
def drains : Opcode → Bool
  | .fence | .lbfence | .isync | .bbind | .acq | .rel | .btry | .exit | .trap | .csrw | .csrs | .csrc
  | .defer | .park | .coll | .bar | .barc => true
  | _ => false

/-- Instructions that ignore their guards (R309). -/
def guardless : Opcode → Bool
  | .nop | .yield => true
  | _ => false

/-- Instructions that take draws under STOCH (R101, R334, R340, R188). -/
def drawing : Opcode → Bool
  | .fadd | .fsub | .fmul | .ffma | .fdiv | .fsqrt | .fcvt | .stx | .vadd | .vsub | .vmul | .vfma | .vfms
  | .vcvt | .vcvto | .vpack | .vdot | .vqnt => true
  | _ => false

/-- Instructions whose rounding mode can be STOCH through DYN alone; which draws they then use is not
specified (R191, R356, R357). -/
def freeDrawing : Opcode → Bool
  | .atom | .vred | .vscan => true
  | _ => false

/-- Whether an instruction that may draw freely rounds: an atomic, or a fold that adds (R191, R356, R357). -/
def foldRounds (op : Opcode) (w : Fields) : Bool := op == .atom || (w.os.extractLsb' 0 2 == 0 && w.ty == .f32)

/-- Whether an instruction names a vector register, so that its entry is a vector entry (R298). -/
def isVector (w : Fields) : Bool := w.fd.cls == .vector || w.fa.cls == .vector || w.fb.cls == .vector

/-- The rounding mode in force (R39, R103). -/
def Ctx.effRm (x : Ctx) (w : Fields) : Rm := if w.rm == .dyn then x.dynRm else w.rm

/-- Whether the guard holds (R30). -/
def Ctx.guardHolds (x : Ctx) (w : Fields) : Bool :=
  (x.read (guardReg w)).getLsbD 0 != w.guard.neg

/-- The generators a STOCH instruction steps: generator 32 for scalar ones, a lane's for each active lane
of a vector one (R101, R334, R342). -/
def drawLanes (x : Ctx) (op : Opcode) (w : Fields) (i : Nat) : Bool :=
  match op with
  | .fadd | .fsub | .fmul | .ffma | .fdiv | .fsqrt | .fcvt => i == 32
  | _ =>
    decide (i < 32)
      && (if maskable op && w.me then (x.read (.m w.mn)).getLsbD i else true)

/-! ## What holds an instruction back -/

/-- Whether an access of a context is held, or it parks on a page (R125, R285). -/
def State.holding (s : State) (c : Fin 11) : Bool :=
  s.flights.any (fun f => f.c == c && (match f.xl with | .held _ _ => true | _ => false))

/-- Whether a context has drained (R300); inside its handler a drain waits for accesses in flight too,
and not for frozen entries (R303).
DEDUCED, log entry 32. -/
def State.drained (s : State) (c : Fin 11) : Bool :=
  if (s.ctx c).inh then s.flights.all (fun f => f.c != c || f.lost)
  else (s.ctx c).hamper.isEmpty && !s.holding c

/-- Whether an S-path access is behind one of its context's that is held (R126): a store behind a held store, or
any access to a 64-byte line of an earlier held one. -/
def State.behindHeldAt (s : State) (c : Fin 11) (seq : Nat) (store : Bool) (span : Option (Bool × List (Nat × Nat))) :
    Bool :=
  s.flights.any (fun f =>
    match f.xl, f.redo with
    | .held _ _, some h =>
      f.c == c && decide (h.seq < seq)
        && ((store && isStore h.op)
          || (match span, h.span s c with
              | some (false, as), some (false, bs) =>
                as.any (fun p => bs.any (fun q =>
                  decide (p.1 / 64 ≤ (q.1 + q.2 - 1) / 64) && decide (q.1 / 64 ≤ (p.1 + p.2 - 1) / 64)))
              | some (true, _), _ => false
              | _, some (true, _) => false
              | _, _ => true))
    | _, _ => false)

/-- As `behindHeldAt`, for an S-path instruction. -/
def State.behindHeld (s : State) (c : Fin 11) (e : Entry) : Bool :=
  onPathS e.op && s.behindHeldAt c e.seq (isStore e.op) (e.span s c)

/-- Whether an access in flight bars later S-path accesses of its context (R193). -/
def State.acquiring (s : State) (c : Fin 11) : Bool := s.flights.any (fun f => f.c == c && f.acquire)

/-- Whether the hamper makes an S-path instruction wait its turn: store order, a load behind a store, and
acquire (R193, R296, R364). -/
def State.ordered (s : State) (c : Fin 11) (e : Entry) : Bool :=
  let h := (s.ctx c).hamper
  (isStore e.op && h.any (fun k => isStore k.op))
    || (isLoad e.op && h.any (fun k => isStore k.op && overlaps (e.span s c) (k.span s c)))
    || (onPathS e.op && h.any (fun k => (k.op == .atom || k.op == .cas) && k.w.aq))

/-! ## Streams at issue (R237, R238) -/

/-- STREAM_UNBOUND's TRAP.INFO (R241). -/
def streamInfo (reason : Nat) (n : BitVec 5) : Word := reasonInfo reason (n.setWidth 64)

/-- A wrong direction, or a group operand that touches a bound register (R238). -/
def State.streamWrong (s : State) (c : Fin 11) (op : Opcode) (src dst : List RegName)
    (bound : List (BitVec 5)) : Option Word :=
  (bound.find? (fun n =>
    match s.stream? c n with
    | some b => groupOp op || (b.out && src.contains (.v n)) || (!b.out && dst.contains (.v n))
    | none => false)).map (streamInfo 4)

/-- Popping or pushing past the pattern (R237, R241). -/
def State.streamPast (s : State) (c : Fin 11) (bound : List (BitVec 5)) : Option Word :=
  (bound.find? (fun n =>
    match s.stream? c n with
    | some b => decide (b.groups ≤ b.claimed)
    | none => false)).map (streamInfo 2)

/-- Whether an out-stream has 4 groups buffered (R238). -/
def State.streamFull (s : State) (c : Fin 11) (bound : List (BitVec 5)) : Bool :=
  bound.any (fun n => match s.stream? c n with | some b => b.out && decide (4 ≤ b.buf.length) | none => false)

/-- Whether every popped group has arrived (R237). -/
def State.arrived (s : State) (c : Fin 11) (claims : List (BitVec 5 × Nat)) : Bool :=
  claims.all (fun cl =>
    match (s.stream? c cl.1).bind (·.group? cl.2) with
    | some g => g.data.isSome
    | none => false)

/-- The bound registers of popped groups that have not arrived, which are pending until they do (R292). -/
def State.unarrived (s : State) (c : Fin 11) (claims : List (BitVec 5 × Nat)) : List RegName :=
  (claims.filter (fun cl => !s.arrived c [cl])).map (fun cl => RegName.v cl.1)

/-- A stream of a context replaced by a function of it. -/
def State.modStream (s : State) (c : Fin 11) (n : BitVec 5) (f : Stream → Stream) : State :=
  { s with graph := { s.graph with streams := s.graph.streams.map (fun b =>
      if b.c == c && b.reg == n then f b else b) } }

/-! ## The descriptor read at issue (R93) -/

/-- Whether an instruction with TY = NF reads MOD's descriptor in issuing; the matrix instructions read
theirs by operand (R370, R371). -/
def readsFormat : Opcode → Bool
  | .mmas | .mmav | .mmar | .mcmd => false
  | _ => true

/-- The descriptor of an NF instruction: none where there is one and it is invalid. -/
def State.issueFormat (s : State) (op : Opcode) (w : Fields) : Option (Option FmtRef) :=
  if w.ty == .nf && readsFormat op then (s.fmtRef s.asid (w.os.extractLsb' 0 6)).map some
  else some none

/-- What an instruction asks of its descriptor at issue: no block scales where elements have no place for
them, scales it can choose where it must choose them (R93, R359, R360, R362, R363, R383, R382). -/
def formatOk (op : Opcode) (fmt : Option FmtRef) : Bool :=
  match fmt with
  | none => true
  | some f =>
    let chosen := (f.desc.block == 16 || f.desc.block == 32) && !f.desc.sckind
    match op with
    | .vcvt | .vcvto | .vpack | .vunpk | .abread => f.desc.block == 0
    | .vqnt => chosen
    | .mtq => chosen && f.desc.side
    | .stx => f.desc.block == 0 || (f.desc.block != 64 && !f.desc.sckind)
    | _ => true

/-! ## The plan -/

/-- What becomes of an instruction at an issue opportunity. -/
inductive Plan where
  /-- It waits at issue. -/
  | wait
  /-- Its guard does not hold, or it is a discarded PREF: only the PC moves. -/
  | skip
  /-- A precise fault. -/
  | fault (cause : BitVec 8) (info : Word)
  /-- It is deferred: the entry, and the state with its draws, claims and push slot taken. -/
  | defer (e : Entry) (s : State)
  /-- It executes. -/
  | run (e : Entry) (s : State)
  deriving DecidableEq, Repr

/-- The address step of the loop's current slot (R314). -/
def Ctx.loopStep (x : Ctx) : Word :=
  if x.loop.active && !x.loop.suspended then
    match x.loop.slots[x.loop.pos]? with
    | some sl => BitVec.ofNat 64 x.loop.iter * sl.sl
    | none => 0
  else 0

/-- The first parcel of the instruction issuing: the loop buffer keeps that of its slot. -/
def Ctx.parcelOf (x : Ctx) (op : Opcode) (w : Fields) : BitVec 32 :=
  if x.loop.active && !x.loop.suspended then
    match x.loop.slots[x.loop.pos]? with
    | some sl => sl.parcel
    | none => w.parcel op
  else w.parcel op

/-- An instruction as it issues, before it takes anything. -/
def Ctx.entry (x : Ctx) (op : Opcode) (w : Fields) (fmt : Option FmtRef) (seq : Nat) : Entry :=
  { op := op, w := w, pc := x.pc, cap := [], draws := [], rm := x.effRm w, sat := x.sat, fmt := fmt,
    claims := [], push := none, pushDraws := [], addrStep := x.loopStep, residual := false,
    depth := x.depth, seq := seq, waits := [], dests := [], parcel := x.parcelOf op w }

/-- The claims of the in-streams among bound registers, and the push slot of an out-stream. -/
def State.claimsOf (s : State) (c : Fin 11) (bound : List (BitVec 5)) :
    List (BitVec 5 × Nat) × Option (BitVec 5 × Nat) :=
  (bound.filterMap (fun n =>
      match s.stream? c n with
      | some b => if b.out then none else some (n, b.claimed)
      | none => none),
   (bound.filterMap (fun n =>
      match s.stream? c n with
      | some b => if b.out then some (n, b.claimed) else none
      | none => none)).head?)

/-- Draws of a push's narrowing: one from each lane's generator whose element lies in the pattern (R238). -/
def State.pushLanes (s : State) (c : Fin 11) (push : Option (BitVec 5 × Nat)) (i : Nat) : Bool :=
  match push with
  | some (n, idx) =>
    match s.stream? c n with
    | some b => b.rm == .stoch && decide (i < 32) && decide (32 * idx + i < streamTotal b.desc)
    | none => false
  | none => false

/-- Free draws, and the generators after them: those of the active lanes for a fold (R342), all for an atomic.
DESIGN CHOICE, log entry 23. -/
def freeDraws (op : Opcode) (active : Nat → Bool) (tick : Nat) (gens : Vector (BitVec 32) 33) :
    List (BitVec 32) × Vector (BitVec 32) 33 :=
  let free := fun (n : Nat) => (Config.freeWord (tick + n)).setWidth 32
  ((List.range 33).map free,
    ((List.range 33).filter (fun i => op == .atom || active i)).foldl (fun g i => setAt g i (free (33 + i))) gens)

/-- What an instruction takes at issue: its draws, its pops and its push slot (R101, R237, R238). -/
def State.take (s : State) (c : Fin 11) (e : Entry) (bound : List (BitVec 5)) : Entry × State :=
  let x := s.ctx c
  let stoch := e.rm == .stoch && drawing e.op
  let free := e.rm == .stoch && freeDrawing e.op && foldRounds e.op e.w
  let (claims, push) := s.claimsOf c bound
  if bound.isEmpty && !stoch && !free then (e, s)
  else
    let (d, g1) :=
      if stoch then takeDraws (drawLanes x e.op e.w) x.gens
      else if free then freeDraws e.op (drawLanes x e.op e.w) s.tick x.gens
      else ([], x.gens)
    let (pd, g2) := if push.isSome then takeDraws (s.pushLanes c push) g1 else ([], g1)
    let s1 := { s with tick := if free then s.tick + 66 else s.tick }.modCtx c (fun x => { x with gens := g2 })
    let s2 := bound.foldl (fun s n => s.modStream c n (fun b =>
      if b.out then
        { b with claimed := b.claimed + 1, buf := b.buf ++ [⟨b.claimed, none, e.pc, pd, b.rm, none, none, [], (s.ctx c).inh⟩] }
      else { b with claimed := b.claimed + 1 })) s1
    ({ e with draws := d, pushDraws := pd, claims := claims, push := push }, s2)

/-- Registers read ready at issue, captured for the hamper (R295). -/
def Ctx.capture (x : Ctx) (rs : List RegName) : List (RegName × Vec) :=
  (rs.eraseDups.filter (fun r => !x.blocked r)).map (fun r => (r, x.read r))

/-- Whether a register is bound to no stream. -/
def unbound (bound : List (BitVec 5)) : RegName → Bool
  | .v n => !bound.contains n
  | _ => true

/-- The registers among some that are bound to no stream and pending (R294). -/
def Ctx.pendingOf (x : Ctx) (bound : List (BitVec 5)) (rs : List RegName) : List RegName :=
  rs.filter (fun r => unbound bound r && x.blocked r)

/-- The vector sources an entry must hold captured: those bound to no stream and ready (R298). -/
def Ctx.capturedVectors (x : Ctx) (bound : List (BitVec 5)) (src : List RegName) : List RegName :=
  src.eraseDups.filter (fun r => match r with | .v n => !bound.contains n && !x.blocked r | _ => false)

/-- Whether a destination is a register some entry still waits to read (R301). -/
def Ctx.awaited (x : Ctx) (dst : List RegName) : Bool := dst.any (fun r => x.hamper.any (·.waits.contains r))

/-- Whether a context may not issue an instruction yet at all: it drains, or an access is held (R32, R125,
R300). -/
def State.barred (s : State) (c : Fin 11) (op : Opcode) (w : Fields) : Bool :=
  ((drains op || (w.hints.db && (s.ctx c).deferMode)) && !s.drained c)
    || (!(s.ctx c).deferMode && s.holding c)

/-- Whether the part of the hamper an entry would enter is full (R298). -/
def Ctx.hamperFull (x : Ctx) (part : Bool) : Bool :=
  decide ((if part then 8 else 32) ≤ (x.hamper.filter (fun h => isVector h.w == part)).length)

/-- An entry made of a deferred instruction: what it has captured, waits for and will write (R295). -/
def Entry.asResidual (e : Entry) (x : Ctx) (bound : List (BitVec 5)) (src dst : List RegName) : Entry :=
  { e with
    residual := true
    cap := x.capture ((src ++ [guardReg e.w]).filter (unbound bound))
    waits := x.pendingOf bound (src ++ [guardReg e.w])
    dests := dst.filter (fun r => unbound bound r && !r.fixed) }

/-- The plan for an instruction whose decode raised no fault (R295 and the rules of the file's head). -/
def State.plan (s : State) (c : Fin 11) (op : Opcode) (w : Fields) : Plan :=
  let x := s.ctx c
  let src := sources x.depth op w
  let dst := dests x.depth op w
  let bound := boundRegs s c (src ++ dst)
  let gp := !guardless op && x.blocked (guardReg w)
  let late := gp || !(x.pendingOf bound (src ++ dst)).isEmpty
  let stoch := x.effRm w == .stoch && (drawing op || (freeDrawing op && foldRounds op w))
  let can := x.deferMode && deferrable op
  if s.barred c op w then .wait
  else if (guardReg w :: (src ++ dst)).any (x.undelivered s.now) && !guardless op then .wait
  else if op == .pref && late then .skip
  else if (stoch || !bound.isEmpty) && (gp || (stoch && maskable op && w.me && x.blocked (.m w.mn))) then .wait
  else if !can && (late || (x.deferMode && x.awaited dst)) then .wait
  else if !gp && !guardless op && !x.guardHolds w then .skip
  else
    match s.streamWrong c op src dst bound with
    | some info => .fault Cause.streamUnbound info
    | none =>
      match s.issueFormat op w with
      | none => .fault Cause.illegal (illegalInfo 0x0C (x.parcelOf op w))
      | some fmt =>
        if !formatOk op fmt then .fault Cause.illegal (illegalInfo 0x0C (x.parcelOf op w))
        else
          match s.streamPast c bound with
          | some info => .fault Cause.streamUnbound info
          | none =>
            let e := x.entry op w fmt s.nextId
            let here := s.arrived c (s.claimsOf c bound).1
            let taken := s.take c e bound
            if s.streamFull c bound then .wait
            else if can && (late || !here || x.awaited dst || s.behindHeld c e || s.ordered c e) then
              if 2 < (x.capturedVectors bound src).length then .wait
              else if x.hamperFull (isVector w) then .fault Cause.hamperFull (if isVector w then 1 else 0)
              else .defer (taken.1.asResidual x bound src dst) taken.2
            else if !can && !here then .wait
            else if divides op && decide (s.now < s.divFree) then .wait
            else .run taken.1 taken.2

/-! ## Retiring -/

/-- The PC and the loop after an instruction (R23, R313). -/
def Ctx.advance (x : Ctx) (w : Fields) : Ctx :=
  if x.loop.active && !x.loop.suspended then
    let pos := x.loop.pos + 1
    if pos < x.loop.slots.length then
      { x with pc := ((x.loop.slots[pos]?).map (·.addr)).getD 0, loop := { x.loop with pos := pos } }
    else if x.loop.iter + 1 < x.loop.count then
      { x with pc := ((x.loop.slots[0]?).map (·.addr)).getD 0,
               loop := { x.loop with pos := 0, iter := x.loop.iter + 1 } }
    else { x with pc := x.loop.exitAddr, loop := LoopState.empty }
  else { x with pc := x.pc + BitVec.ofNat 64 w.length }

/-- The hints after an instruction has issued (R32). -/
def Ctx.hint (x : Ctx) (h : Hints) (now : Nat) : Ctx :=
  if h.stall = 0 && !h.yd then { x with cstate := .ready }
  else { x with cstate := .hinted, stallUntil := now + 1 + h.stall.toNat, yielded := h.yd }

/-- A group written to its push slot (R238). -/
def State.push (s : State) (c : Fin 11) (p : BitVec 5 × Nat) (v : Vec) : State :=
  s.modStream c p.1 (fun b => { b with buf := b.buf.map (fun g =>
    if g.idx == p.2 then { g with data := some v } else g) })

/-- A fault of an access found after issue, as its context will meet it: RESIDUAL_FAULT where it executed
from the hamper (R124, R302). -/
def Entry.late (e : Entry) (cause : BitVec 8) (xlat : Option Word) (inHandler : Bool) : WaitingFault :=
  if e.residual then ⟨Cause.residual, e.pc, xlat, some (cause.setWidth 64, e.pc), inHandler, 0⟩
  else ⟨cause, e.pc, xlat, none, inHandler, 0⟩

/-- Popped groups leave their buffers, and a failure of one is reported (R237). -/
def State.popClaims (s : State) (c : Fin 11) (e : Entry) (inHandler : Bool) : State :=
  e.claims.foldl (fun s cl =>
    let g := (s.stream? c cl.1).bind (·.group? cl.2)
    let s1 := s.modStream c cl.1 (fun b => { b with buf := b.buf.filter (fun g => g.idx != cl.2) })
    match g.bind (·.fault) with
    | some f => s1.lateFault c (e.late f.1 f.2 inHandler)
    | none => s1) s

/-- A result that goes to an out-stream leaves the register results and enters its slot (R238). -/
def State.pushResult (s : State) (c : Fin 11) (e : Entry) (res : List (RegName × Vec)) :
    List (RegName × Vec) × State :=
  match e.push with
  | none => (res, s)
  | some p =>
    match res.find? (fun r => r.1 == .v p.1) with
    | some r => (res.filter (fun r => r.1 != .v p.1), s.push c p r.2)
    | none => (res, s)

/-- Results that are readable only after some cycles (R320, R343, R468). -/
def Ctx.occupy (x : Ctx) (now n : Nat) (res : List (RegName × Vec)) : Ctx :=
  if n ≤ 1 then x
  else { x with busy := x.busy.filter (fun p => decide (now < p.2)) ++ res.map (fun p => (p.1, now + n)) }

/-- The divider taken by a divide (R320). -/
def State.occupyDivider (s : State) (e : Entry) : State :=
  if divides e.op then { s with divFree := s.now + resultCycles e.op e.w } else s

/-- An instruction executed at issue retires: its results, the PC, the loop and its hints. -/
def State.retire (s : State) (c : Fin 11) (e : Entry) (res : List (RegName × Vec)) : State :=
  let s1 := (s.occupyDivider e).popClaims c e (s.ctx c).inh
  let (res', s2) := s1.pushResult c e res
  s2.modCtx c (fun x => (((x.results e.w.hints.tr res').occupy s.now (readCycles e.op e.w) res').advance e.w).hint
    e.w.hints s.now)

/-- As `retire`, with a jump in place of the advance. -/
def State.retireTo (s : State) (c : Fin 11) (e : Entry) (res : List (RegName × Vec)) (t : Word) : State :=
  s.modCtx c (fun x => { (x.results e.w.hints.tr res).hint e.w.hints s.now with pc := t })

/-- An instruction that issues and only moves the PC; its hints act no more than it does (R30, R32).
DESIGN CHOICE, log entry 119. -/
def State.pass (s : State) (c : Fin 11) (w : Fields) : State :=
  s.modCtx c (fun x => { x.advance w with cstate := .ready })

/-- A context that waits at issue. -/
def State.waiting (s : State) (c : Fin 11) : State := s.modCtx c (fun x => { x with cstate := .waiting })

/-- An instruction deferred (R295, R304). -/
def State.enqueue (s : State) (c : Fin 11) (e : Entry) : State :=
  { s with nextId := s.nextId + 1 }.modCtx c (fun x =>
    let y := { x with hamper := x.hamper ++ [e], peak := max x.peak (x.hamper.length + 1) }
    ((y.setPending (e.dests ++ s.unarrived c e.claims)).advance e.w).hint e.w.hints s.now)

/-- What an instruction took at issue given back, where it waits after all: its draws, pops and push slot (R101,
R237, R238). -/
def State.untake (s s0 : State) (c : Fin 11) : State :=
  { s.modCtx c (fun x => { x with gens := (s0.ctx c).gens }) with
    graph := { s.graph with streams := s.graph.streams.map (fun b =>
      match s0.stream? c b.reg with
      | some b0 => if b.c == c then { b with
          claimed := b0.claimed
          buf := b.buf.filter (fun g => !b.out || decide (g.idx < b0.claimed)) } else b
      | none => b) } }

/-- What executing an instruction's body at issue leads to; `s0` is the state before it took anything. -/
def State.finish (s0 : State) (c : Fin 11) (e : Entry) : Act → State
  | .done res s => s.retire c e res
  | .jump res s t => s.retireTo c e res t
  | .trap cause info xlat => s0.takeTrap c cause e.pc info xlat none
  | .trapIn s cause info xlat => s.takeTrap c cause e.pc info xlat none
  | .stay s => (s.untake s0 c).waiting c
  | .whole s => s

/-- A meaning: what executing an instruction comes to, given its context and what it took at issue. -/
abbrev Body := Fin 11 → Entry → State → Act

/-- An instruction issued by a context (R279, R295). A context that runs nothing issues nothing. -/
def State.issueOn (s : State) (c : Fin 11) (op : Opcode) (w : Fields) (body : Body) : State :=
  if !(s.ctx c).live then s
  else
    match s.plan c op w with
    | .wait => s.waiting c
    | .skip => s.pass c w
    | .fault cause info => s.takeTrap c cause (s.ctx c).pc info none none
    | .defer e s1 => s1.enqueue c e
    | .run e s1 => s.finish c e (body c e s1)

/-- An instruction issued by the issuing context: every instruction's meaning is this with its body. -/
def issue (op : Opcode) (w : Fields) (body : Body) (s : State) : Host.Outcome State Fault Refusal :=
  powered s (s.issueOn s.cur op w body)

end Machine

end Sys2Proof
end

