-- ==== Sys2Proof/Machine/Fetch.lean ====
section
/-! DEFINITION. Fetching (R22 to R29, R50 to R52): filling the instruction cache, the fault an encoding
earns, and the word a context meets at its PC, stepped inside a loop (R313, R314). -/

namespace Sys2Proof.Machine

/-- TRAP.INFO of FETCH_FAULT (R52). -/
def fetchInfo (fc : Nat) (va : Nat) : Word := BitVec.ofNat 64 (fc * 2 ^ 60 + va % 2 ^ 57)

/-- The fault a rejected encoding earns, with TRAP.INFO (R50, R52). -/
def rejectFault (p0 : BitVec 32) : Reject → BitVec 8 × Word
  | .illegal reason => (Cause.illegal, illegalInfo reason p0)
  | .reservedOpc short code =>
    (Cause.reservedOpc, (BitVec.ofBool short ++ code ++ p0).setWidth 64)
  | .truncated => (Cause.illegal, illegalInfo 0x01 p0)

/-- What fetching one parcel comes to: its bits, or that it cannot be had, on a handler-only page or not. -/
inductive ParcelEnd where
  | ok (p : BitVec 32) (handlerOnly : Bool)
  | bad (fc : Nat) (handlerOnly : Bool)
  | absent (hold : Hold)
  deriving DecidableEq, Repr

/-- A parcel of a filled line (R28, R50): uncorrectable, or its bits. -/
def ICacheLine.parcel (l : ICacheLine) (va : Nat) : ParcelEnd :=
  if l.poison.contains (va / 4 % 16) then .bad 2 l.handlerOnly
  else .ok (BitVec.ofNat 32 (natOfBytes ((l.bytes.drop (va % 64)).take 4))) l.handlerOnly

/-- The cached line of an address. -/
def ilineFind (asid : BitVec 8) (va : Nat) : List ICacheLine → Option ICacheLine
  | [] => none
  | l :: ls => if l.asid == asid && l.line == va / 64 then some l else ilineFind asid va ls

/-- The line of an address read on path O through its page's leaf, all old or all new (R28, R29). -/
def State.readLine (s : State) (c : Fin 11) (va : Nat) (l : Leaf) : ICacheLine × State :=
  match s.leafKeys s.asid l.ent l.base l.size (va - va % 64) 64 with
  | .error _ => (⟨s.asid, va / 64, entH l.ent, [], []⟩, s)
  | .ok (keys, _, _) =>
    let (bs, s1) := s.readUnit ⟨c.1, .o, false⟩ keys
    (⟨s.asid, va / 64, entH l.ent, bs,
      (List.range 16).filter (fun i => s.poisonedAt ((keys.drop (4 * i)).take 4))⟩, s1)

/-- A parcel fetched for a context (R28, R29, R50): of its line, where that is filled; past the top of the
address space, on a page whose record has come to a failure, not mapped, without X permission, or
uncorrectable. -/
def State.fetchParcel (s : State) (c : Fin 11) (declined : Option (BitVec 45 × BitVec 3 × BitVec 4)) (va : Nat) :
    ParcelEnd × State :=
  if 2 ^ 57 ≤ va then (.bad 3 false, s)
  else
    match ilineFind s.asid va s.ilines with
    | some l => (l.parcel va, s)
    | none =>
      if declined.any (fun d => d.1.toNat == va / 4096) then (.bad 0 false, s)
      else
        match s.translatePage s.asid va 4 .fetch true (BitVec.ofNat 64 va) with
        | (.ok _ _ leaf, s1) =>
          let (l, s2) := s1.readLine c va leaf
          (l.parcel va, { s2 with ilines := l :: s2.ilines })
        | (.absent _ h, s1) => (.absent h, s1)
        | (.fail _ reason _, s1) => (.bad (if reason = 1 then 1 else 0) false, s1)

/-- What a fill comes to: an expanded word with its length, first parcel and first handler-only parcel;
or a page that is not present. -/
inductive FillEnd where
  | ok (word : Expanded) (len : Nat) (parcel : BitVec 32) (handlerOnly : Option Word)
  | absent (va : Nat) (hold : Hold)
  deriving DecidableEq, Repr

/-- The parcels of an instruction, fetched in order: the parcels, or how the first that fails, fails, with the
first handler-only one up to that (R28, R50). -/
def State.fetchMore (s : State) (c : Fin 11) (declined : Option (BitVec 45 × BitVec 3 × BitVec 4)) :
    Nat → Nat → List (BitVec 32) → Option Word →
      (List (BitVec 32) × Option (Nat × ParcelEnd) × Option Word) × State
  | 0, _, ps, h => ((ps, none, h), s)
  | n + 1, va, ps, h =>
    let first := fun (only : Bool) => h <|> (if only then some (BitVec.ofNat 64 va) else none)
    match s.fetchParcel c declined va with
    | (.ok p only, s1) => s1.fetchMore c declined n (va + 4) (ps ++ [p]) (first only)
    | (.bad fc only, s1) => ((ps, some (va, .bad fc only), first only), s1)
    | (e, s1) => ((ps, some (va, e), h), s1)

/-- An instruction expanded from memory at an address (R26, R28, R50, R51).
DEDUCED, log entry 54. -/
def State.fill (s : State) (c : Fin 11) (declined : Option (BitVec 45 × BitVec 3 × BitVec 4)) (va : Nat) :
    FillEnd × State :=
  let first := fun (only : Bool) => if only then some (BitVec.ofNat 64 va) else none
  match s.fetchParcel c declined va with
  | (.bad fc only, s1) => (.ok (.bad Cause.fetchFault (fetchInfo fc va)) 4 0 (first only), s1)
  | (.absent h, s1) => (.absent va h, s1)
  | (.ok p0 only, s1) =>
    let h0 := first only
    let n := parcels p0
    match s1.fetchMore c declined (n - 1) (va + 4) [] h0 with
    | ((_, some (a, .absent h), _), s2) => (.absent a h, s2)
    | ((_, some (a, .bad fc _), h), s2) => (.ok (.bad Cause.fetchFault (fetchInfo fc a)) (4 * n) p0 h, s2)
    | ((_, some (a, .ok _ _), h), s2) => (.ok (.bad Cause.fetchFault (fetchInfo 0 a)) (4 * n) p0 h, s2)
    | ((ps, none, h), s2) =>
      match decodeParcels s.caps p0 (ps.getD 0 0) (ps.getD 1 0) with
      | .ok i => (.ok (.ok i) (4 * n) p0 h, s2)
      | .error r =>
        let f := rejectFault p0 r
        (.ok (.bad f.1 f.2) (4 * n) p0 h, s2)

/-- The cache's entry for an address of an address space. -/
def icacheFind (asid : BitVec 8) (va : Word) : List ICacheEntry → Option ICacheEntry
  | [] => none
  | e :: es => if e.asid == asid && e.addr == va then some e else icacheFind asid va es

/-- An entry put into the cache in place of an older one. -/
def State.icachePut (s : State) (e : ICacheEntry) : State :=
  { s with icache := e :: s.icache.filter (fun k => !(k.asid == e.asid && k.addr == e.addr)) }

/-- The lines that hold bytes of an address space from an address on, evicted with every expanded word that
has a parcel on one of them (R26, R29). -/
def State.evictLines (s : State) (va n : Nat) : State :=
  let meets := fun (a len : Nat) => decide (a / 64 ≤ (va + n - 1) / 64) && decide (va / 64 ≤ (a + len - 1) / 64)
  { s with
    icache := s.icache.filter (fun e => !(e.asid == s.asid && meets e.addr.toNat e.len))
    ilines := s.ilines.filter (fun l => !(l.asid == s.asid && meets (64 * l.line) 64)) }

/-- What a context meets at an address. -/
inductive Fetched where
  | word (e : ICacheEntry) (s : State)
  | parked (s : State)
  deriving DecidableEq, Repr

/-- The failure a context's parked access has come to, by its page. -/
def Ctx.parkFailed (x : Ctx) : Option (BitVec 45 × BitVec 3 × BitVec 4) :=
  x.park.bind (fun k => k.failed.map (fun f => (k.page, f.1, f.2)))

/-- A parked access let go once the bytes at an address are fetched. -/
def State.unpark (s : State) (c : Fin 11) (va : Word) : State :=
  s.modCtx c (fun x => { x with park := x.park.filter (fun k =>
    k.page.toNat != va.toNat / 4096 && k.page.toNat != (va.toNat + 11) / 4096) })

/-- The expanded word at an address: from the cache, else filled (R26 to R29). A page that is not present
parks the context until the host resolves it, and one that the host declines leaves a FETCH_FAULT. -/
def State.lookup (s : State) (c : Fin 11) (va : Word) : Fetched :=
  match icacheFind s.asid va s.icache with
  | some e => .word e s
  | none =>
    match (s.ctx c).park with
    | some ⟨_, _, none⟩ => .parked (s.modCtx c (fun x => { x with cstate := .waiting }))
    | _ =>
      match s.fill c (s.ctx c).parkFailed va.toNat with
      | (.ok w len p h, s1) =>
        let e : ICacheEntry := ⟨s.asid, va, len, w, h, p⟩
        .word e ((s1.icachePut e).unpark c va)
      | (.absent a h, s1) =>
        let (token, s2) := s1.holdPage s.asid a h .fetch va (.park c)
        .parked (s2.modCtx c (fun x => { x with
          cstate := .waiting
          park := some ⟨token, BitVec.ofNat 45 (a / 4096), none⟩ }))

/-- A number stepped by a LINC (R314): none where it leaves the range its class accepts. -/
def stepOpd (slot : Slot) (isFd : Bool) (o : Opd) (step : Int) (iter : Nat) : Option Opd :=
  if step = 0 || iter = 0 then some o
  else
    let n := (o.num.toNat : Int) + step * (iter : Int)
    let top : Int := match o.cls with | .special => 64 | .pred => 16 | _ => 32
    if n < 0 || top ≤ n then none
    else
      let o' : Opd := ⟨o.cls, BitVec.ofInt 6 n⟩
      if (slotReasons slot isFd o'.code).isEmpty then some o' else none

/-- A body instruction as iteration `iter` runs it (R314): an out-of-range number is reason 0x03. -/
def LoopSlot.stepped (sl : LoopSlot) (caps : Caps) (iter : Nat) : Expanded :=
  match sl.word with
  | .bad cause info => .bad cause info
  | .ok i =>
    if (sl.sd = 0 && sl.sa = 0 && sl.sb = 0) || iter = 0 then .ok i
    else
      let go := fun (op : Opcode) (w : Fields) =>
        let sh := shape caps op w.raw
        match stepOpd sh.fd true w.fd sl.sd iter, stepOpd sh.fa false w.fa sl.sa iter,
            stepOpd sh.fb false w.fb sl.sb iter with
        | some d, some a, some b => Expanded.ok (Instr.ofOp op { w with fd := d, fa := a, fb := b })
        | _, _, _ => .bad Cause.illegal (illegalInfo 0x03 sl.parcel)
      match i.view with
      | .op op w => go op w
      | .short o f => go o.entry.op (f.expand o)
      | .event => .ok i

/-- The word a context issues next: of the loop buffer inside a loop, else at its PC (R26, R313). -/
def State.fetch (s : State) (c : Fin 11) : Fetched :=
  let x := s.ctx c
  if x.loop.active && !x.loop.suspended then
    match x.loop.slots[x.loop.pos]? with
    | some sl => .word ⟨s.asid, sl.addr, sl.len, sl.stepped s.caps x.loop.iter, none, sl.parcel⟩ s
    | none => s.lookup c x.pc
  else s.lookup c x.pc

/-- The instruction a context runs, or the precise fault its word raises there (R28, R50). -/
def ICacheEntry.meets (e : ICacheEntry) (inh : Bool) : Expanded :=
  match e.handlerOnly with
  | some a => if inh then e.word else .bad Cause.fetchFault (fetchInfo 1 a.toNat)
  | none => e.word

end Sys2Proof.Machine
end

