-- ==== Sys2Proof/Machine/Scalar.lean ====
section
/-! DEFINITION. The scalar integer and predicate instructions (R319 to R333). -/

namespace Sys2Proof.Machine

/-- The width of an integer type (R319). -/
def intWidth (ty : Ty) : Nat := 8 * ty.bytes

/-- A result reduced to its type's width and extended by its sign (R319). -/
def intExtend (ty : Ty) (r : Int) : Word :=
  if ty.signed then BitVec.ofInt 64 (signedOf (intWidth ty) (wrapTo (intWidth ty) r))
  else BitVec.ofNat 64 (wrapTo (intWidth ty) r)

/-- The general procedure of R319: `f` has the width and the operands, reduced to it. -/
def intOp (f : Nat → Nat → Nat → Int) : Body := fun c e s =>
  let w := intWidth e.w.ty
  .done (e.toFd (intExtend e.w.ty (f w ((e.opA s c).toNat % 2 ^ w) ((e.opB s c).toNat % 2 ^ w)))) s

/-- As `intOp`, with operand B as an unsigned 64-bit number (R324, R326). -/
def intOpWide (f : Ty → Nat → Nat → Int) : Body := fun c e s =>
  let w := intWidth e.w.ty
  .done (e.toFd (intExtend e.w.ty (f e.w.ty ((e.opA s c).toNat % 2 ^ w) (e.opB s c).toNat))) s

/-! ## Arithmetic and logic (R322, R323) -/

def bodyAdd : Body := intOp fun _ a b => (a : Int) + b
def bodySub : Body := intOp fun _ a b => (a : Int) - b
def bodyMul : Body := intOp fun _ a b => (a : Int) * b
def bodyMulh : Body := intOp fun w a b => (signedOf w a * signedOf w b) / (2 ^ w : Nat)
def bodyMulhu : Body := intOp fun w a b => ((a * b / 2 ^ w : Nat) : Int)
/-- Truncating division; a zero divisor gives −1 (R323). -/
def bodyDiv : Body := intOp fun w a b => if b = 0 then -1 else (signedOf w a).tdiv (signedOf w b)
def bodyDivu : Body := intOp fun w a b => if b = 0 then (2 ^ w - 1 : Nat) else ((a / b : Nat) : Int)
/-- The remainder takes the sign of the dividend; a zero divisor gives the dividend (R323). -/
def bodyRem : Body := intOp fun w a b => if b = 0 then signedOf w a else (signedOf w a).tmod (signedOf w b)
def bodyRemu : Body := intOp fun _ a b => if b = 0 then (a : Int) else ((a % b : Nat) : Int)
def bodyAnd : Body := intOp fun _ a b => ((a &&& b : Nat) : Int)
def bodyOr : Body := intOp fun _ a b => ((a ||| b : Nat) : Int)
def bodyXor : Body := intOp fun _ a b => ((a ^^^ b : Nat) : Int)
def bodyAndn : Body := intOp fun w a b => ((a &&& (2 ^ w - 1 - b) : Nat) : Int)
def bodyMin : Body := intOp fun w a b => if signedOf w a ≤ signedOf w b then signedOf w a else signedOf w b
def bodyMax : Body := intOp fun w a b => if signedOf w b ≤ signedOf w a then signedOf w a else signedOf w b
def bodyMinu : Body := intOp fun _ a b => if a ≤ b then (a : Int) else b
def bodyMaxu : Body := intOp fun _ a b => if b ≤ a then (a : Int) else b

/-! ## Shifts (R324) -/

def bodyShl : Body := intOpWide fun ty a n => if n < intWidth ty then ((a * 2 ^ n : Nat) : Int) else 0
def bodyShr : Body := intOpWide fun ty a n => if n < intWidth ty then ((a / 2 ^ n : Nat) : Int) else 0
def bodySar : Body := intOpWide fun ty a n =>
  let sa := signedOf (intWidth ty) a
  if n < intWidth ty then sa / (2 ^ n : Nat) else if sa < 0 then -1 else 0
def bodyRot : Body := intOpWide fun ty a n =>
  let w := intWidth ty
  ((a * 2 ^ (n % w) % 2 ^ w + a / 2 ^ (w - n % w) : Nat) : Int)

/-! ## Counting and fields (R325, R326) -/

/-- The zeros above the highest set bit of the low `w` bits. -/
def leadingZeros : Nat → Nat → Nat
  | 0, _ => 0
  | w + 1, a => if a.testBit w then 0 else 1 + leadingZeros w a

/-- The zeros below the lowest set bit of the low `w` bits. -/
def trailingZeros : Nat → Nat → Nat
  | 0, _ => 0
  | w + 1, a => if a.testBit 0 then 0 else 1 + trailingZeros w (a / 2)

def bodyClz : Body := intOp fun w a _ => (leadingZeros w a : Int)
def bodyCtz : Body := intOp fun w a _ => (trailingZeros w a : Int)
def bodyPopc : Body := intOp fun w a _ => (popcountNat w a : Int)

/-- The position and the length as formed of the field operand B names (R326). -/
def fieldOf (w b : Nat) : Nat × Nat :=
  let pos := b % 256
  (pos, min (pos + b / 256 % 256) w - pos)

def bodyBext : Body := intOpWide fun ty a b =>
  let (pos, n) := fieldOf (intWidth ty) b
  let r := a / 2 ^ pos % 2 ^ n
  if ty.signed then signedOf n r else (r : Int)

def bodyBins : Body := fun c e s =>
  let w := intWidth e.w.ty
  let d := (e.opD s c).toNat % 2 ^ w
  let a := (e.opA s c).toNat % 2 ^ w
  let (pos, n) := fieldOf w (e.opB s c).toNat
  let r := d - d / 2 ^ pos % 2 ^ n * 2 ^ pos + a % 2 ^ n * 2 ^ pos
  .done (e.toFd (intExtend e.w.ty (r : Int))) s

/-! ## Extension, moves, selection, addresses (R327 to R330) -/

def sizeBits (sz : BitVec 3) : Nat :=
  match sz.toNat with
  | 0 => 8 | 1 => 16 | _ => 32

def bodySext : Body := fun c e s =>
  .done (e.toFd (BitVec.ofInt 64 (signedOf (sizeBits e.w.sz) (e.opA s c).toNat))) s
def bodyZext : Body := fun c e s =>
  .done (e.toFd (BitVec.ofNat 64 ((e.opA s c).toNat % 2 ^ sizeBits e.w.sz))) s
def bodyMov : Body := intOp fun _ a _ => (a : Int)
def bodyMovl : Body := fun c e s =>
  .done (e.toFd (if e.w.os.getLsbD 0 then e.w.lit ++ (e.opD s c).setWidth 32 else e.w.lit.setWidth 64)) s
def bodySel : Body := fun c e s =>
  .done (e.toFd (if (e.reg s c (.p (e.w.os.extractLsb' 0 3))).getLsbD 0 then e.opA s c else e.opB s c)) s

/-- Bytes(SZ) of R330 and R40. -/
def sizeBytes (sz : BitVec 3) : Nat :=
  match sz.toNat with
  | 0 => 1 | 1 => 2 | 2 => 4 | 3 => 8 | 4 => 64 | 5 => 128 | _ => 1024

def bodyAddr : Body := fun c e s =>
  .done (e.toFd (e.opA s c + e.opB s c * BitVec.ofNat 64 (sizeBytes e.w.sz))) s

/-! ## Comparisons and predicates (R331 to R333) -/

def bodyCmp : Body := fun c e s =>
  let w := intWidth e.w.ty
  let cond := intCond e.w.sz.toNat w ((e.opA s c).toNat % 2 ^ w) ((e.opB s c).toNat % 2 ^ w)
  .done (e.truth (combine (e.w.os.extractLsb' 0 2).toNat cond (e.oldTruth s c))) s

def bodyPset : Body := fun c e s =>
  let b := e.opB s c
  .done (match e.fdReg with
    | .m n => [(.m n, (b.setWidth 32).setWidth 1024)]
    | r => [(r, if b != 0 then 1 else 0)]) s

/-- PMOV's 32-bit result (R333). -/
def pmovOp (op : Nat) (a b : Mask) : Mask :=
  match op with
  | 0 => a
  | 1 => ~~~a
  | 2 => a &&& b
  | 3 => a ||| b
  | 4 => a ^^^ b
  | _ => a &&& ~~~b

def bodyPmov : Body := fun c e s =>
  let x := pmovOp (e.w.os.extractLsb' 0 3).toNat (e.mask32 s c e.w.fa) (e.mask32 s c e.w.fb)
  .done (match e.fdReg with
    | .p n => [(.p n, if x != 0 then 1 else 0)]
    | r => [(r, x.setWidth 1024)]) s

/-! ## The meanings -/

/-- ADD (R322). -/
def execAdd (w : Fields) (s : State) : Host.Outcome State Fault Refusal :=
  issue .add w bodyAdd s

/-- SUB (R322). -/
def execSub (w : Fields) (s : State) : Host.Outcome State Fault Refusal :=
  issue .sub w bodySub s

/-- MUL (R322). -/
def execMul (w : Fields) (s : State) : Host.Outcome State Fault Refusal :=
  issue .mul w bodyMul s

/-- MULH (R322). -/
def execMulh (w : Fields) (s : State) : Host.Outcome State Fault Refusal :=
  issue .mulh w bodyMulh s

/-- MULHU (R322). -/
def execMulhu (w : Fields) (s : State) : Host.Outcome State Fault Refusal :=
  issue .mulhu w bodyMulhu s

/-- DIV (R323). -/
def execDiv (w : Fields) (s : State) : Host.Outcome State Fault Refusal :=
  issue .div w bodyDiv s

/-- DIVU (R323). -/
def execDivu (w : Fields) (s : State) : Host.Outcome State Fault Refusal :=
  issue .divu w bodyDivu s

/-- REM (R323). -/
def execRem (w : Fields) (s : State) : Host.Outcome State Fault Refusal :=
  issue .rem w bodyRem s

/-- REMU (R323). -/
def execRemu (w : Fields) (s : State) : Host.Outcome State Fault Refusal :=
  issue .remu w bodyRemu s

/-- AND (R322). -/
def execAnd (w : Fields) (s : State) : Host.Outcome State Fault Refusal :=
  issue .and w bodyAnd s

/-- OR (R322). -/
def execOr (w : Fields) (s : State) : Host.Outcome State Fault Refusal :=
  issue .or w bodyOr s

/-- XOR (R322). -/
def execXor (w : Fields) (s : State) : Host.Outcome State Fault Refusal :=
  issue .xor w bodyXor s

/-- ANDN (R322). -/
def execAndn (w : Fields) (s : State) : Host.Outcome State Fault Refusal :=
  issue .andn w bodyAndn s

/-- SHL (R324). -/
def execShl (w : Fields) (s : State) : Host.Outcome State Fault Refusal :=
  issue .shl w bodyShl s

/-- SHR (R324). -/
def execShr (w : Fields) (s : State) : Host.Outcome State Fault Refusal :=
  issue .shr w bodyShr s

/-- SAR (R324). -/
def execSar (w : Fields) (s : State) : Host.Outcome State Fault Refusal :=
  issue .sar w bodySar s

/-- ROT (R324). -/
def execRot (w : Fields) (s : State) : Host.Outcome State Fault Refusal :=
  issue .rot w bodyRot s

/-- MIN (R322). -/
def execMin (w : Fields) (s : State) : Host.Outcome State Fault Refusal :=
  issue .min w bodyMin s

/-- MAX (R322). -/
def execMax (w : Fields) (s : State) : Host.Outcome State Fault Refusal :=
  issue .max w bodyMax s

/-- MINU (R322). -/
def execMinu (w : Fields) (s : State) : Host.Outcome State Fault Refusal :=
  issue .minu w bodyMinu s

/-- MAXU (R322). -/
def execMaxu (w : Fields) (s : State) : Host.Outcome State Fault Refusal :=
  issue .maxu w bodyMaxu s

/-- CLZ (R325). -/
def execClz (w : Fields) (s : State) : Host.Outcome State Fault Refusal :=
  issue .clz w bodyClz s

/-- CTZ (R325). -/
def execCtz (w : Fields) (s : State) : Host.Outcome State Fault Refusal :=
  issue .ctz w bodyCtz s

/-- POPC (R325). -/
def execPopc (w : Fields) (s : State) : Host.Outcome State Fault Refusal :=
  issue .popc w bodyPopc s

/-- BEXT (R326). -/
def execBext (w : Fields) (s : State) : Host.Outcome State Fault Refusal :=
  issue .bext w bodyBext s

/-- BINS (R326). -/
def execBins (w : Fields) (s : State) : Host.Outcome State Fault Refusal :=
  issue .bins w bodyBins s

/-- SEXT (R327). -/
def execSext (w : Fields) (s : State) : Host.Outcome State Fault Refusal :=
  issue .sext w bodySext s

/-- ZEXT (R327). -/
def execZext (w : Fields) (s : State) : Host.Outcome State Fault Refusal :=
  issue .zext w bodyZext s

/-- MOV (R328). -/
def execMov (w : Fields) (s : State) : Host.Outcome State Fault Refusal :=
  issue .mov w bodyMov s

/-- MOVL (R328). -/
def execMovl (w : Fields) (s : State) : Host.Outcome State Fault Refusal :=
  issue .movl w bodyMovl s

/-- SEL (R329). -/
def execSel (w : Fields) (s : State) : Host.Outcome State Fault Refusal :=
  issue .sel w bodySel s

/-- CMP (R331). -/
def execCmp (w : Fields) (s : State) : Host.Outcome State Fault Refusal :=
  issue .cmp w bodyCmp s

/-- PSET (R332). -/
def execPset (w : Fields) (s : State) : Host.Outcome State Fault Refusal :=
  issue .pset w bodyPset s

/-- PMOV (R333). -/
def execPmov (w : Fields) (s : State) : Host.Outcome State Fault Refusal :=
  issue .pmov w bodyPmov s

/-- ADDR (R330). -/
def execAddr (w : Fields) (s : State) : Host.Outcome State Fault Refusal :=
  issue .addr w bodyAddr s

end Sys2Proof.Machine
end

