-- ==== Sys2Proof/Machine/FloatOps.lean ====
section
/-! DEFINITION. The scalar floating-point instructions (R334 to R339). -/

namespace Sys2Proof.Machine

/-- FP32, BF16 or FP16 under a policy (R89, R98). -/
def floatFmt (ty : Ty) (sat : Bool) : Fmt :=
  match ty with
  | .bf16 => fmtBF16 sat
  | .f16 => fmtF16 sat
  | _ => fmtF32 sat

/-- One result element rounded, with NAN_MADE where no operand is a NaN (R90, R98, R106). -/
def roundMade (f : Fmt) (rm : Rm) (draw : BitVec 32) (args : List Num) (x : Num) : Nat × Ev :=
  let (code, ev) := roundTo f rm draw x
  (code, if x.isNan && args.all (fun a => !a.isNan) then ev.add { nanMade := 1 } else ev)

/-- The draw an element takes from a generator, among those taken at issue (R101). -/
def Entry.draw (e : Entry) (gen : Nat) : BitVec 32 := e.draws.getD gen 0

/-- The format of a scalar floating-point instruction. -/
def Entry.ffmt (e : Entry) : Fmt := floatFmt e.w.ty e.sat

/-- A scalar operand as a floating value: its low bits (R334). -/
def Entry.num (e : Entry) (v : Word) : Num := e.ffmt.decode (v.toNat % 2 ^ e.ffmt.bits)

/-- The general shape of R335: an exact result of the operands and the addend, rounded once. -/
def floatOp (args : Num → Num → Num → List Num) (x : Rm → Num → Num → Num → Num) : Body := fun c e s =>
  let a := e.num (e.opA s c)
  let b := e.num (e.opB s c)
  let d := e.num (e.opD s c)
  let (code, ev) := roundMade e.ffmt e.rm (e.draw 32) (args a b d) (x e.rm a b d)
  .done (e.toFd (BitVec.ofNat 64 code)) (s.count ev)

def bodyFadd : Body := floatOp (fun a b _ => [a, b]) (fun rm a b _ => addNum rm a b)
def bodyFsub : Body := floatOp (fun a b _ => [a, b]) (fun rm a b _ => addNum rm a b.flip)
def bodyFmul : Body := floatOp (fun a b _ => [a, b]) (fun _ a b _ => mulNum a b)
def bodyFfma : Body := floatOp (fun a b d => [a, b, d]) (fun rm a b d => addNum rm (mulNum a b) d)
def bodyFdiv : Body := floatOp (fun a b _ => [a, b]) (fun _ a b _ => divNum a b)
def bodyFsqrt : Body := floatOp (fun a _ _ => [a]) (fun _ a _ _ => sqrtNum a)

/-- FMIN and FMAX (R336). -/
def floatPick (max : Bool) : Body := fun c e s =>
  .done (e.toFd (BitVec.ofNat 64
    (minMaxCode e.ffmt max ((e.opA s c).toNat % 2 ^ e.ffmt.bits) ((e.opB s c).toNat % 2 ^ e.ffmt.bits)))) s

def bodyFmin : Body := floatPick false
def bodyFmax : Body := floatPick true

/-- FABS and FNEG on codes: the sign bit cleared or flipped; a NaN gives the canonical NaN (R336). -/
def signCode (f : Fmt) (neg : Bool → Bool) (code : Nat) : Nat :=
  if (f.decode code).isNan then f.nanCode
  else f.withSign (neg (code.testBit (f.bits - 1))) (code % 2 ^ (f.bits - 1))

def floatSign (neg : Bool → Bool) : Body := fun c e s =>
  .done (e.toFd (BitVec.ofNat 64 (signCode e.ffmt neg ((e.opA s c).toNat % 2 ^ e.ffmt.bits)))) s

def bodyFabs : Body := floatSign fun _ => false
def bodyFneg : Body := floatSign fun n => !n

def bodyFcmp : Body := fun c e s =>
  let cond := floatCond e.w.sz.toNat (e.num (e.opA s c)) (e.num (e.opB s c))
  .done (e.truth (combine (e.w.os.extractLsb' 0 2).toNat cond (e.oldTruth s c))) s

/-- Whether a type is FP32, BF16 or FP16. -/
def isFloatTy : Ty → Bool
  | .f32 | .bf16 | .f16 => true
  | _ => false

/-- The source of a conversion as an exact value (R338). -/
def sourceNum (src : Ty) (sat : Bool) (a : Word) : Num :=
  if isFloatTy src then
    let f := floatFmt src sat
    f.decode (a.toNat % 2 ^ f.bits)
  else if src.signed then Num.ofInt (signedOf (intWidth src) a.toNat)
  else Num.ofInt (a.toNat % 2 ^ intWidth src : Nat)

def bodyFcvt : Body := fun c e s =>
  let src := (Ty.ofCode (e.w.os.extractLsb' 0 4)).getD .f32
  let x := sourceNum src e.sat (e.opA s c)
  if isFloatTy e.w.ty then
    let (code, ev) := roundTo e.ffmt e.rm (e.draw 32) x
    .done (e.toFd (BitVec.ofNat 64 code)) (s.count ev)
  else
    let (r, ev) := toIntType e.w.ty.signed (intWidth e.w.ty) e.rm (e.draw 32) x
    .done (e.toFd (intExtend e.w.ty r)) (s.count ev)

def bodyFclass : Body := fun c e s =>
  .done (e.toFd (BitVec.ofNat 64 (2 ^ classBit e.ffmt ((e.opA s c).toNat % 2 ^ e.ffmt.bits)))) s

/-! ## The meanings -/

/-- FADD (R335). -/
def execFadd (w : Fields) (s : State) : Host.Outcome State Fault Refusal :=
  issue .fadd w bodyFadd s

/-- FSUB (R335). -/
def execFsub (w : Fields) (s : State) : Host.Outcome State Fault Refusal :=
  issue .fsub w bodyFsub s

/-- FMUL (R335). -/
def execFmul (w : Fields) (s : State) : Host.Outcome State Fault Refusal :=
  issue .fmul w bodyFmul s

/-- FFMA (R335). -/
def execFfma (w : Fields) (s : State) : Host.Outcome State Fault Refusal :=
  issue .ffma w bodyFfma s

/-- FDIV (R335). -/
def execFdiv (w : Fields) (s : State) : Host.Outcome State Fault Refusal :=
  issue .fdiv w bodyFdiv s

/-- FSQRT (R335). -/
def execFsqrt (w : Fields) (s : State) : Host.Outcome State Fault Refusal :=
  issue .fsqrt w bodyFsqrt s

/-- FMIN (R336). -/
def execFmin (w : Fields) (s : State) : Host.Outcome State Fault Refusal :=
  issue .fmin w bodyFmin s

/-- FMAX (R336). -/
def execFmax (w : Fields) (s : State) : Host.Outcome State Fault Refusal :=
  issue .fmax w bodyFmax s

/-- FABS (R336). -/
def execFabs (w : Fields) (s : State) : Host.Outcome State Fault Refusal :=
  issue .fabs w bodyFabs s

/-- FNEG (R336). -/
def execFneg (w : Fields) (s : State) : Host.Outcome State Fault Refusal :=
  issue .fneg w bodyFneg s

/-- FCMP (R337). -/
def execFcmp (w : Fields) (s : State) : Host.Outcome State Fault Refusal :=
  issue .fcmp w bodyFcmp s

/-- FCVT (R338). -/
def execFcvt (w : Fields) (s : State) : Host.Outcome State Fault Refusal :=
  issue .fcvt w bodyFcvt s

/-- FCLASS (R339). -/
def execFclass (w : Fields) (s : State) : Host.Outcome State Fault Refusal :=
  issue .fclass w bodyFclass s

end Sys2Proof.Machine
end

