-- ==== Sys2Proof/Machine/Control.lean ====
section
/-! DEFINITION. Branches, jumps, calls, returns, the tests of pending bits, loops and the mode instructions
(R306 to R314, R318, R284 to R286). -/

namespace Sys2Proof.Machine

/-- NOP does nothing; YIELD gives up the slot through its hints (R309). -/
def bodyNop : Body := fun _ _ s => .done [] s

/-- A jump to a target, or MISALIGNED with it (R22, R306). -/
def jumpTo (t : Word) (s : State) : Act :=
  if t.toNat % 4 != 0 then .trap Cause.misaligned t none else .jump [] s t

def bodyBr : Body := fun c e s => jumpTo (e.pc + e.opB s c) s
def bodyJmp : Body := fun c e s => jumpTo (e.scalarZ s c e.w.fb) s

/-! ## Spill and fill (R284, R285) -/

/-- What a 128-byte transfer of a spill or a fill finds at a global address. -/
inductive PageEnd where
  | keys (ks : List Nat) (leaf : Leaf) (s : State)
  | wait (s : State)
  | fault (s : State) (cause : BitVec 8) (info : Word) (xlat : Option Word)
  deriving DecidableEq, Repr

/-- A translation that parks its context on a page that is not present (R285): declined, it faults
PAGE_NOT_PRESENT. -/
def State.parkOn (s : State) (c : Fin 11) (pc : Word) (va : Word) (n : Nat) (k : AccessKind) : PageEnd :=
  match (s.ctx c).park with
  | some p =>
    match p.failed with
    | some (f, r) => .fault s (xlatCause f) pc (some (xlatWord f r va))
    | none => .wait s
  | none =>
    match s.translate s.asid va n k (s.ctx c).inh pc with
    | (.ok ks _ leaf, s1) => .keys ks leaf s1
    | (.absent a h, s1) =>
      let (token, s2) := s1.holdPage s.asid a h k pc (.park c)
      .wait (s2.modCtx c (fun x => { x with park := some ⟨token, BitVec.ofNat 45 (a / 4096), none⟩ }))
    | (.fail f r a, s1) => .fault s1 (xlatCause f) pc (some (xlatWord f r (BitVec.ofNat 64 a)))

/-- The 128 bytes of a frame (R284). -/
def frameBytes (f : Vector Word 16) : List Byte := f.toList.flatMap (fun w => bytesOfNat 8 w.toNat)

/-- A frame from its bytes. -/
def frameOf (bs : List Byte) : Vector Word 16 :=
  (List.range 16).foldl (fun v k =>
    setAt v k (BitVec.ofNat 64 (natOfBytes ((bs.drop (8 * k)).take 8)))) (Vector.replicate 16 0)

/-- What a spill or a fill comes to. -/
inductive FrameEnd where
  | ok (s : State)
  | wait (s : State)
  | fault (s : State) (cause : BitVec 8) (info : Word) (xlat : Option Word)
  deriving DecidableEq, Repr

/-- A near address of the carve-out as keys (R284). -/
def State.carveKeys (s : State) (slot : Nat) : List Nat :=
  keysFrom (siteKey s.party.site (spadOff + 128 * slot)) 128

/-- Whether a spill or a fill, an access on path S that is performed as its instruction issues, waits (R126, R193, R207,
R296): behind the accesses of its context in flight or held, and behind those of the hamper that it would have to be
deferred behind; frozen ones do not count (R303). -/
def State.frameWaits (s : State) (c : Fin 11) (store : Bool) (near : Bool) (a : Nat) : Bool :=
  let span := some (near, [(a, 128)])
  s.acquiring c || s.flights.any (fun f => f.c == c && f.before) || s.behindHeldAt c s.nextId store span
    || (!(s.ctx c).inh && (s.ctx c).hamper.any (fun k =>
      (isStore k.op && (store || overlaps span (k.span s c))) || ((k.op == .atom || k.op == .cas) && k.w.aq)))

/-- SpillOldest (R284): it waits while a register of the frame is pending (R286). -/
def State.spillOldest (s : State) (c : Fin 11) (pc : Word) : FrameEnd :=
  let x := s.ctx c
  match x.frames with
  | [] => .ok s
  | f :: rest =>
    if (List.range 16).any (fun k => x.isPending (.w (16 * x.oldestDepth + k))) then .wait s
    else if x.carve.sused < x.carve.ssize then
      if s.frameWaits c true true (128 * (x.carve.sbase + x.carve.sused)) then .wait s
      else
      let s1 := s.writeKeys ⟨c.1, .s, true⟩ (s.carveKeys (x.carve.sbase + x.carve.sused)) (frameBytes f)
      .ok (s1.modCtx c (fun x => { x with frames := rest,
                                          carve := { x.carve with sused := x.carve.sused + 1 } }))
    else if x.carve.oused < (x.ovfl.extractLsb' 52 12).toNat then
      let va := BitVec.ofNat 64 (128 * ((x.ovfl.extractLsb' 0 50).toNat + x.carve.oused))
      if s.frameWaits c true false va.toNat then .wait s
      else
      match s.parkOn c pc va 128 .write with
      | .wait s1 => .wait s1
      | .fault s1 cause info xlat => .fault s1 cause info xlat
      | .keys ks _ s1 =>
        let s2 := s1.writeKeys ⟨c.1, .s, false⟩ ks (frameBytes f)
        .ok (s2.modCtx c (fun x => { x with frames := rest, 
                                            carve := { x.carve with oused := x.carve.oused + 1 } }))
    else .fault s Cause.windowExhausted (reasonInfo 2 0) none

/-- FillTop (R284): the frame returned to, from the overflow area or the slice. -/
def State.fillTop (s : State) (c : Fin 11) (pc : Word) : FrameEnd :=
  let x := s.ctx c
  if 0 < x.carve.oused then
    let va := BitVec.ofNat 64 (128 * ((x.ovfl.extractLsb' 0 50).toNat + (x.carve.oused - 1)))
    if s.frameWaits c false false va.toNat then .wait s
    else
    match s.parkOn c pc va 128 .read with
    | .wait s1 => .wait s1
    | .fault s1 cause info xlat => .fault s1 cause info xlat
    | .keys ks _ s1 =>
      if s1.poisonedAt ks then .fault s1 Cause.poisoned pc none
      else
        let (bs, s2) := s1.readKeys ⟨c.1, .s, false⟩ ks
        .ok (s2.modCtx c (fun x => { x with frames := [frameOf bs],
                                            carve := { x.carve with oused := x.carve.oused - 1 } }))
  else
    let ks := s.carveKeys (x.carve.sbase + (x.carve.sused - 1))
    if s.frameWaits c false true (128 * (x.carve.sbase + (x.carve.sused - 1))) then .wait s
    else if s.poisonedAt ks then .fault s Cause.poisoned pc none
    else
      let (bs, s2) := s.readKeys ⟨c.1, .s, true⟩ ks
      .ok (s2.modCtx c (fun x => { x with frames := [frameOf bs],
                                          carve := { x.carve with sused := x.carve.sused - 1 } }))

/-- `n` free words from a count on: what a frame holds that nothing has written (R282, R284). -/
def freeWords (tick n : Nat) : List Word := (List.range n).map (fun i => Config.freeWord (tick + i))

/-- The frame a call makes current, and the eight registers beyond it (R282, R284). -/
def Ctx.enter (x : Ctx) (tick : Nat) : Ctx :=
  { x with
    depth := x.depth + 1
    frames := x.frames ++ [(x.ahead.toList ++ freeWords tick 8).zipIdx.foldl
      (fun v p => setAt v p.2 p.1) (Vector.replicate 16 0)]
    ahead := (freeWords (tick + 8) 8).zipIdx.foldl (fun v p => setAt v p.2 p.1) (Vector.replicate 8 0) }

/-- CALL and CALLR (R308): the return address is `w7` of the new depth (R283). -/
def callTo (t : Word) : Body := fun c e s =>
  if t.toNat % 4 != 0 then .trap Cause.misaligned t none
  else
    let spilled := if (s.ctx c).frames.length = 6 then s.spillOldest c e.pc else .ok s
    match spilled with
    | .wait s1 => .stay s1
    | .fault s1 cause info xlat => .trapIn s1 cause info xlat
    | .ok s1 =>
      let s2 := { s1 with tick := s1.tick + 16 }.modCtx c (fun x =>
        { x.enter s1.tick with park := none })
      .jump [(.w (16 * (s2.ctx c).depth + 7), ((e.pc + BitVec.ofNat 64 e.w.length).setWidth 1024))] s2 t

def bodyCall : Body := fun c e s => callTo (e.pc + e.opB s c) c e s
def bodyCallr : Body := fun c e s => callTo (e.opB s c) c e s

/-- The registers a return discards: the frame's `w8` to `w15` and the eight beyond it (R286). -/
def discarded (depth : Nat) : List RegName :=
  (List.range 16).map (fun k => .w (16 * depth + 8 + k))

/-- The context after a return's depth has changed (R282, R284). -/
def Ctx.leave (x : Ctx) : Ctx :=
  let top := x.frames.getLastD (Vector.replicate 16 0)
  let y := (discarded x.depth).foldl (fun y r => y.forget r) x
  { y with
    depth := x.depth - 1
    frames := x.frames.dropLast
    ahead := (top.toList.take 8).zipIdx.foldl (fun v p => setAt v p.2 p.1) (Vector.replicate 8 0) }

def bodyRet : Body := fun c e s =>
  let x := s.ctx c
  let t := (x.read (.w (16 * x.depth + 7))).setWidth 64
  if (discarded x.depth).any x.isPending then .stay s
  else if x.depth = 0 then .trap Cause.windowExhausted (reasonInfo 1 0) none
  else if t.toNat % 4 != 0 then .trap Cause.misaligned t none
  else
    let s1 := s.modCtx c Ctx.leave
    if ((s1.ctx c).frames).isEmpty then
      match s1.fillTop c e.pc with
      | .wait s2 => .stay (s2.setCtx c { x with park := (s2.ctx c).park })
      | .fault s2 cause info xlat => .trapIn (s2.setCtx c { x with park := (s2.ctx c).park }) cause info xlat
      | .ok s2 => .jump [] (s2.modCtx c (fun y => { y with park := none })) t
    else .jump [] s1 t

/-! ## Tests of pending bits (R311, R312) -/

/-- Whether the register an operand names is pending; the literal and `g0` and `p0` never are. -/
def Entry.pendingAt (e : Entry) (x : Ctx) (o : Opd) : Bool :=
  match regAt e.depth o with
  | some r => x.isPending r
  | none => false

def bodyJp : Body := fun c e s =>
  let x := s.ctx c
  let pd := e.pendingAt x e.w.fd || e.pendingAt x e.w.fa
  if pd != e.w.os.getLsbD 0 then jumpTo (e.pc + e.opB s c) s else .done [] s

/-- Every register a context can have. -/
def Ctx.anyBlocked (x : Ctx) : Bool := x.pending.any x.blocked

def bodyWaitp : Body := fun c e s =>
  let x := s.ctx c
  let waits :=
    if e.w.os.getLsbD 0 then x.anyBlocked || (!x.inh && !x.hamper.isEmpty)
    else (regsAt e.depth e.w.fd 1 ++ regsAt e.depth e.w.fa 1).any x.blocked
  if waits then .stay s else .done [] s

/-! ## Loops (R313, R314) -/

/-- Opcodes a loop body may not hold (R313). -/
def loopBarred : Opcode → Bool
  | .br | .jmp | .call | .callr | .ret | .jp | .loop | .start | .join | .exit | .trap | .trapret => true
  | _ => false

/-- Whether a first parcel is a LINC's. -/
def isLincParcel (p : BitVec 32) : Bool := p.getLsbD 1 && p.extractLsb' 2 10 == Opcode.linc.code

/-- A step field of a LINC (R314). -/
def lincStep (o : Opd) : Int := signedOf 4 o.num.toNat

/-- Whether a LINC breaks a rule of R313 on the instruction it follows. -/
def lincBreaks (w : Fields) (l : Fields) : Bool :=
  let fixed := fun (o : Opd) => o.isLit || o.code == 0
  (l.lit != 0 && !(w.fa.cls == .scalar && !w.fa.isLit))
    || (lincStep l.fd != 0 && fixed w.fd) || (lincStep l.fa != 0 && fixed w.fa)
    || (lincStep l.fb != 0 && fixed w.fb)

/-- What capturing a loop body comes to: the slots and the address after them. -/
inductive Capture where
  | ok (slots : List LoopSlot) (next : Word) (s : State)
  | fault (cause : BitVec 8) (info : Word)
  | parked (s : State)
  deriving DecidableEq, Repr

/-- Opcode and fields of an instruction; an event has none. -/
def Instr.fieldsOf (i : Instr) : Option (Opcode × Fields) :=
  match i.view with
  | .op op w => some (op, w)
  | .short o f => some (o.entry.op, f.expand o)
  | .event => none

/-- Captures `n` body slots with their LINCs from an address on (R313), in ascending order, and sees that no second
LINC follows the last; `bad` is
TRAP.INFO of reason 0x0E. -/
def State.captureBody (s : State) (c : Fin 11) (bad : Word) : Nat → Word → List LoopSlot → Capture
  | 0, va, acc => .ok acc va s
  | n + 1, va, acc =>
    match s.lookup c va with
    | .parked s1 => .parked s1
    | .word e s1 =>
      let word := e.meets (s1.ctx c).inh
      if isLincParcel e.parcel then
        match word with
        | .bad cause info => .fault cause info
        | .ok _ => .fault Cause.illegal bad
      else if (match word with
          | .ok i => (match Instr.fieldsOf i with | some (op, _) => loopBarred op | none => false)
          | .bad _ _ => false) then .fault Cause.illegal bad
      else
        let next := va + BitVec.ofNat 64 e.len
        match s1.lookup c next with
        | .parked s2 => .parked s2
        | .word l s2 =>
          if isLincParcel l.parcel then
            match l.meets (s2.ctx c).inh with
            | .bad cause info => .fault cause info
            | .ok li =>
              match Instr.fieldsOf li with
              | none => .fault Cause.illegal bad
              | some (_, lw) =>
                let broken := match word with
                  | .ok i => (match Instr.fieldsOf i with | some (_, w) => lincBreaks w lw | none => false)
                  | .bad _ _ => false
                if broken then .fault Cause.illegal bad
                else
                  let after := next + BitVec.ofNat 64 l.len
                  let slot : LoopSlot := ⟨va, e.len, e.parcel, word, lincStep lw.fd, lincStep lw.fa, lincStep lw.fb,
                    lw.lit.signExtend 64⟩
                  if n ≠ 0 then s2.captureBody c bad n after (acc ++ [slot])
                  else
                    match s2.lookup c after with
                    | .parked s3 => .parked s3
                    | .word k s3 =>
                      if isLincParcel k.parcel then
                        match k.meets (s3.ctx c).inh with
                        | .bad cause info => .fault cause info
                        | .ok _ => .fault Cause.illegal bad
                      else .ok (acc ++ [slot]) after s3
          else s2.captureBody c bad n next (acc ++ [⟨va, e.len, e.parcel, word, 0, 0, 0, 0⟩])

def bodyLoop : Body := fun c e s =>
  let x := s.ctx c
  let bad := illegalInfo 0x0E e.parcel
  let n := (e.w.os.extractLsb' 0 5).toNat + 1
  if x.loop.active then .trap Cause.illegal bad none
  else
    match s.captureBody c bad n (e.pc + BitVec.ofNat 64 e.w.length) [] with
    | .fault cause info => .trap cause info none
    | .parked s1 => .stay s1
    | .ok slots next s1 =>
      let count := e.scalarZ s c e.w.fa
      if 16777215 < count.toNat then .trap Cause.nearBounds count none
      else if count = 0 then .jump [] s1 next
      else
        .jump [] (s1.modCtx c (fun x => { x with loop := ⟨count.toNat, 0, true, 0, slots, next, false⟩ }))
          (((slots[0]?).map (·.addr)).getD 0)

/-! ## Modes and the software trap (R310, R318) -/

def bodyDefer : Body := fun c e s =>
  if (s.ctx c).inh then .trap Cause.illegal (illegalInfo 0x0D e.parcel) none
  else .done [] (s.modCtx c (fun x => { x with deferMode := true }))

def bodyPark : Body := fun c _ s => .done [] (s.modCtx c (fun x => { x with deferMode := false }))

/-- TRAP resumes after itself (R318); its hints act where its context goes on (R32). -/
def bodyTrap : Body := fun c e s =>
  let s1 := s.takeTrap c Cause.software (e.pc + BitVec.ofNat 64 e.w.length) (e.opB s c) none none
  .whole (if (s1.ctx c).live then s1.modCtx c (fun x => x.hint e.w.hints s.now) else s1)

/-! ## The meanings -/

/-- YIELD (R309): as HNT.YD.
DEDUCED, log entry 53. -/
def execYield (w : Fields) (s : State) : Host.Outcome State Fault Refusal :=
  issue .yield { w with hints := { w.hints with yd := true } } bodyNop s

/-- NOP (R309). -/
def execNop (w : Fields) (s : State) : Host.Outcome State Fault Refusal :=
  issue .nop w bodyNop s

/-- BR (R308). -/
def execBr (w : Fields) (s : State) : Host.Outcome State Fault Refusal :=
  issue .br w bodyBr s

/-- JMP (R308). -/
def execJmp (w : Fields) (s : State) : Host.Outcome State Fault Refusal :=
  issue .jmp w bodyJmp s

/-- CALL (R308). -/
def execCall (w : Fields) (s : State) : Host.Outcome State Fault Refusal :=
  issue .call w bodyCall s

/-- CALLR (R308). -/
def execCallr (w : Fields) (s : State) : Host.Outcome State Fault Refusal :=
  issue .callr w bodyCallr s

/-- RET (R308). -/
def execRet (w : Fields) (s : State) : Host.Outcome State Fault Refusal :=
  issue .ret w bodyRet s

/-- JP (R311). -/
def execJp (w : Fields) (s : State) : Host.Outcome State Fault Refusal :=
  issue .jp w bodyJp s

/-- WAITP (R312). -/
def execWaitp (w : Fields) (s : State) : Host.Outcome State Fault Refusal :=
  issue .waitp w bodyWaitp s

/-- LOOP (R313). -/
def execLoop (w : Fields) (s : State) : Host.Outcome State Fault Refusal :=
  issue .loop w bodyLoop s

/-- LINC reached outside loop capture is a decode fault, whatever its guard says (R44, R50). -/
def execLinc (w : Fields) (s : State) : Host.Outcome State Fault Refusal :=
  let x := s.ctx s.cur
  powered s (if x.live then
    s.takeTrap s.cur Cause.illegal x.pc (illegalInfo 0x0B (x.parcelOf .linc w)) none none else s)

/-- TRAP (R318). -/
def execTrap (w : Fields) (s : State) : Host.Outcome State Fault Refusal :=
  issue .trap w bodyTrap s

/-- DEFER (R310). -/
def execDefer (w : Fields) (s : State) : Host.Outcome State Fault Refusal :=
  issue .defer w bodyDefer s

/-- PARK (R310). -/
def execPark (w : Fields) (s : State) : Host.Outcome State Fault Refusal :=
  issue .park w bodyPark s

end Sys2Proof.Machine
end

