-- ==== Sys2Proof/Machine/Access.lean ====
section
/-! DEFINITION. Loads, stores, atomics and prefetch (R180 to R193): where an access goes, what it does when
it is performed, and what a failed, held or poisoned one leaves (R123 to R126, R269). -/

namespace Sys2Proof.Machine

/-! ## Element conversions (R188) -/

/-- The format of an element type that rounds (R188). -/
def elemFmt (ty : Ty) (fmt : Option FmtRef) (sat : Bool) : Fmt :=
  match ty with
  | .nf | .page => match fmt with | some f => f.desc.fmt | none => fmtF32 sat
  | t => floatFmt t sat

/-- Whether an element type is a floating one. -/
def isFloatElem : Ty → Bool
  | .bf16 | .f16 | .nf | .page | .f32 => true
  | _ => false

/-- The lane an element widens into, under its block's scale where it has one (R96, R188). A zero element under an
infinite scale widens to a NaN and counts nothing (R90).
DESIGN CHOICE, log entry 130. -/
def widen (ty : Ty) (fmt : Option FmtRef) (w : Nat) (code : Nat) (scale : Option Num) : BitVec 32 × Ev :=
  if w = 32 then (BitVec.ofNat 32 code, Ev.zero)
  else if isFloatElem ty then
    let f := elemFmt ty fmt false
    let v := match scale with | some sc => scaled f code sc | none => f.decode code
    let (c, ev) := roundTo (fmtF32 false) .rne 0 v
    (BitVec.ofNat 32 c, ev)
  else if ty.signed then (BitVec.ofInt 32 (signedOf w code), Ev.zero)
  else (BitVec.ofNat 32 code, Ev.zero)

/-- The element a lane narrows into (R188): `k` is the exponent of its block's scale, `none` inside where
the block holds a NaN (R97). -/
def narrow (ty : Ty) (fmt : Option FmtRef) (sat : Bool) (w : Nat) (rm : Rm) (draw : BitVec 32)
    (k : Option (Option Int)) (lane : BitVec 32) : Nat × Ev :=
  if w = 32 then (lane.toNat, Ev.zero)
  else if isFloatElem ty then
    let x := (fmtF32 false).decode lane.toNat
    roundTo (elemFmt ty fmt sat) rm draw (match k with | some e => unscale x e | none => x)
  else
    let (lo, hi) := intRange ty.signed w
    let (r, out) := clampTo lo hi lane.toInt
    (wrapTo w r, if out then { overflow := 1 } else Ev.zero)

/-- The scale bytes and exponents of the blocks that lanes fill, in order (R97). -/
def blockScales (f : FmtRef) (l : Nat) (lanes : List (BitVec 32)) : List (Nat × Option Int) :=
  (List.range (lanes.length / l)).map (fun b =>
    chooseScale f.desc.fmt (((lanes.drop (b * l)).take l).map (fun x => (fmtF32 false).decode x.toNat)))

/-- Lanes narrowed to the bytes of their elements and scales, with their events (R188). -/
def storeBytes (ty : Ty) (fmt : Option FmtRef) (sat : Bool) (w : Nat) (rm : Rm)
    (draws : List (BitVec 32)) (lanes : List (BitVec 32)) (n : Nat) (places : List (Nat × Nat)) :
    List Byte × Ev :=
  let scales : Option (Nat × List (Nat × Option Int)) := match fmt, blockLen fmt with
    | some f, some l => some (l, blockScales f l lanes)
    | _, _ => none
  let codes := lanes.zipIdx.map (fun (x, k) =>
    narrow ty fmt sat w rm (draws.getD k 0)
      (scales.map (fun (sc : Nat × List (Nat × Option Int)) => ((sc.2[k / sc.1]?).getD (0, none)).2)) x)
  let bits := (codes.zip places).foldl (fun a (c, p) => a ||| c.1 % 2 ^ w * 2 ^ p.1) 0
  let sbits := match scales with
    | none => 0
    | some sc => (places.zipIdx).foldl (fun a (p, k) =>
        if k % sc.1 = 0 then a ||| ((sc.2[k / sc.1]?).getD (0, none)).1 * 2 ^ (8 * p.2) else a) 0
  (bytesOfNat n (bits ||| sbits), codes.foldl (fun a c => a.add c.2) Ev.zero)

/-- The lanes loaded elements widen into (R188). -/
def loadLanes (ty : Ty) (w : Nat) (fmt : Option FmtRef) (places : List (Nat × Nat)) (bs : List Byte) :
    List (BitVec 32 × Ev) :=
  places.map (fun p =>
    let scale := match fmt, blockLen fmt with
      | some f, some _ => some (f.scaleOf (bs.getD p.2 0).toNat)
      | _, _ => none
    widen ty fmt w (bitsAt bs p.1 w) scale)

/-- 32 lanes as a vector register. -/
def packLanes (xs : List (BitVec 32)) : Vec :=
  BitVec.ofNat 1024 (xs.zipIdx.foldl (fun a (x, i) => a + x.toNat * 2 ^ (32 * i)) 0)

/-- The lanes of a vector register. -/
def lanesOf (v : Vec) : List (BitVec 32) := (List.range 32).map (fun i => v.extractLsb' (32 * i) 32)

/-- A scalar load's value (R186). -/
def loadScalar (signed : Bool) (bs : List Byte) : Word :=
  if signed then BitVec.ofInt 64 (signedOf (8 * bs.length) (natOfBytes bs))
  else BitVec.ofNat 64 (natOfBytes bs)

/-- What a load's bytes become, with the events of a widening (R186 to R188). -/
def Conv.value (k : Conv) (bs : List Byte) : Vec × Ev :=
  match k with
  | .scalar signed => ((loadScalar signed bs).setWidth 1024, Ev.zero)
  | .vector => (BitVec.ofNat 1024 (natOfBytes bs), Ev.zero)
  | .elements ty w fmt places =>
    let ls := loadLanes ty w fmt places bs
    (packLanes (ls.map (·.1)), ls.foldl (fun a l => a.add l.2) Ev.zero)

/-! ## Atomics (R191, R192) -/

/-- The new value of a location of `n` bytes, and its events. -/
def atomicOp (op : Nat) (w : Nat) (rm : Rm) (draw : BitVec 32) (sat : Bool) (old b : Nat) : Nat × Ev :=
  let so := signedOf w old
  let sb := signedOf w b
  match op with
  | 0 => ((old + b) % 2 ^ w, Ev.zero)
  | 1 => (old &&& b, Ev.zero)
  | 2 => (old ||| b, Ev.zero)
  | 3 => (old ^^^ b, Ev.zero)
  | 4 => (if so ≤ sb then old else b, Ev.zero)
  | 5 => (if sb ≤ so then old else b, Ev.zero)
  | 6 => (if old ≤ b then old else b, Ev.zero)
  | 7 => (if b ≤ old then old else b, Ev.zero)
  | 8 => (b, Ev.zero)
  | _ =>
    let f := fmtF32 sat
    let x := f.decode old
    let y := f.decode b
    roundMade f rm draw [x, y] (addNum rm x y)

/-! ## An access performed (R124, R135, R191, R269) -/

/-- A flight leaves the rank's accesses. -/
def State.dropFlight (s : State) (id : Nat) : State :=
  { s with flights := s.flights.filter (fun f => f.id != id) }

/-- Whether the instruction of a flight executed from the hamper. -/
def Flight.residual (f : Flight) : Bool := match f.redo with | some e => e.residual | none => false

/-- A value lands in a flight's destination, if it has one (R190, R290 to R292), or in its push slot (R238); a scratchpad
load that waited for an acquire delivers 4 cc later (R193). -/
def State.landIn (s : State) (f : Flight) (v : Vec) : State :=
  match f.dest, f.redo.bind (·.push) with
  | some _, some p => if f.orphan then s else s.push f.c p v
  | some r, none => s.modCtx f.c (fun x =>
      if f.residual then x.land r v
      else if f.unpended && !f.tr then
        { ((x.setFile r v).forget r).payOwed r v with
          delivering := x.delivering.erase r
          busy := x.busy ++ [(r, s.now + 4)] }
      else x.landDirect f.tr r v)
  | none, _ => s

/-- A failed access (R124): zero lands, and the fault waits for its context. -/
def State.failFlight (s : State) (f : Flight) (cause : BitVec 8) (xlat : Option Word) : State :=
  let w : WaitingFault :=
    if f.residual then ⟨Cause.residual, f.pc, xlat, some (cause.setWidth 64, f.pc), f.inHandler, 0⟩
    else ⟨cause, f.pc, xlat, none, f.inHandler, 0⟩
  if f.orphan then s.dropFlight f.id else ((s.dropFlight f.id).landIn f 0).lateFault f.c w

/-- The agent a flight acts as. -/
def Flight.agent (f : Flight) : Agent := ⟨f.c.1, .s, f.near⟩

/-- An atomic's write with its ORD (R193): an acquire takes what the release it reads published, and a
release marks its own write. -/
def Flight.ordering (f : Flight) (s : State) (w : Nat) (write : State → State) : State :=
  match f.redo with
  | some e =>
    let s1 := if e.w.aq then s.acquireAtomic f.agent w else s
    let s2 := write s1
    if e.w.rl then s2.markRelease s1 f.agent else s2
  | none => write s

/-- An access performed at its place: what it reads, writes and lands.
DESIGN CHOICE, log entry 89. -/
def State.perform (s : State) (f : Flight) : State :=
  match f.xl with
  | .failed fault reason va => s.failFlight f (xlatCause fault) (some (xlatWord fault reason va))
  | .held _ _ => s
  | .ready =>
    match f.gateDead with
    | some _ => s.failFlight f Cause.gateTimeout none
    | none =>
      match f.kind with
      | .load conv =>
        if s.poisonedAt f.keys then s.failFlight f Cause.poisoned none
        else
          let (bs, s1) := s.readAsOf f.asOf f.agent f.keys
          let (v, ev) := conv.value bs
          ((s1.count ev).dropFlight f.id).landIn f v
      | .store data => ((s.writeKeys f.agent f.keys data).dropFlight f.id).landIn f 0
      | .atomic ty mod b rm sat =>
        if s.poisonedAt f.keys then s.failFlight f Cause.poisoned none
        else
          let n := ty.bytes
          let (bs, s) := s.readNewest f.agent f.keys
          let old := natOfBytes bs
          let draw := match f.redo with | some e => e.draw 32 | none => 0
          let (new, ev) := atomicOp mod.toNat (8 * n) rm draw sat old (b.toNat % 2 ^ (8 * n))
          let w := wordOf (f.keys.headD 0)
          let s1 := f.ordering s w (fun s => (s.count ev).writeKeys f.agent f.keys (bytesOfNat n new))
          (s1.dropFlight f.id).landIn f
            ((loadScalar ty.signed (bytesOfNat n old)).setWidth 1024)
      | .compare ty old new =>
        if s.poisonedAt f.keys then s.failFlight f Cause.poisoned none
        else
          let n := ty.bytes
          let (bs, s) := s.readNewest f.agent f.keys
          let cur := natOfBytes bs
          let s1 := f.ordering s (wordOf (f.keys.headD 0)) (fun s =>
            if cur = old.toNat % 2 ^ (8 * n) then s.writeKeys f.agent f.keys (bytesOfNat n new.toNat) else s)
          (s1.dropFlight f.id).landIn f ((loadScalar ty.signed (bytesOfNat n cur)).setWidth 1024)
      | .status v => (s.dropFlight f.id).landIn f (v.setWidth 1024)
      | .abread _ _ _ _ _ _ => s

/-! ## When an access may be performed (R126, R136, R163, R183, R193, R207, R444) -/

/-- The quadrant of a site (R11). -/
def quadrantOf (site : BitVec 10) : Nat :=
  (if site.getLsbD 9 then 1 else 0) + (if site.getLsbD 4 then 2 else 0)

def RowCmd.isTransfer (k : RowCmd) : Bool := match k.kind with | .con _ _ | .wb _ _ => true | _ => false

/-- Whether an access of this rank goes through a gate: to the memory of another rank by region 0 (R136). -/
def State.throughGate (s : State) (f : Flight) : Bool :=
  f.xl == .ready && f.gateDead.isNone && !f.near && f.dpa / 2 ^ 52 == 0
    && (match f.peer with
        | some _ => true
        | none =>
          match f.keys.head? with
          | some k =>
            let q := if isPacked k then packFrame k else k
            decide (q / 2 ^ 52 = 2) && q / 2 ^ 28 % 2 ^ 10 != s.party.site.toNat
          | none => false)

/-- Whether a key lies in the port area of a site of a quadrant. -/
def portKey (q : Nat) (k : Nat) : Bool :=
  let k := if isPacked k then packFrame k else k
  decide (k / 2 ^ 52 = 2) && decide (k % 2 ^ 28 < spadOff) && quadrantOf (BitVec.ofNat 10 (k / 2 ^ 28)) == q

/-- Whether a narrow transfer of the rank holds its narrow port (R162, R163). -/
def State.portHeld (s : State) : Bool := s.rows.narrow && s.rows.running.any (·.isTransfer)

/-- Whether a key lies in the port area of the rank's own site. -/
def State.ownPort (s : State) (k : Nat) : Bool :=
  let k := if isPacked k then packFrame k else k
  decide (siteKey s.party.site 0 ≤ k) && decide (k < siteKey s.party.site spadOff)

/-- Whether an access goes to a port area whose sequencer is being reset (R444), or over the rank's narrow port while
a transfer holds it (R163). -/
def State.portWaits (s : State) (f : Flight) : Bool :=
  (f.xl == .ready && s.portHeld && (f.keys.head?.map s.ownPort).getD false)
    || f.xl == .ready && s.seqs.toList.zipIdx.any (fun (p : Sequencer × Nat) =>
    p.1.resetting && (f.keys.head?.map (portKey p.2)).getD false)

/-- Whether an access is a release atomic (R193). -/
def Flight.releases (f : Flight) : Bool :=
  match f.kind, f.redo with
  | .atomic _ _ _ _ _, some e => e.w.rl
  | .compare _ _ _, some e => e.w.rl
  | _, _ => false

def State.seq (s : State) (q : Fin 4) : Sequencer := s.seqs.get q
def State.modSeq (s : State) (q : Fin 4) (f : Sequencer → Sequencer) : State :=
  { s with seqs := s.seqs.set q.1 (f (s.seq q)) q.2 }

/-- A stack sequencer has completed a port-area command at a key (R442). -/
def State.portDone (s : State) (key : Option Nat) : State :=
  match (List.finRange 4).find? (fun q => (key.map (portKey q.1)).getD false) with
  | some q => s.modSeq q (fun k => { k with lastDone := s.wall })
  | none => s

/-- Whether two accesses of one context meet the same bytes through different names, so that neither is ordered before
the other (R183). -/
def Flight.apart (g : Flight) (near : Bool) (keys : List Nat) : Bool :=
  g.near != near && !g.acquire && g.keys.any keys.contains

/-- Whether an access may be performed: its context's earlier ones have been, but for held ones and for those of the
same bytes under the other name; a release atomic waits for every one that is earlier in program order, held or not, in
flight or in the hamper (R126, R183, R193, R207). With `past`, loads whose moment is settled are no obstacle. -/
def State.mayPerform (s : State) (past : Bool) (f : Flight) : Bool :=
  !f.isHeld && !f.lost && !f.isRead && !s.portWaits f
    && (if f.releases then
          s.flights.all (fun g => g.c != f.c || decide (f.id ≤ g.id) || !(g.before || g.isHeld))
            && (s.ctx f.c).hamper.all (fun h => !onPathS h.op || decide (f.id ≤ h.seq))
        else true)
    && (s.flights.takeWhile (fun g => g.id != f.id)).all (fun g =>
      g.c != f.c || !g.before || (past && g.asOf.isSome) || (g.apart f.near f.keys && !f.releases))

/-- Whether an access may land now. -/
def State.mayLand (s : State) (f : Flight) : Bool := s.mayPerform false f

/-- Whether no access of a context is in flight that a later one of it comes behind. -/
def State.noneEarlier (s : State) (c : Fin 11) : Bool := s.flights.all (fun g => g.c != c || !g.before)

/-- A load of a context's passes its accesses in flight, so that the effects of those earlier in program order come
before its own (R190, R207): a store or an atomic that may be performed is, and a load reads from now on what stood
before later writes.
DEDUCED, log entry 120. -/
def State.settleEarlier (s : State) (c : Fin 11) (seq : Nat) : State :=
  (s.flights.filter (fun f => f.c == c && f.before && decide (f.id < seq) && f.xl == .ready && f.gateDead.isNone)).foldl
    (fun (s : State) (f : Flight) =>
      match f.kind with
      | .load _ =>
        { s with flights := s.flights.map (fun g =>
            if g.id == f.id && g.asOf.isNone then { g with asOf := some s.nextOp } else g) }
      | .store _ | .atomic _ _ _ _ _ | .compare _ _ _ =>
        if !s.throughGate f && s.mayPerform true f then s.perform f else s
      | _ => s) s

/-! ## Where an access goes -/

/-- What issuing an access comes to: a precise fault; done at once, with its register results; or an
access in flight. -/
inductive AccessEnd where
  | fault (cause : BitVec 8) (info : Word)
  | now (res : List (RegName × Vec)) (s : State)
  | fly (f : Flight) (s : State)
  deriving DecidableEq, Repr

/-- Ranges translated in order; the first failure is the access's. -/
def State.translateAll (s : State) (k : AccessKind) (inHandler : Bool) (pc : Word) :
    List (Nat × Nat) → List Nat → Option Peer → Option Leaf → XlEnd × State
  | [], keys, peer, leaf => (.ok keys peer (leaf.getD Leaf.none), s)
  | (a, n) :: rest, keys, peer, leaf =>
    if 2 ^ 64 ≤ a then (.fail 2 5 (a % 2 ^ 57), s)
    else
      match s.translate s.asid (BitVec.ofNat 64 a) n k inHandler pc with
      | (.ok ks p l, s1) => s1.translateAll k inHandler pc rest (keys ++ ks) (peer <|> p) (leaf <|> some l)
      | r => r

/-- The access kind of a memory instruction (R117). -/
def accessKind : Opcode → AccessKind
  | .ld | .ldv | .ldx | .pref => .read
  | .atom | .cas => .atomic
  | _ => .write

/-- The captured instruction a replay or a reissue runs again: every operand it read. -/
def Entry.frozen (e : Entry) (s : State) (c : Fin 11) : Entry :=
  { e with cap := (sources e.depth e.op e.w).map (fun r => (r, e.reg s c r)) }

/-- An access set up as a flight. -/
def Entry.flight (e : Entry) (s : State) (c : Fin 11) (kind : FlightKind) (keys : List Nat)
    (dest : Option RegName) (xl : Xlation) (peer : Option Peer) (dpa : Nat) : Flight :=
  { id := e.seq, c := c, pc := e.pc, kind := kind, keys := keys, dpa := dpa, near := e.w.near,
    dest := match dest with | some r => (if r.fixed then none else some r) | none => none,
    xl := xl, acquire := (e.op == .atom || e.op == .cas) && e.w.aq, redo := some (e.frozen s c),
    tr := e.w.hints.tr && !e.residual, unpended := false,
    inHandler := (s.ctx c).inh, peer := peer, gateDead := none, orphan := false, asOf := none }

/-- A global access (R112, R124, R125): its translation is done at issue, and what it comes to is in the
flight. -/
def Entry.flyGlobal (e : Entry) (s : State) (c : Fin 11) (kind : FlightKind) (dest : Option RegName)
    (ranges : List (Nat × Nat)) : AccessEnd :=
  match s.translateAll (accessKind e.op) (s.ctx c).inh e.pc ranges [] none none with
  | (.ok keys peer l, s1) => .fly (e.flight s c kind keys dest .ready peer l.dpa) s1
  | (.fail f r va, s1) => .fly (e.flight s c kind [] dest (.failed f r (BitVec.ofNat 64 va)) none 0) s1
  | (.absent va h, s1) =>
    let (token, s2) := s1.holdPage s.asid va h (accessKind e.op) e.pc (.flight e.seq)
    .fly (e.flight s c kind [] dest (.held token (BitVec.ofNat 64 va)) none 0) s2

/-- Whether a scratchpad access may be performed as it issues (R190, R193, R207): a load is behind an acquire and
its context's own near stores and atomics of the scratchpad; a store behind every access but those of the same bytes
under the other name (R183).
DEDUCED, log entry 120. -/
def State.spadNow (s : State) (c : Fin 11) (store : Bool) (keys : List Nat) : Bool :=
  s.flights.all (fun g => g.c != c || !g.before || g.apart true keys || (!store && !g.acquire))

/-- Near bytes accessed (R180, R190): those of the scratchpad at once where they may be, others in flight; the
destination of a scratchpad load is not pending. -/
def Entry.goKeys (e : Entry) (s : State) (c : Fin 11) (kind : FlightKind) (dest : Option RegName)
    (spad : Bool) (keys : List Nat) (direct : AccessEnd) : AccessEnd :=
  let plain := spad && !(e.op == .atom || e.op == .cas)
  if plain && s.spadNow c (match kind with | .store _ => true | _ => false) keys then direct
  else
    .fly { e.flight s c kind keys dest .ready none (keys.headD 0) with unpended := plain && !e.residual } s

/-- A near access to a run of bytes (R180). -/
def Entry.goNear (e : Entry) (s : State) (c : Fin 11) (kind : FlightKind) (dest : Option RegName)
    (a : Nat) (n : Nat) (direct : List Nat → AccessEnd) : AccessEnd :=
  if 2 ^ 32 ≤ a || !s.nearOk a n then .fault Cause.nearBounds (BitVec.ofNat 64 a)
  else
    let keys := s.nearKeys a n
    e.goKeys s c kind dest (decide (a < 0x80000)) keys (direct keys)

/-- A load from the scratchpad (R190): its value at once; a poisoned byte gives zero and POISONED at the
next issue boundary (R269). -/
def Entry.loadNow (e : Entry) (s : State) (c : Fin 11) (conv : Conv) (dest : RegName) (keys : List Nat) :
    AccessEnd :=
  let s0 := s.settleEarlier c e.seq
  if s0.poisonedAt keys then
    .now [(dest, 0)] (s0.lateFault c (e.late Cause.poisoned none (s.ctx c).inh))
  else
    let (bs, s1) := s0.readKeys ⟨c.1, .s, true⟩ keys
    let (v, ev) := conv.value bs
    .now [(dest, v)] (s1.count ev)

/-- A store to the scratchpad. -/
def storeNow (s : State) (c : Fin 11) (keys : List Nat) (data : List Byte) : AccessEnd :=
  .now [] (s.writeKeys ⟨c.1, .s, true⟩ keys data)

/-- LD and LDV: a run of `n` bytes at the effective address, aligned to `align` (R186, R187). -/
def Entry.loadRun (e : Entry) (s : State) (c : Fin 11) (n align : Nat) (conv : Conv) : AccessEnd :=
  let ea := e.ea s c
  if ea.toNat % align != 0 then .fault Cause.misaligned ea
  else if e.w.near then
    e.goNear s c (.load conv) (some e.fdReg) ea.toNat n (e.loadNow s c conv e.fdReg)
  else e.flyGlobal s c (.load conv) (some e.fdReg) [(ea.toNat, n)]

/-- ST and STV (R186, R187). -/
def Entry.storeRun (e : Entry) (s : State) (c : Fin 11) (n align : Nat) (data : List Byte) : AccessEnd :=
  let ea := e.ea s c
  if ea.toNat % align != 0 then .fault Cause.misaligned ea
  else if e.w.near then
    e.goNear s c (.store data) none ea.toNat n (fun keys => storeNow s c keys data)
  else e.flyGlobal s c (.store data) none [(ea.toNat, n)]

/-! ## LDX and STX (R188) -/

/-- What a PAGE access finds of its format (R93): the descriptor with its page's size, a translation that
does not complete, or an invalid descriptor. -/
inductive PageFmt where
  | ok (fmt : FmtRef) (size : Nat) (s : State)
  | held (token : BitVec 32) (va : Word) (s : State)
  | failed (fault : BitVec 3) (reason : BitVec 4) (va : Nat) (s : State)
  deriving DecidableEq, Repr

/-- The descriptor of the page at an address (R93). -/
def State.formatAt (s : State) (va : Word) (k : AccessKind) (inHandler : Bool) (pc : Word) (who : Holder) : PageFmt :=
  match s.translate s.asid va 1 k inHandler pc with
  | (.absent a h, s1) =>
    let (token, s2) := s1.holdPage s.asid a h k pc who
    .held token (BitVec.ofNat 64 a) s2
  | (.fail f r a, s1) => .failed f r a s1
  | (.ok _ _ l, s1) =>
    match s1.fmtRef s.asid (entFmt l.ent) with
    | some f => .ok f l.size s1
    | none => .failed 4 0 va.toNat s1

def Entry.formatAt (e : Entry) (s : State) (c : Fin 11) (va : Word) : PageFmt :=
  s.formatAt va (accessKind e.op) (s.ctx c).inh e.pc (.flight e.seq)

/-- The format of a PAGE access: that of the page of its operand base where it is a block format, else
that of the page of its effective address (R93, R188).
DEDUCED, log entry 38. -/
def Entry.pageFormat (e : Entry) (s : State) (c : Fin 11) : PageFmt :=
  match e.formatAt s c (e.opA s c) with
  | .ok f size s1 =>
    if f.desc.block ≠ 0 then .ok f size s1 else e.formatAt s1 c (e.ea s c)
  | .failed 4 r va s1 =>
    (match e.formatAt s1 c (e.ea s c) with
     | .ok f size s2 => if f.desc.block ≠ 0 then .failed 4 r va s2 else .ok f size s2
     | other => other)
  | other => other

/-- Whether a format can be stored under: a store must choose its block scales and cover whole blocks
(R93, R188). -/
def storable (fmt : Option FmtRef) : Bool :=
  match fmt with
  | some f => f.desc.block = 0 || (f.desc.block ≠ 64 && !f.desc.sckind)
  | none => true

/-- The misaligned operand of an element access, if it has one (R188).
DEDUCED, log entry 40. -/
def Entry.elemMisaligned (e : Entry) (s : State) (c : Fin 11) (fmt : Option FmtRef) : Option Word :=
  let w := elemWidth e.w.ty fmt
  match blockLen fmt with
  | some _ => if (e.opB s c).toNat % 32 != 0 then some (e.opB s c) else none
  | none => if 16 ≤ w && (e.ea s c).toNat % (w / 8) != 0 then some (e.ea s c) else none

/-- The lanes an STX stores.
DEDUCED, log entry 52. -/
def Entry.storeLanes (e : Entry) (s : State) (c : Fin 11) : List (BitVec 32) := lanesOf (e.vec s c e.w.fd)

/-- An element access under a known format; its counts are made as it is performed or set up. -/
def Entry.elementsUnder (e : Entry) (s : State) (c : Fin 11) (fmt : Option FmtRef) (size : Option Nat) :
    AccessEnd :=
  match e.elemMisaligned s c fmt with
  | some v => .fault Cause.misaligned v
  | none =>
    let w := elemWidth e.w.ty fmt
    let (base, places) := e.elements s c fmt size
    let offs := elemBytes w places
    let rel := relPlaces offs places
    let conv := Conv.elements e.w.ty w fmt rel
    let (data, ev) :=
      if e.op == .stx then storeBytes e.w.ty fmt e.sat w e.rm e.draws (e.storeLanes s c) offs.length rel
      else ([], Ev.zero)
    let kind : FlightKind := if e.op == .stx then .store data else .load conv
    let dest := if e.op == .stx then none else some e.fdReg
    if e.w.near then
      if 2 ^ 32 ≤ base + offs.getLastD 0 || offs.any (fun i => !s.nearOk (base + i) 1) then
        .fault Cause.nearBounds (e.ea s c)
      else
        let keys := offs.map (fun i => (s.nearKey (base + i)).getD 0)
        e.goKeys (s.count ev) c kind dest (offs.all (fun i => decide (base + i < 0x80000))) keys
          (if e.op == .stx then storeNow (s.count ev) c keys data else e.loadNow s c conv e.fdReg keys)
    else
      match e.flyGlobal s c kind dest ((rangesOf offs).map (fun r => (base + r.1, r.2))) with
      | .fly f s1 => .fly f (if f.xl == .ready then s1.count ev else s1)
      | r => r

/-- LDX and STX (R93, R188). -/
def Entry.elementAccess (e : Entry) (s : State) (c : Fin 11) : AccessEnd :=
  let bad := illegalInfo 0x0C e.parcel
  let dest := if e.op == .stx then none else some e.fdReg
  let kind : FlightKind := if e.op == .stx then .store [] else .load .vector
  if e.w.ty == .page then
    if e.w.near then .fault Cause.illegal bad
    else
      match e.pageFormat s c with
      | .held token va s1 => .fly (e.flight s c kind [] dest (.held token va) none 0) s1
      | .failed f r va s1 => .fly (e.flight s c kind [] dest (.failed f r (BitVec.ofNat 64 va)) none 0) s1
      | .ok fmt size s1 =>
        if e.op == .stx && !storable (some fmt) then
          .fly (e.flight s c kind [] dest (.failed 4 0 (e.ea s c)) none 0) s1
        else e.elementsUnder s1 c (some fmt) (some size)
  else if e.op == .stx && !storable e.fmt then .fault Cause.illegal bad
  else e.elementsUnder s c e.fmt none

/-! ## Atomics -/

/-- ATOM and CAS (R191, R192): always in flight, so that the old value lands when the access is
performed. -/
def Entry.atomicAccess (e : Entry) (s : State) (c : Fin 11) : AccessEnd :=
  let a := e.opA s c
  let n := e.w.ty.bytes
  let kind : FlightKind :=
    if e.op == .cas then .compare e.w.ty (e.opD s c) (e.opB s c)
    else .atomic e.w.ty (e.w.os.extractLsb' 0 4) (e.opB s c) e.rm e.sat
  if a.toNat % n != 0 then .fault Cause.misaligned a
  else if e.w.near then e.goNear s c kind (some e.fdReg) a.toNat n (fun _ => .now [] s)
  else e.flyGlobal s c kind (some e.fdReg) [(a.toNat, n)]

/-- The access of a memory instruction.
DEDUCED, log entry 41. -/
def Entry.access (e : Entry) (s : State) (c : Fin 11) : AccessEnd :=
  match e.op with
  | .ld => e.loadRun s c e.w.ty.bytes e.w.ty.bytes (.scalar e.w.ty.signed)
  | .st => e.storeRun s c e.w.ty.bytes e.w.ty.bytes (bytesOfNat e.w.ty.bytes (e.opD s c).toNat)
  | .ldv => e.loadRun s c 128 8 .vector
  | .stv => e.storeRun s c 128 8 (bytesOfNat 128 (e.vec s c e.w.fd).toNat)
  | .ldx | .stx => e.elementAccess s c
  | _ => e.atomicAccess s c

/-- A flight that leaves: it joins the rank's accesses in order, and a direct instruction's destination
becomes pending (R190, R192); an entry's is so already, and a group pushed to a stream is no register's. -/
def State.launchFlight (s : State) (c : Fin 11) (e : Entry) (f : Flight) : State :=
  let s1 := { s with flights := s.flights ++ [f], nextId := if e.residual then s.nextId else s.nextId + 1 }
  if e.residual || e.push.isSome then s1
  else s1.modCtx c (fun x =>
    if f.unpended then
      { x.expect true f.dest.toList with
        delivering := x.delivering ++ (if f.tr then [] else f.dest.toList) }
    else x.expect f.tr f.dest.toList)

/-- A memory instruction's meaning. -/
def memoryBody : Body := fun c e s =>
  match e.access s c with
  | .fault cause info => .trap cause info none
  | .now res s1 => .done res s1
  | .fly f s1 => .done [] (s1.launchFlight c e f)

def bodyLd : Body := fun c e s => memoryBody c e s
def bodySt : Body := fun c e s => memoryBody c e s
def bodyLdv : Body := fun c e s => memoryBody c e s
def bodyStv : Body := fun c e s => memoryBody c e s
def bodyLdx : Body := fun c e s => memoryBody c e s
def bodyStx : Body := fun c e s => memoryBody c e s
def bodyAtom : Body := fun c e s => memoryBody c e s
def bodyCas : Body := fun c e s => memoryBody c e s

/-- PREF (R189): a global address is walked into the TLBs; it never faults or waits. -/
def bodyPref : Body := fun c e s =>
  if e.w.near then .done [] s
  else
    match s.translate s.asid (e.ea s c) 1 .read (s.ctx c).inh e.pc with
    | (.ok _ _ _, s1) => .done [] s1
    | _ => .done [] s

/-! ## The meanings -/

/-- LD (R186). -/
def execLd (w : Fields) (s : State) : Host.Outcome State Fault Refusal :=
  issue .ld w bodyLd s

/-- ST (R186). -/
def execSt (w : Fields) (s : State) : Host.Outcome State Fault Refusal :=
  issue .st w bodySt s

/-- LDV (R187). -/
def execLdv (w : Fields) (s : State) : Host.Outcome State Fault Refusal :=
  issue .ldv w bodyLdv s

/-- STV (R187). -/
def execStv (w : Fields) (s : State) : Host.Outcome State Fault Refusal :=
  issue .stv w bodyStv s

/-- LDX (R188). -/
def execLdx (w : Fields) (s : State) : Host.Outcome State Fault Refusal :=
  issue .ldx w bodyLdx s

/-- STX (R188). -/
def execStx (w : Fields) (s : State) : Host.Outcome State Fault Refusal :=
  issue .stx w bodyStx s

/-- ATOM (R191). -/
def execAtom (w : Fields) (s : State) : Host.Outcome State Fault Refusal :=
  issue .atom w bodyAtom s

/-- CAS (R192). -/
def execCas (w : Fields) (s : State) : Host.Outcome State Fault Refusal :=
  issue .cas w bodyCas s

/-- PREF (R189). -/
def execPref (w : Fields) (s : State) : Host.Outcome State Fault Refusal :=
  issue .pref w bodyPref s

end Sys2Proof.Machine
end

