-- ==== Sys2Proof/Machine/Schedule.lean ====
section
/-! DEFINITION. The issue of a ready context (R278 to R280, R295): which goes next, and what it does. -/

namespace Sys2Proof.Machine

/-- Whether rows that a resumed party held open are still to be opened again (R173). -/
def State.rowsReopening (s : State) : Bool :=
  s.rows.queue.any (fun k => k.owner == .sequencer && (match k.kind with | .act _ _ => true | _ => false))

/-- Whether a context may issue (R173, R278, R281, R429, R475): it is READY, its start has come, and its party
neither halts nor is still starting or reopening its rows. -/
def State.mayIssue (s : State) (c : Fin 11) : Bool :=
  (s.ctx c).cstate == .ready && decide ((s.ctx c).startAt ≤ s.now)
    && s.party.bound && !s.party.preempting && !s.party.starting && !s.rowsReopening

/-- A waiting fault the context must take at this issue boundary (R280, R436, R437): inside the handler
only one of an access that the handler issued.
DEDUCED, log entry 63. -/
def Ctx.faultDue (x : Ctx) : Bool :=
  if x.inh then x.faults.any (·.inHandler) else !x.faults.isEmpty

/-- Whether a context stands at an issue boundary: an IDLE, a barrier it has entered, a TLBINV that runs and a granted
ACQ complete first (R203, R272, R452, R454). -/
def State.atBoundary (s : State) (c : Fin 11) : Bool :=
  let x := s.ctx c
  x.idle.isNone && x.barWait.isNone && x.tlbWait.isNone
    && (x.acqQueued.isNone || s.inQueue c)

/-- Whether a register is still to be written by something that is no hamper entry. -/
def Ctx.awaits (x : Ctx) (r : RegName) : Bool :=
  decide ((x.hamper.map (fun h => h.dests.count r)).sum < x.pending.count r)

/-- Whether the inputs of the oldest hamper entry have landed (R297), its claimed groups arrived (R237), no
value it would overtake is still to be written in its destinations (R296, R320, R343), no held access holds it back
(R126), and the divider is free for a divide (R320). -/
def State.inputsReady (s : State) (c : Fin 11) (h : Entry) : Bool :=
  (h.waits ++ h.dests).all (fun r => !(s.ctx c).awaits r) && s.arrived c h.claims && !s.behindHeld c h
    && (!divides h.op || decide (s.divFree ≤ s.now))

/-- Whether a context's next issue opportunity goes to its hamper (R280, R295, R303). -/
def State.hamperReady (s : State) (c : Fin 11) : Bool :=
  let x := s.ctx c
  !x.inh && !x.faultDue && (match x.hamper.head? with | some h => s.inputsReady c h | none => false)

/-! ## The two pipes (R279) -/

/-- Instructions of the wide pipe: the vector, matrix and accumulator, and weight-plane groups. -/
def widePipe (op : Opcode) : Bool := decide (0x1C0 ≤ op.code.toNat) && decide (op.code.toNat < 0x340)

/-- Whether an instruction is for the wide pipe. -/
def isWide (i : Instr) : Bool := match Instr.fieldsOf i with | some (op, _) => widePipe op | none => false

/-- Whether what a context does next is for the wide pipe: its oldest hamper entry, else its next
instruction. -/
def State.wideNext (s : State) (c : Fin 11) : Bool :=
  let x := s.ctx c
  if x.faultDue then false
  else if s.hamperReady c then x.hamper.head?.any (fun h => widePipe h.op)
  else
    match s.fetch c with
    | .word e _ => (match e.meets x.inh with | .ok i => isWide i | .bad _ _ => false)
    | .parked _ => false

/-- Contexts in round-robin order, starting after the one chosen last. -/
def roundFrom (last : Fin 11) (cs : List (Fin 11)) : List (Fin 11) :=
  cs.filter (fun c => last < c) ++ cs.filter (fun c => c ≤ last)

/-- The scalar pipe's choice among contexts. -/
def State.scalarChoice (s : State) (cs : List (Fin 11)) : Option (Fin 11) :=
  (roundFrom s.lastScalar (cs.filter (fun c => !s.wideNext c))).head?

/-- The next READY context: in each cycle the wide pipe chooses and then the scalar pipe, each in its own round, and a
context issues on one of them at most (R278, R279). -/
def State.nextReady (s : State) : Option (Fin 11) :=
  match allCtx.filter s.mayIssue with
  | [] => none
  | cs =>
    if s.half then s.scalarChoice (cs.filter (fun c => c != s.lastWide))
    else
      match cs with
      | [c] => some c
      | cs => (roundFrom s.lastWide (cs.filter s.wideNext)).head? <|> s.scalarChoice cs

/-- A context has issued on the pipe that chose it: the pipe's next choice starts after it (R279), and what the others
have yielded is taken (R32). -/
def State.issued (s : State) : State :=
  let s1 := if allCtx.any (fun c => c != s.cur && (s.ctx c).yielded) then
      { s with ctxs := (s.ctxs.map (fun x => { x with yielded := false })).set s.cur.1 (s.ctx s.cur) s.cur.2 }
    else s
  if s.pipe then { s1 with lastWide := s.cur } else { s1 with lastScalar := s.cur }

/-- What a step comes to. -/
inductive Choice where
  /-- An instruction issues, or an event takes place. -/
  | run (i : Instr) (s : State)
  /-- An event of the part has taken place. -/
  | event (o : Host.Outcome State Fault Refusal)
  /-- Nothing runs: a fetch parks or faults, or time passes. -/
  | only (s : State)

/-- A context's own choice: a waiting fault first, at an issue boundary, then its oldest
ready hamper entry, then its next instruction, whose precise decode fault it takes at once (R50). -/
def State.choiceOf (s : State) (c : Fin 11) : Choice :=
  let x := s.ctx c
  let s1 := { s with cur := c, turn := true, pipe := false }
  if x.faultDue && s.atBoundary c then .run (.takeTrap c) s1
  else if s.hamperReady c then
    .run (.hamperEntryExecute c) { s1 with pipe := x.hamper.head?.any (fun h => widePipe h.op) }
  else
    match s1.fetch c with
    | .parked s2 => .only s2
    | .word e s2 =>
      match e.meets x.inh with
      | .ok i => .run i { s2 with pipe := isWide i }
      | .bad cause info => .only (s2.takeTrap c cause x.pc info none none)

/-- Waiting contexts look again at their next instruction. -/
def State.wakeAll (s : State) : State :=
  allCtx.foldl (fun s c =>
    if (s.ctx c).cstate == .waiting then s.modCtx c (fun x => { x with cstate := .ready }) else s) s

end Sys2Proof.Machine
end

