-- ==== Sys2Proof/Machine/Vector.lean ====
section
/-! DEFINITION. The vector instructions (R340 to R365). -/

namespace Sys2Proof.Machine

/-! ## Lanes and masks (R340 to R342) -/

/-- Whether a lane is active (R342). -/
def Entry.active (e : Entry) (s : State) (c : Fin 11) (i : Nat) : Bool :=
  if maskable e.op && e.w.me then (e.reg s c (.m e.w.mn)).getLsbD i else true

/-- Events of a list of results. -/
def evSum {α : Type} (rs : List (α × Ev)) : Ev := rs.foldl (fun a r => a.add r.2) Ev.zero

/-- Results of lanes to a vector destination, under the mask (R342): an inactive lane keeps its old
value or takes zero, and counts nothing. -/
def Entry.emit (e : Entry) (s : State) (c : Fin 11) (f : Nat → BitVec 32 × Ev) : Act :=
  let old := e.vec s c e.w.fd
  let rs := (List.range 32).map (fun i =>
    if e.active s c i then f i
    else (if e.w.zm then 0 else old.extractLsb' (32 * i) 32, Ev.zero))
  .done [(e.fdReg, packLanes (rs.map (·.1)))] (s.count (evSum rs))

/-- The lanes of the three operands (R341). -/
def Entry.lanes3 (e : Entry) (s : State) (c : Fin 11) :
    (Nat → BitVec 32) × (Nat → BitVec 32) × (Nat → BitVec 32) :=
  (e.vecOp s c e.w.fa e.addrStep, e.vecOp s c e.w.fb 0, e.vecOp s c e.w.fd 0)

/-- FP32 under the policy of R340. -/
def Entry.f32 (e : Entry) : Fmt := fmtF32 e.sat

def f32Num (x : BitVec 32) : Num := (fmtF32 false).decode x.toNat

/-- A rounded F32 lane (R340). -/
def Entry.roundLane (e : Entry) (i : Nat) (args : List Num) (x : Num) : BitVec 32 × Ev :=
  let (code, ev) := roundMade e.f32 e.rm (e.draw i) args x
  (BitVec.ofNat 32 code, ev)

/-- Lane arithmetic (R346): `fi` on integers, and the operands and the exact value on floating lanes. -/
def laneArith (fi : BitVec 32 → BitVec 32 → BitVec 32 → BitVec 32) (args : Num → Num → Num → List Num)
    (fx : Rm → Num → Num → Num → Num) : Body := fun c e s =>
  let (a, b, d) := e.lanes3 s c
  e.emit s c (fun i =>
    if e.w.ty == .f32 then
      let (x, y, z) := (f32Num (a i), f32Num (b i), f32Num (d i))
      e.roundLane i (args x y z) (fx e.rm x y z)
    else (fi (a i) (b i) (d i), Ev.zero))

def bodyVadd : Body := laneArith (fun a b _ => a + b) (fun a b _ => [a, b]) (fun rm a b _ => addNum rm a b)
def bodyVsub : Body :=
  laneArith (fun a b _ => a - b) (fun a b _ => [a, b]) (fun rm a b _ => addNum rm a b.flip)
def bodyVmul : Body := laneArith (fun a b _ => a * b) (fun a b _ => [a, b]) (fun _ a b _ => mulNum a b)
def bodyVfma : Body := laneArith (fun a b d => d + a * b) (fun a b d => [a, b, d])
  (fun rm a b d => addNum rm d (mulNum a b))
def bodyVfms : Body := laneArith (fun a b d => d - a * b) (fun a b d => [a, b, d])
  (fun rm a b d => addNum rm d (mulNum a b).flip)

/-- Lanes that count nothing. -/
def laneOp (f : Ty → BitVec 32 → BitVec 32 → BitVec 32) : Body := fun c e s =>
  let (a, b, _) := e.lanes3 s c
  e.emit s c (fun i => (f e.w.ty (a i) (b i), Ev.zero))

/-- The greater or the lesser of two lanes (R336, R346). -/
def pick32 (max : Bool) (ty : Ty) (a b : BitVec 32) : BitVec 32 :=
  match ty with
  | .f32 => BitVec.ofNat 32 (minMaxCode (fmtF32 false) max a.toNat b.toNat)
  | .i32 => if (if max then a.slt b else b.slt a) then b else a
  | _ => if (if max then a.ult b else b.ult a) then b else a

def bodyVmin : Body := laneOp (pick32 false)
def bodyVmax : Body := laneOp (pick32 true)

def bodyVabs : Body := laneOp fun ty a _ =>
  if ty == .f32 then BitVec.ofNat 32 (signCode (fmtF32 false) (fun _ => false) a.toNat)
  else if a.msb then -a else a
def bodyVneg : Body := laneOp fun ty a _ =>
  if ty == .f32 then BitVec.ofNat 32 (signCode (fmtF32 false) (fun n => !n) a.toNat) else -a

def bodyVand : Body := laneOp fun _ a b => a &&& b
def bodyVor : Body := laneOp fun _ a b => a ||| b
def bodyVxor : Body := laneOp fun _ a b => a ^^^ b
def bodyVshl : Body := laneOp fun _ a n => a <<< n.toNat
def bodyVshr : Body := laneOp fun _ a n => a >>> n.toNat
def bodyVsar : Body := laneOp fun _ a n => a.sshiftRight (min n.toNat 32)

/-- VCLAMP's lane (R347). -/
def clampLane (ty : Ty) (a b : BitVec 32) : BitVec 32 :=
  match ty with
  | .i32 =>
    let m : Int := min b.toInt.natAbs (2 ^ 31 - 1 : Nat)
    BitVec.ofInt 32 (min (max a.toInt (-m)) m)
  | .f32 =>
    let x := f32Num a
    let m := b &&& 0x7FFFFFFF
    let y := f32Num m
    if x.isNan || y.isNan then BitVec.ofNat 32 (fmtF32 false).nanCode
    else if y.lt x then m
    else if x.lt y.flip then m ||| 0x80000000
    else a
  | _ => if a.ult b then a else b

def bodyVclamp : Body := laneOp clampLane

def bodyVcnt : Body := fun c e s =>
  let (a, _, _) := e.lanes3 s c
  e.emit s c (fun i =>
    let n := (a i).toNat
    (BitVec.ofNat 32 (match (e.w.os.extractLsb' 0 2).toNat with
      | 0 => popcountNat 32 n
      | 1 => leadingZeros 32 n
      | _ => trailingZeros 32 n), Ev.zero))

/-! ## Special functions (R349, R350) -/

/-- A correctly rounded function of a lane. -/
def laneFun (f : Num → Num) : Body := fun c e s =>
  let (a, _, _) := e.lanes3 s c
  e.emit s c (fun i => e.roundLane i [f32Num (a i)] (f (f32Num (a i))))

def bodyVrcp : Body := laneFun (divNum (Num.ofInt 1))
def bodyVrsq : Body := laneFun rsqrtNum
def bodyVsqrt : Body := laneFun sqrtNum
def bodyVexp2 : Body := laneFun exp2Num
def bodyVlog2 : Body := laneFun log2Num
def bodyVtanh : Body := fun c e s =>
  let (a, _, _) := e.lanes3 s c
  e.emit s c (fun i =>
    let (y, inexact) := tanhF32 (a i).toNat
    (BitVec.ofNat 32 y, { inexact := if inexact then 1 else 0 }))

/-! ## Comparison, selection and masks (R351 to R354) -/

/-- The bits of a mask. -/
def maskOf (f : Nat → Bool) : Mask :=
  BitVec.ofNat 32 ((List.range 32).foldl (fun a i => if f i then a + 2 ^ i else a) 0)

/-- A lane comparison under CC (R41). -/
def laneCond (ty : Ty) (cc : Nat) (a b : BitVec 32) : Bool :=
  if ty == .f32 then floatCond cc (f32Num a) (f32Num b) else intCond cc 32 a.toNat b.toNat

def bodyVcmp : Body := fun c e s =>
  let (a, b, _) := e.lanes3 s c
  let old := e.vec s c e.w.fd
  let m := maskOf (fun i =>
    if e.active s c i then
      combine (e.w.os.extractLsb' 0 2).toNat (laneCond e.w.ty e.w.sz.toNat (a i) (b i)) (old.getLsbD i)
    else !e.w.zm && old.getLsbD i)
  .done [(e.fdReg, m.setWidth 1024)] s

def bodyVsel : Body := fun c e s =>
  let (a, b, _) := e.lanes3 s c
  .done [(e.fdReg, packLanes ((List.range 32).map (fun i => if e.active s c i then a i else b i)))] s

def bodyViota : Body := fun c e s =>
  let b := (e.opB s c).setWidth 32
  e.emit s c (fun i => (b + BitVec.ofNat 32 ((List.range i).countP (e.active s c)), Ev.zero))

/-- The lowest set bit of a mask. -/
def firstBit (m : Mask) : Mask := m &&& -m

def bodyVmsk : Body := fun c e s =>
  let a := e.vec s c e.w.fa
  .done [(e.fdReg, match (e.w.os.extractLsb' 0 2).toNat with
    | 0 => (maskOf (fun i => a.extractLsb' (32 * i) 32 != 0)).setWidth 1024
    | 1 => packLanes ((List.range 32).map (fun i => if a.getLsbD i then 0xFFFFFFFF else 0))
    | _ => (firstBit (a.setWidth 32)).setWidth 1024)] s

/-! ## Moving lanes (R355) -/

/-- A lane index: a value modulo 32. -/
def laneIndex (v : Word) : Nat := v.toNat % 32

def bodyVbcast : Body := fun c e s =>
  let x : BitVec 32 :=
    if e.w.fa.cls == .vector then (e.vec s c e.w.fa).extractLsb' (32 * laneIndex (e.opB s c)) 32
    else (e.opA s c).setWidth 32
  e.emit s c (fun _ => (x, Ev.zero))

def bodyVext : Body := fun c e s =>
  let x := (e.vec s c e.w.fa).extractLsb' (32 * laneIndex (e.opB s c)) 32
  .done (e.toFd (if e.w.ty == .i32 then x.signExtend 64 else x.setWidth 64)) s

def bodyVins : Body := fun c e s =>
  let n := laneIndex (e.opB s c)
  .done [(e.fdReg, packLanes (setNth n ((e.opA s c).setWidth 32) (lanesOf (e.vec s c e.w.fd))))] s

def bodyVshuf : Body := fun c e s =>
  let (a, b, _) := e.lanes3 s c
  e.emit s c (fun i => (if (b i).msb then 0 else a ((b i).toNat % 32), Ev.zero))

def bodyVperm : Body := fun c e s =>
  let (a, b, d) := e.lanes3 s c
  e.emit s c (fun i =>
    let j := (b i).toNat % 64
    (if (b i).msb then 0 else if j < 32 then a j else d (j - 32), Ev.zero))

def bodyVrot : Body := fun c e s =>
  let (a, _, _) := e.lanes3 s c
  e.emit s c (fun i => (a ((i + laneIndex (e.opB s c)) % 32), Ev.zero))

/-! ## Reductions, scans and arguments (R356 to R358) -/

/-- The value of a fold over no lanes (R356): OP 0 SUM, 1 MAX, 2 MIN. -/
def emptyFold (ty : Ty) (op : Nat) : BitVec 32 :=
  match ty, op with
  | .i32, 1 => 0x80000000
  | .i32, 2 => 0x7FFFFFFF
  | .ui32, 2 => 0xFFFFFFFF
  | .f32, 1 => 0xFF800000
  | .f32, 2 => 0x7F800000
  | _, _ => 0

/-- A lone lane of a fold: a NaN is delivered canonical (R90).
DEDUCED, log entry 24. -/
def aloneLane (ty : Ty) (a : BitVec 32) : BitVec 32 :=
  if ty == .f32 && (f32Num a).isNan then BitVec.ofNat 32 (fmtF32 false).nanCode else a

/-- One step of a fold; `k` numbers the additions, for the draws of a rounding (R356, R357). -/
def Entry.combine2 (e : Entry) (op : Nat) (k : Nat) (a b : BitVec 32) : BitVec 32 × Ev :=
  if op = 0 then
    if e.w.ty == .f32 then
      let (x, y) := (f32Num a, f32Num b)
      e.roundLane k [x, y] (addNum e.rm x y)
    else (a + b, Ev.zero)
  else (pick32 (op == 1) e.w.ty a b, Ev.zero)

/-- A fold of lanes in ascending order: the results after each lane, newest first. -/
def Entry.foldLanes (e : Entry) (op : Nat) : List (BitVec 32) → Nat → List (BitVec 32 × Ev) →
    List (BitVec 32 × Ev)
  | [], _, acc => acc
  | x :: xs, k, acc =>
    e.foldLanes op xs (k + 1)
      ((match acc with
        | [] => (aloneLane e.w.ty x, Ev.zero)
        | r :: _ => e.combine2 op k r.1 x) :: acc)

/-- One level of the pairwise tree: adjacent pairs added, left first. -/
def Entry.treeLevel (e : Entry) : Nat → List (BitVec 32) → List (BitVec 32 × Ev)
  | k, x :: y :: rest => e.combine2 0 k x y :: e.treeLevel (k + 1) rest
  | _, _ => []

/-- The tree of R262 over 32 leaves: the sum and its events. -/
def Entry.treeSum (e : Entry) : Nat → Nat → List (BitVec 32) → Ev → BitVec 32 × Ev
  | 0, _, xs, ev => (xs.headD 0, ev)
  | n + 1, k, xs, ev =>
    let l := e.treeLevel k xs
    e.treeSum n (k + l.length) (l.map (·.1)) (ev.add (evSum l))

/-- The active lanes of a, ascending. -/
def Entry.activeLanes (e : Entry) (s : State) (c : Fin 11) : List Nat :=
  (List.range 32).filter (e.active s c)

def bodyVred : Body := fun c e s =>
  let (a, _, _) := e.lanes3 s c
  let op := (e.w.os.extractLsb' 0 2).toNat
  let xs := (e.activeLanes s c).map a
  if op = 0 && e.w.ty != .f32 then
    .done (e.toFd (BitVec.ofInt 64 (xs.foldl (fun t (x : BitVec 32) =>
      t + (if e.w.ty == .i32 then x.toInt else x.toNat)) (0 : Int)))) s
  else
    let (r, ev) :=
      if xs.isEmpty then (emptyFold e.w.ty op, Ev.zero)
      else if op = 0 && !e.w.os.getLsbD 2 then
        e.treeSum 5 0 ((List.range 32).map (fun i => if e.active s c i then a i else 0)) Ev.zero
      else
        let rs := e.foldLanes op xs 0 []
        ((rs.headD (0, Ev.zero)).1, evSum rs)
    .done (e.toFd (if e.w.ty == .i32 then r.signExtend 64 else r.setWidth 64)) (s.count ev)

def bodyVscan : Body := fun c e s =>
  let (a, _, _) := e.lanes3 s c
  let op := (e.w.os.extractLsb' 0 2).toNat
  let excl := e.w.os.getLsbD 2
  let act := e.activeLanes s c
  let folded := (e.foldLanes op (if excl then act.dropLast.map a else act.map a) 0 []).reverse
  let rs := if excl then (emptyFold e.w.ty op, Ev.zero) :: folded else folded
  e.emit s c (fun i => (rs[(List.range i).countP (e.active s c)]?).getD (0, Ev.zero))

/-- Whether lane value `a` goes before `b` in VARGM's search. -/
def argBetter (ty : Ty) (min : Bool) (a b : BitVec 32) : Bool :=
  match ty with
  | .f32 => if min then (f32Num a).below (f32Num b) else (f32Num b).below (f32Num a)
  | .i32 => if min then a.slt b else b.slt a
  | _ => if min then a.ult b else b.ult a

def bodyVargm : Body := fun c e s =>
  let (a, _, _) := e.lanes3 s c
  let cand := (e.activeLanes s c).filter (fun i => !(e.w.ty == .f32 && (f32Num (a i)).isNan))
  let best := cand.foldl (fun (b : Option Nat) i =>
    match b with
    | none => some i
    | some j => if argBetter e.w.ty (e.w.os.getLsbD 0) (a i) (a j) then some i else some j) none
  .done (e.toFd (match best with | some i => BitVec.ofNat 64 i | none => -1)) s

/-! ## Conversions, packing and dot products (R359 to R362) -/

/-- The integer types of a lane: signed, and the width (R88, R359). -/
def laneInt (ty : Ty) : Bool × Nat := if ty = .i4 then (true, 4) else (ty.signed, 8 * ty.bytes)

def bodyVcvt : Body := fun c e s =>
  let (a, _, _) := e.lanes3 s c
  let src := (e.w.os.extractLsb' 6 2).toNat
  e.emit s c (fun i =>
    let x := match src with
      | 0 => f32Num (a i)
      | 1 => Num.ofInt (a i).toInt
      | _ => Num.ofInt ((a i).toNat : Nat)
    if isFloatElem e.w.ty then
      let (code, ev) := roundTo (elemFmt e.w.ty e.fmt e.sat) e.rm (e.draw i) x
      (BitVec.ofNat 32 code, ev)
    else
      let (signed, w) := laneInt e.w.ty
      let (r, ev) := toIntType signed w e.rm (e.draw i) x
      (BitVec.ofInt 32 r, ev))

/-- The part of a packed register FB names (R360). -/
def Entry.part (e : Entry) (s : State) (c : Fin 11) (w : Nat) : Nat := (e.opB s c).toNat % (32 / w)

def bodyVpack : Body := fun c e s =>
  let w := elemWidth e.w.ty e.fmt
  let q := e.part s c w
  let (a, _, _) := e.lanes3 s c
  let codes := (List.range 32).map (fun k =>
    narrow e.w.ty e.fmt e.sat w e.rm (e.draw k) none (a k))
  let packed := codes.zipIdx.foldl (fun t (x, k) => t + x.1 % 2 ^ w * 2 ^ (w * k)) 0
  .done [(e.fdReg, setField (e.vec s c e.w.fd) (w * 32 * q) (w * 32) packed)] (s.count (evSum codes))

def bodyVunpk : Body := fun c e s =>
  let w := elemWidth e.w.ty e.fmt
  let q := e.part s c w
  let a := (e.vec s c e.w.fa).toNat / 2 ^ (w * 32 * q)
  let ls := (List.range 32).map (fun k => widen e.w.ty e.fmt w (a / 2 ^ (w * k) % 2 ^ w) none)
  .done [(e.fdReg, packLanes (ls.map (·.1)))] (s.count (evSum ls))

/-- The integer dot product of two lanes of `w`-bit elements (R361). -/
def dotInt (signed : Bool) (w : Nat) (a b : BitVec 32) : Int :=
  (List.range (32 / w)).foldl (fun t k =>
    let x := a.toNat / 2 ^ (w * k) % 2 ^ w
    let y := b.toNat / 2 ^ (w * k) % 2 ^ w
    t + (if signed then signedOf w x * signedOf w y else (x * y : Nat))) 0

def bodyVdot : Body := fun c e s =>
  let (a, b, d) := e.lanes3 s c
  e.emit s c (fun i =>
    if isFloatElem e.w.ty then
      let f := floatFmt e.w.ty false
      let lo := fun (x : BitVec 32) => f.decode (x.toNat % 2 ^ 16)
      let hi := fun (x : BitVec 32) => f.decode (x.toNat / 2 ^ 16)
      let z := f32Num (d i)
      let x := addNum e.rm (addNum e.rm z (mulNum (lo (a i)) (lo (b i)))) (mulNum (hi (a i)) (hi (b i)))
      e.roundLane i [z, lo (a i), lo (b i), hi (a i), hi (b i)] x
    else
      let (signed, w) := laneInt e.w.ty
      (d i + BitVec.ofInt 32 (dotInt signed w (a i) (b i)), Ev.zero))

def bodyVqnt : Body := fun c e s =>
  match e.fmt with
  | none => .done [] s
  | some f =>
    let xs := lanesOf (e.vec s c e.w.fa)
    let l := f.desc.block
    let scales := blockScales f l xs
    let codes := xs.zipIdx.map (fun (x, k) =>
      roundTo f.desc.fmt e.rm (e.draw k) (unscale (f32Num x) (((scales[k / l]?).getD (0, none)).2)))
    let bits := codes.zipIdx.foldl (fun t (p, k) =>
      t + p.1 % 2 ^ f.desc.width * 2 ^ (f.desc.width * k)) 0
    let sbits := scales.zipIdx.foldl (fun t (p, j) => t + p.1 * 2 ^ (992 + 8 * j)) 0
    .done [(e.fdReg, BitVec.ofNat 1024 (bits + sbits))] (s.count (evSum codes))

/-! ## Outlier conversion (R363, R364) -/

/-- VCVTO's lane: the BF16 element it diverts, or the element it keeps, with the events. -/
def Entry.cvtoLane (e : Entry) (t : Num) (i : Nat) (a : BitVec 32) : (Option Nat × BitVec 32) × Ev :=
  let x := f32Num a
  if t.lt x.abs then
    let (side, ev) := roundTo (fmtBF16 false) .rne 0 x
    ((some side, 0), ev.add { outliers := 1 })
  else
    let (code, ev) := roundTo (elemFmt .nf e.fmt e.sat) e.rm (e.draw i) x
    ((none, BitVec.ofNat 32 code), ev)

def bodyVcvto : Body := fun c e s =>
  let p := e.opB s c
  let t := (f32Num ((e.second s c e.w.fb).setWidth 32)).abs
  if p.toNat % 2 != 0 then .trap Cause.misaligned p none
  else if !s.spadOk p.toNat 64 then .trap Cause.nearBounds p none
  else
    let (a, _, _) := e.lanes3 s c
    let rs := (List.range 32).map (fun i => e.cvtoLane t i (a i))
    let side := rs.filterMap (fun r => r.1.1)
    let keys := s.nearKeys p.toNat (2 * side.length)
    let data := side.flatMap (bytesOfNat 2)
    let s0 := s.count (evSum rs)
    let s1 := if s.spadNow c true keys then s0.writeKeys ⟨c.1, .s, true⟩ keys data
      else s0.launchFlight c e
        { e.flight s0 c (.store data) keys none .ready none (keys.headD 0) with near := true }
    .done
      [(e.fdReg, packLanes (rs.map (fun r => r.1.2))),
       (.m (4 + (e.w.os.extractLsb' 6 2).setWidth 3),
        (maskOf (fun i => match rs[i]? with | some r => r.1.1.isSome | none => false)).setWidth 1024),
       ((regAt e.depth e.w.fb).getD (.g 0), (p + BitVec.ofNat 64 (2 * side.length)).setWidth 1024)] s1

/-! ## Routing tags (R365) -/

def bodyVtag : Body := fun c e s =>
  let (a, _, _) := e.lanes3 s c
  let b := ((e.opB s c).setWidth 32).toInt
  .done [(e.fdReg, packLanes ((List.range 32).map (fun i =>
    let x := (a i).toInt + b
    if !e.active s c i || (a i).msb || x < 0 || 254 < x then 0xFF else BitVec.ofInt 32 x)))] s

/-! ## The meanings -/

/-- VADD (R346). -/
def execVadd (w : Fields) (s : State) : Host.Outcome State Fault Refusal :=
  issue .vadd w bodyVadd s

/-- VSUB (R346). -/
def execVsub (w : Fields) (s : State) : Host.Outcome State Fault Refusal :=
  issue .vsub w bodyVsub s

/-- VMUL (R346). -/
def execVmul (w : Fields) (s : State) : Host.Outcome State Fault Refusal :=
  issue .vmul w bodyVmul s

/-- VFMA (R346). -/
def execVfma (w : Fields) (s : State) : Host.Outcome State Fault Refusal :=
  issue .vfma w bodyVfma s

/-- VFMS (R346). -/
def execVfms (w : Fields) (s : State) : Host.Outcome State Fault Refusal :=
  issue .vfms w bodyVfms s

/-- VRCP (R349). -/
def execVrcp (w : Fields) (s : State) : Host.Outcome State Fault Refusal :=
  issue .vrcp w bodyVrcp s

/-- VRSQ (R349). -/
def execVrsq (w : Fields) (s : State) : Host.Outcome State Fault Refusal :=
  issue .vrsq w bodyVrsq s

/-- VSQRT (R349). -/
def execVsqrt (w : Fields) (s : State) : Host.Outcome State Fault Refusal :=
  issue .vsqrt w bodyVsqrt s

/-- VEXP2 (R349). -/
def execVexp2 (w : Fields) (s : State) : Host.Outcome State Fault Refusal :=
  issue .vexp2 w bodyVexp2 s

/-- VLOG2 (R349). -/
def execVlog2 (w : Fields) (s : State) : Host.Outcome State Fault Refusal :=
  issue .vlog2 w bodyVlog2 s

/-- VTANH (R350). -/
def execVtanh (w : Fields) (s : State) : Host.Outcome State Fault Refusal :=
  issue .vtanh w bodyVtanh s

/-- VMIN (R346). -/
def execVmin (w : Fields) (s : State) : Host.Outcome State Fault Refusal :=
  issue .vmin w bodyVmin s

/-- VMAX (R346). -/
def execVmax (w : Fields) (s : State) : Host.Outcome State Fault Refusal :=
  issue .vmax w bodyVmax s

/-- VABS (R346). -/
def execVabs (w : Fields) (s : State) : Host.Outcome State Fault Refusal :=
  issue .vabs w bodyVabs s

/-- VNEG (R346). -/
def execVneg (w : Fields) (s : State) : Host.Outcome State Fault Refusal :=
  issue .vneg w bodyVneg s

/-- VAND (R348). -/
def execVand (w : Fields) (s : State) : Host.Outcome State Fault Refusal :=
  issue .vand w bodyVand s

/-- VOR (R348). -/
def execVor (w : Fields) (s : State) : Host.Outcome State Fault Refusal :=
  issue .vor w bodyVor s

/-- VXOR (R348). -/
def execVxor (w : Fields) (s : State) : Host.Outcome State Fault Refusal :=
  issue .vxor w bodyVxor s

/-- VSHL (R348). -/
def execVshl (w : Fields) (s : State) : Host.Outcome State Fault Refusal :=
  issue .vshl w bodyVshl s

/-- VSHR (R348). -/
def execVshr (w : Fields) (s : State) : Host.Outcome State Fault Refusal :=
  issue .vshr w bodyVshr s

/-- VSAR (R348). -/
def execVsar (w : Fields) (s : State) : Host.Outcome State Fault Refusal :=
  issue .vsar w bodyVsar s

/-- VCMP (R351). -/
def execVcmp (w : Fields) (s : State) : Host.Outcome State Fault Refusal :=
  issue .vcmp w bodyVcmp s

/-- VSEL (R352). -/
def execVsel (w : Fields) (s : State) : Host.Outcome State Fault Refusal :=
  issue .vsel w bodyVsel s

/-- VBCAST (R355). -/
def execVbcast (w : Fields) (s : State) : Host.Outcome State Fault Refusal :=
  issue .vbcast w bodyVbcast s

/-- VEXT (R355). -/
def execVext (w : Fields) (s : State) : Host.Outcome State Fault Refusal :=
  issue .vext w bodyVext s

/-- VINS (R355). -/
def execVins (w : Fields) (s : State) : Host.Outcome State Fault Refusal :=
  issue .vins w bodyVins s

/-- VSHUF (R355). -/
def execVshuf (w : Fields) (s : State) : Host.Outcome State Fault Refusal :=
  issue .vshuf w bodyVshuf s

/-- VPERM (R355). -/
def execVperm (w : Fields) (s : State) : Host.Outcome State Fault Refusal :=
  issue .vperm w bodyVperm s

/-- VROT (R355). -/
def execVrot (w : Fields) (s : State) : Host.Outcome State Fault Refusal :=
  issue .vrot w bodyVrot s

/-- VRED (R356). -/
def execVred (w : Fields) (s : State) : Host.Outcome State Fault Refusal :=
  issue .vred w bodyVred s

/-- VSCAN (R357). -/
def execVscan (w : Fields) (s : State) : Host.Outcome State Fault Refusal :=
  issue .vscan w bodyVscan s

/-- VCVT (R359). -/
def execVcvt (w : Fields) (s : State) : Host.Outcome State Fault Refusal :=
  issue .vcvt w bodyVcvt s

/-- VCVTO (R363). -/
def execVcvto (w : Fields) (s : State) : Host.Outcome State Fault Refusal :=
  issue .vcvto w bodyVcvto s

/-- VPACK (R360). -/
def execVpack (w : Fields) (s : State) : Host.Outcome State Fault Refusal :=
  issue .vpack w bodyVpack s

/-- VUNPK (R360). -/
def execVunpk (w : Fields) (s : State) : Host.Outcome State Fault Refusal :=
  issue .vunpk w bodyVunpk s

/-- VDOT (R361). -/
def execVdot (w : Fields) (s : State) : Host.Outcome State Fault Refusal :=
  issue .vdot w bodyVdot s

/-- VTAG (R365). -/
def execVtag (w : Fields) (s : State) : Host.Outcome State Fault Refusal :=
  issue .vtag w bodyVtag s

/-- VARGM (R358). -/
def execVargm (w : Fields) (s : State) : Host.Outcome State Fault Refusal :=
  issue .vargm w bodyVargm s

/-- VIOTA (R353). -/
def execViota (w : Fields) (s : State) : Host.Outcome State Fault Refusal :=
  issue .viota w bodyViota s

/-- VMSK (R354). -/
def execVmsk (w : Fields) (s : State) : Host.Outcome State Fault Refusal :=
  issue .vmsk w bodyVmsk s

/-- VCNT (R348). -/
def execVcnt (w : Fields) (s : State) : Host.Outcome State Fault Refusal :=
  issue .vcnt w bodyVcnt s

/-- VCLAMP (R347). -/
def execVclamp (w : Fields) (s : State) : Host.Outcome State Fault Refusal :=
  issue .vclamp w bodyVclamp s

/-- VQNT (R362). -/
def execVqnt (w : Fields) (s : State) : Host.Outcome State Fault Refusal :=
  issue .vqnt w bodyVqnt s

end Sys2Proof.Machine
end

