-- ==== Sys2Proof/Machine/Residual.lean ====
section
/-! DEFINITION. Executing from the hamper (R297, R302, R344), and the steps of a context that no
instruction makes: taking a waiting fault (R280, R434, R437), a stall's end (R32), an idle count's end
(R454) and a fill of the instruction cache (R26, R28). -/

namespace Sys2Proof.Machine

/-- The meaning of an instruction that can be deferred (R296, R299). -/
def bodyOf (op : Opcode) : Option Body :=
  match op with
  | .add => some bodyAdd
  | .sub => some bodySub
  | .mul => some bodyMul
  | .mulh => some bodyMulh
  | .mulhu => some bodyMulhu
  | .div => some bodyDiv
  | .divu => some bodyDivu
  | .rem => some bodyRem
  | .remu => some bodyRemu
  | .and => some bodyAnd
  | .or => some bodyOr
  | .xor => some bodyXor
  | .andn => some bodyAndn
  | .shl => some bodyShl
  | .shr => some bodyShr
  | .sar => some bodySar
  | .rot => some bodyRot
  | .min => some bodyMin
  | .max => some bodyMax
  | .minu => some bodyMinu
  | .maxu => some bodyMaxu
  | .clz => some bodyClz
  | .ctz => some bodyCtz
  | .popc => some bodyPopc
  | .bext => some bodyBext
  | .bins => some bodyBins
  | .sext => some bodySext
  | .zext => some bodyZext
  | .mov => some bodyMov
  | .movl => some bodyMovl
  | .sel => some bodySel
  | .cmp => some bodyCmp
  | .pset => some bodyPset
  | .pmov => some bodyPmov
  | .addr => some bodyAddr
  | .fadd => some bodyFadd
  | .fsub => some bodyFsub
  | .fmul => some bodyFmul
  | .ffma => some bodyFfma
  | .fdiv => some bodyFdiv
  | .fsqrt => some bodyFsqrt
  | .fmin => some bodyFmin
  | .fmax => some bodyFmax
  | .fabs => some bodyFabs
  | .fneg => some bodyFneg
  | .fcmp => some bodyFcmp
  | .fcvt => some bodyFcvt
  | .fclass => some bodyFclass
  | .ld => some bodyLd
  | .st => some bodySt
  | .ldv => some bodyLdv
  | .stv => some bodyStv
  | .ldx => some bodyLdx
  | .stx => some bodyStx
  | .atom => some bodyAtom
  | .cas => some bodyCas
  | .vadd => some bodyVadd
  | .vsub => some bodyVsub
  | .vmul => some bodyVmul
  | .vfma => some bodyVfma
  | .vfms => some bodyVfms
  | .vrcp => some bodyVrcp
  | .vrsq => some bodyVrsq
  | .vsqrt => some bodyVsqrt
  | .vexp2 => some bodyVexp2
  | .vlog2 => some bodyVlog2
  | .vtanh => some bodyVtanh
  | .vmin => some bodyVmin
  | .vmax => some bodyVmax
  | .vabs => some bodyVabs
  | .vneg => some bodyVneg
  | .vand => some bodyVand
  | .vor => some bodyVor
  | .vxor => some bodyVxor
  | .vshl => some bodyVshl
  | .vshr => some bodyVshr
  | .vsar => some bodyVsar
  | .vcmp => some bodyVcmp
  | .vsel => some bodyVsel
  | .vbcast => some bodyVbcast
  | .vext => some bodyVext
  | .vins => some bodyVins
  | .vshuf => some bodyVshuf
  | .vperm => some bodyVperm
  | .vrot => some bodyVrot
  | .vred => some bodyVred
  | .vscan => some bodyVscan
  | .vcvt => some bodyVcvt
  | .vcvto => some bodyVcvto
  | .vpack => some bodyVpack
  | .vunpk => some bodyVunpk
  | .vdot => some bodyVdot
  | .vtag => some bodyVtag
  | .vargm => some bodyVargm
  | .viota => some bodyViota
  | .vmsk => some bodyVmsk
  | .vcnt => some bodyVcnt
  | .vclamp => some bodyVclamp
  | .vqnt => some bodyVqnt
  | _ => none

/-- What an executed entry writes in each destination that none of its accesses in flight will write: its
result, in the cycle it is ready, or nothing where the register has none. -/
def State.landDests (s : State) (c : Fin 11) (h : Entry) (after : Nat) (res : List (RegName × Vec)) : State :=
  let flying := fun (r : RegName) => s.flights.any (fun f => f.id == h.seq && f.dest == some r)
  s.modCtx c (fun x => h.dests.foldl (fun x r =>
    if flying r then x
    else match res.find? (fun p => p.1 == r) with
      | some p => if after = 0 then x.land r p.2 else { x with settling := x.settling ++ [(s.now + after, r, p.2)] }
      | none => (x.clearPending r).wake) x.wake)

/-- An entry leaves the hamper. -/
def State.popHamper (s : State) (c : Fin 11) : State :=
  s.modCtx c (fun x => { x with hamper := x.hamper.tail })

/-- A deferred instruction that faults (R302): its destinations are zeroed, a group that it pushes among them, and the
fault waits. -/
def State.residualFault (s : State) (c : Fin 11) (h : Entry) (cause : BitVec 8) (info : Word)
    (xlat : Option Word) : State :=
  let s1 := (s.popHamper c).popClaims c h false
  let s2 := match h.push with | some p => s1.push c p 0 | none => s1
  (s2.landDests c h 0 (h.dests.map (fun r => (r, 0)))).lateFault c
    ⟨Cause.residual, h.pc, xlat, some (cause.setWidth 64, info), false, 0⟩

/-- The oldest entry executes (R297): with its guard false it has no effect; a fault makes it a
RESIDUAL_FAULT with zeroed destinations (R302). -/
def State.runEntry (s : State) (c : Fin 11) (h : Entry) : State :=
  if (h.reg s c (guardReg h.w)).getLsbD 0 == h.w.guard.neg then
    ((s.popHamper c).popClaims c h false).landDests c h 0 []
  else
    match bodyOf h.op with
    | none => s
    | some body =>
      match body c h s with
      | .done res s1 =>
        let (res', s2) := (((s1.popHamper c).popClaims c h false).pushResult c h res)
        (s2.occupyDivider h).landDests c h (resultCycles h.op h.w) res'
      | .trap cause info xlat => s.residualFault c h cause info xlat
      | .trapIn s1 cause info xlat => s1.residualFault c h cause info xlat
      | .stay s1 => s1
      | .jump _ _ _ => s
      | .whole s1 => s1

/-! ## The meanings -/

/-- HAMPER_ENTRY_EXECUTE (R280, R297): of a live context outside its handler that has no fault to take first, whose
oldest entry is ready. -/
def execHamperEntryExecute (c : Fin 11) (s : State) : Host.Outcome State Fault Refusal :=
  powered s (
    if (s.ctx c).live && s.hamperReady c then
      match (s.ctx c).hamper.head? with
      | some h => s.runEntry c h
      | none => s
    else s)

/-- The waiting fault a context takes next, and the others in order (R436, R437). -/
def Ctx.nextFault (x : Ctx) : Option (WaitingFault × List WaitingFault) :=
  let due := fun (f : WaitingFault) => !x.inh || f.inHandler
  (x.faults.find? due).map (fun f => (f, x.faults.eraseP due))

/-- TAKE_TRAP (R280, R434, R437): the oldest waiting fault is taken before the next instruction. -/
def execTakeTrap (c : Fin 11) (s : State) : Host.Outcome State Fault Refusal :=
  powered s (
    let x := s.ctx c
    if x.live && s.atBoundary c then
      match x.nextFault with
      | some (f, rest) =>
        (s.modCtx c (fun x => { x with faults := rest })).takeTrap c f.cause x.pc f.info f.xlat f.inner
      | none => s
    else s)

/-- Whether a context's hints are over (R32): its delay has passed, and another context has taken the slot it yielded, if
one may issue. -/
def State.hintOver (s : State) (c : Fin 11) : Bool :=
  (s.ctx c).cstate == .hinted && decide ((s.ctx c).stallUntil ≤ s.now)
    && !((s.ctx c).yielded && allCtx.any s.mayIssue)

/-- HINT_STALL_EXPIRY (R32): the context may issue again. -/
def execHintStallExpiry (c : Fin 11) (s : State) : Host.Outcome State Fault Refusal :=
  powered s (
    if s.hintOver c then
      s.modCtx c (fun x => { x with cstate := .ready, yielded := false })
    else s)

/-- IDLE_COUNT_EXPIRY (R454): the context's IDLE completes with 0, unless its party is being halted. -/
def execIdleCountExpiry (c : Fin 11) (s : State) : Host.Outcome State Fault Refusal :=
  powered s (
    match (s.ctx c).idle with
    | some i =>
      if !i.woken && !s.party.preempting && decide (i.until' ≤ s.now) then
        s.modCtx c (fun x => { x with idle := some ⟨0, false⟩ })
      else s
    | none => s)

/-- ICACHE_FILL (R26, R28, R29): the lines of an instruction are evicted, and filled and expanded again; those of a
page that is not present stay missing, and the context that comes to them parks. -/
def execIcacheFill (c : Fin 11) (addr : Word) (s : State) : Host.Outcome State Fault Refusal :=
  powered s (
    if (s.ctx c).live && addr.toNat % 4 == 0 then
      match (s.evictLines addr.toNat 12).fill c none addr.toNat with
      | (.ok w len p h, s1) => s1.icachePut ⟨s.asid, addr, len, w, h, p⟩
      | (.absent _ _, s1) => s1
    else s)

end Sys2Proof.Machine
end

