-- ==== Sys2Proof/Machine/Rows.lean ====
section
/-! DEFINITION. The row path (R139 to R179): the six row instructions, the queue, refresh and debt,
disturbance, parity and cell errors, retraining. -/

namespace Sys2Proof.Machine

/-! ## Banks and layers -/

/-- The banks of a layer (R140). -/
def layerBanks (l : Nat) : List Nat := (List.range 4).map (4 * l + ·)

/-- Whether a bank is physically open (R157): from its RACT's start until tRP after its close. -/
def RowPath.physOpen (r : RowPath) (now b : Nat) : Bool :=
  (r.bank b).row.isSome || decide (now < (r.bank b).preDone)

def RowPath.layerOpen (r : RowPath) (now l : Nat) : Bool := (layerBanks l).any (r.physOpen now)

/-- Whether a refresh of a layer is running. -/
def RowLayer.refreshing (l : RowLayer) (now : Nat) : Bool :=
  match l.refreshEnd with | some t => decide (now < t) | none => false

/-- Whether the bus is retraining. -/
def RowPath.training (r : RowPath) (now : Nat) : Bool :=
  match r.trainEnd with | some t => decide (now < t) | none => false

/-- Whether the sequencer of the rank's quadrant is being reset (R174). -/
def State.seqResetting (s : State) : Bool :=
  (s.seqs.toList.getD (quadrantOf s.party.site) ⟨0, false, 0, 0⟩).resetting

/-! ## Issuing row commands (R142 to R149) -/

/-- A row command of an instruction. -/
def Entry.rowCommand (e : Entry) (s : State) (c : Fin 11) (kind : RowCmdKind) (data : List Byte) : State :=
  s.rowEnqueue (.ctx c e.pc) kind data (s.ctx c).inh

/-- Whether a RACT to a layer waits at issue (R145, R159): from a debt of 8 or a burst until the debt
is 0. -/
def State.mustStall (s : State) (c : Fin 11) (l : Nat) : Bool :=
  let k := s.rows.layer l
  k.burst || k.debt = 8 || (decide (0 < k.debt) && k.stalled.contains c)

def bodyRact : Body := fun c e s =>
  let b := e.opA s c
  let row := e.opB s c
  if s.rows.queue.length ≥ rowQueueSize then .stay s
  else if 15 < b.toNat then .trap Cause.nearBounds b none
  else if s.rowWindow ≤ row.toNat then .trap Cause.nearBounds row none
  else if (s.rows.bank b.toNat).view.isSome then .trap Cause.bankBusy b none
  else if s.mustStall c (b.toNat / 4) then
    .stay (s.modRows (·.modLayer (b.toNat / 4) (fun l => { l with stalled := c :: l.stalled.erase c })))
  else
    let s1 := s.modRows (fun r =>
      (r.modBank b.toNat (fun k => { k with view := some row.toNat, evicted := false })).modLayer
        (b.toNat / 4) (fun l => { l with stalled := l.stalled.erase c }))
    .done [] (e.rowCommand s1 c (.act b.toNat row.toNat) [])

/-- The other side of a transfer, checked as R143 orders; the fault it earns otherwise. -/
def Entry.rowPlace (e : Entry) (s : State) (c : Fin 11) : RowPlace ⊕ (BitVec 8 × Word) :=
  let v := e.opB s c
  match e.w.os.toNat % 4 with
  | 0 =>
    if v.toNat % 1024 != 0 then .inr (Cause.misaligned, v)
    else if !s.spadOk v.toNat 1024 then .inr (Cause.nearBounds, v)
    else .inl (.spad v.toNat)
  | 1 => if 63 < v.toNat then .inr (Cause.nearBounds, v) else .inl (.slot v.toNat)
  | _ => .inl (.vreg e.w.fd.num.toNat e.w.hints.tr)

/-- What RCON and RWB share: the bank, the place and the open row (R143); a full queue makes them wait before
anything is checked.
DESIGN CHOICE, log entry 134. -/
def Entry.rowTransfer (e : Entry) (s : State) (c : Fin 11) (go : Nat → RowPlace → Act) : Act :=
  let b := e.opA s c
  if s.rows.queue.length ≥ rowQueueSize then .stay s
  else if 15 < b.toNat || s.rowWindow = 0 then .trap Cause.nearBounds b none
  else
    match e.rowPlace s c with
    | .inr f => .trap f.1 f.2 none
    | .inl p =>
      if (s.rows.bank b.toNat).view.isNone then .trap Cause.rowClosed b none else go b.toNat p

/-- The eight registers of a row's group (R146). -/
def rowGroup (n : Nat) : List RegName := (List.range 8).map (fun k => .v (BitVec.ofNat 5 (n + k)))

def bodyRcon : Body := fun c e s =>
  e.rowTransfer s c (fun b p =>
    let s1 := match p with
      | .vreg n tr => s.modCtx c (·.expect tr (rowGroup n))
      | _ => s
    .done [] (e.rowCommand s1 c (.con b p) []))

def bodyRwb : Body := fun c e s =>
  e.rowTransfer s c (fun b p =>
    let data := match p with
      | .vreg n _ => (rowGroup n).flatMap (fun r => bytesOfNat 128 (e.reg s c r).toNat)
      | _ => []
    .done [] (e.rowCommand s c (.wb b p) data))

def bodyRpre : Body := fun c e s =>
  let b := e.opA s c
  if s.rows.queue.length ≥ rowQueueSize then .stay s
  else if e.w.os.getLsbD 0 then
    let bs := s.rows.viewOpen
    .done [] (e.rowCommand (s.modRows (·.closeView bs)) c (.pre bs) [])
  else if 15 < b.toNat then .trap Cause.nearBounds b none
  else
    let bs := if (s.rows.bank b.toNat).view.isSome then [b.toNat] else []
    .done [] (e.rowCommand (s.modRows (·.closeView bs)) c (.pre bs) [])

/-- RREF (R149); of several open banks of its layer the fault names the lowest.
DESIGN CHOICE, log entry 127. -/
def bodyRref : Body := fun c e s =>
  let l := e.opA s c
  if s.rows.queue.length ≥ rowQueueSize then .stay s
  else if 3 < l.toNat then .trap Cause.nearBounds l none
  else
    match (layerBanks l.toNat).find? (fun b => (s.rows.bank b).view.isSome) with
    | some b => .trap Cause.bankBusy (BitVec.ofNat 64 b) none
    | none => .done [] (e.rowCommand s c (.ref l.toNat) [])

/-! ## Status words (R150 to R153) -/

/-- A field of a 64-bit word at a bit. -/
def wordField (lo v : Nat) : Word := BitVec.ofNat 64 (v * 2 ^ lo)

/-- The bank status word (R151). -/
def State.bankStatus (s : State) (b : Nat) : Word :=
  let k := s.rows.bank b
  let opencc := if k.row.isSome then min (s.now - k.openedAt) 0xFFFFFFFF else 0
  wordField 32 opencc ||| wordField 18 (if k.evicted then 1 else 0)
    ||| wordField 17 (if k.dist || s.now < k.nbrEnd then 1 else 0)
    ||| wordField 16 (if k.view.isSome then 1 else 0) ||| wordField 0 (k.view.getD 0)

/-- The layer status word (R152). -/
def State.layerStatus (s : State) (l : Nat) : Word :=
  let k := s.rows.layer l
  k.refs.setWidth 64 <<< 32 ||| wordField 7 (if k.burst then 1 else 0)
    ||| wordField 6 (if k.refreshEnd.isSome then 1 else 0) ||| wordField 0 k.debt

/-- The path status word (R153). -/
def State.pathStatus (s : State) : Word :=
  wordField 48 (min s.rows.distCount 0xFFFF) ||| wordField 32 (min s.rows.evictCount 0xFFFF)
    ||| wordField 16 s.rows.retrains.toNat ||| wordField 8 (if s.rows.narrow then 1 else 0)
    ||| wordField 0 (min s.rows.queue.length 16)

def bodyRstat : Body := fun c e s =>
  let i := e.opA s c
  if !s.rows.queue.isEmpty || !s.rows.running.isEmpty then .stay s
  else
    match e.w.os.toNat with
    | 0 => if 15 < i.toNat then .trap Cause.nearBounds i none else .done (e.toFd (s.bankStatus i.toNat)) s
    | 1 => if 3 < i.toNat then .trap Cause.nearBounds i none else .done (e.toFd (s.layerStatus i.toNat)) s
    | 2 => .done (e.toFd ((s.rows.cellLog[i.toNat]?).getD 0)) s
    | 3 => .done (e.toFd ((s.rows.xferLog[i.toNat]?).getD 0)) s
    | _ => .done (e.toFd s.pathStatus) s

/-! ## Failures of a row command -/

/-- A failure of a stop in progress: its STATUS, REASON and INFO, the first one kept (R220, R223, R224). -/
def State.failStop (s : State) (run : Fin 4) (stop : BitVec 10) (status : BitVec 8) (reason : BitVec 4)
    (info : Word) : State :=
  ({ s with graph := { s.graph with inProgress := s.graph.inProgress.map (fun (p : StopRun) =>
      if p.run == run && p.stop == stop && p.fail.isNone then
        { p with fail := some (status, reason, info) } else p) } }).failRuns

/-- The address a stop's row transfer reads from. -/
def State.stopHeldAt (s : State) (run : Fin 4) (stop : BitVec 10) : Word :=
  ((s.graph.inProgress.find? (fun p => p.run == run && p.stop == stop)).map (·.heldAt)).getD 0

/-- A row command's failure reaches its owner (R147, R163, R165). -/
def State.failRow (s : State) (cmd : RowCmd) (cause : BitVec 8) (status : BitVec 8) : State :=
  match cmd.owner with
  | .ctx c pc => s.lateFault c ⟨cause, pc, none, none, cmd.inHandler, 0⟩
  | .stop run stop => s.failStop run stop status 0 (s.stopHeldAt run stop)
  | .sequencer => s

/-- Who a row transfer's accesses are made for. -/
def State.rowAgent (s : State) (cmd : RowCmd) (near : Bool) : Agent :=
  match cmd.owner with
  | .ctx c _ => ⟨c.1, .r, near⟩
  | .stop run _ => ⟨(s.graph.runs.get run).c.1, .r, near⟩
  | .sequencer => ⟨11, .r, near⟩

/-! ## Starting a command (R155, R156) -/

/-- Whether a slot lies among `n` slots from one on, modulo 64 (R375, R399). -/
def inSlots (first n slot : Nat) : Bool := decide ((slot + 64 - first % 64) % 64 < n)

/-- Whether a tile of `steps` steps is read from a slot (R375). -/
def TileSrc.readsSlot (t : TileSrc) (steps slot : Nat) : Bool :=
  match t with | .slots f => inSlots f (16 * steps) slot | _ => false

def EngineOp.readsSlot (q : EngineOp) (slot : Nat) : Bool :=
  match q.kind with
  | .mma _ a b steps _ => a.readsSlot steps slot || b.readsSlot steps slot
  | _ => false

def PlaneOp.readsSlot (q : PlaneOp) (slot : Nat) : Bool :=
  match q.kind with
  | .load _ true src => inSlots src 33 slot
  | _ => false

/-- Whether a place is a stage slot that an earlier matrix or plane operation still reads (R177). -/
def State.slotRead (s : State) (n id : Nat) : Bool :=
  s.matrix.queue.any (fun q => decide (q.id < id) && q.readsSlot n)
    || s.matrix.planeQueue.any (fun q => decide (q.id < id) && q.readsSlot n)

/-- Whether an RCON issued before an operation has still to fill a slot (R177). -/
def State.slotFilling (s : State) (reads : Nat → Bool) (id : Nat) : Bool :=
  (s.rows.queue ++ s.rows.running).any (fun k =>
    decide (k.id < id) && (match k.kind with | .con _ (.slot n) => reads n | _ => false))

/-- The transfer on the bus: its parity has still to pass. -/
def RowPath.onBus (r : RowPath) : Option RowCmd :=
  r.running.find? (fun k => match k.kind with | .con _ _ | .wb _ _ => k.beat != 18 | _ => false)

/-- The oldest transfer whose parity has passed and whose data is not in place yet. -/
def RowPath.arriving (r : RowPath) : Option RowCmd :=
  r.running.find? (fun k => match k.kind with | .con _ _ | .wb _ _ => k.beat == 18 | _ => false)

def RowCmd.bank (k : RowCmd) : Nat := match k.kind with | .con b _ => b | .wb b _ => b | _ => 0
def RowCmd.isWrite (k : RowCmd) : Bool := match k.kind with | .wb _ _ => true | _ => false

/-- Whether a party about to be pre-empted lets the queue go on (R173, R243): only as far as a stop's element that
has begun needs.
DEDUCED, log entry 128. -/
def State.queueOpen (s : State) : Bool :=
  !s.party.preempting || s.rows.queue.any (fun k => match k.owner with | .stop _ _ => true | _ => false)

/-- Whether the head of the queue may start (R155, R156).
DEDUCED, log entry 64. -/
def State.rowStartable (s : State) (cmd : RowCmd) : Bool :=
  let r := s.rows
  let transfer := fun (b : Nat) (p : RowPlace) =>
    decide ((r.bank b).openedAt + 16 ≤ s.now) && (r.bank b).row.isSome && decide (r.busFree ≤ s.now)
      && !r.training s.now && r.onBus.isNone && !(r.trainDue && decide (r.trainDueAt + 2200000 ≤ s.wall))
      && (match p with | .slot n => !s.slotRead n cmd.id | _ => true)
  match cmd.kind with
  | .act b _ =>
    (r.bank b).row.isNone && decide ((r.bank b).preDone ≤ s.now) && decide ((r.bank b).nbrEnd ≤ s.now)
      && (r.layer (b / 4)).refreshEnd.isNone && !s.seqResetting
  | .con b p => transfer b p
  | .wb b p => transfer b p
  | .pre bs =>
    bs.all (fun b =>
      decide ((r.bank b).openedAt + 36 ≤ s.now) && decide ((r.bank b).wbEnd + 17 ≤ s.now)
        && r.onBus.all (fun k => !k.isWrite || k.bank != b))
  | .ref l => (r.layer l).refreshEnd.isNone && !s.seqResetting

/-- The bytes a place holds, as the transfer reads them, and whether one is poisoned. -/
def State.readPlace (s : State) (cmd : RowCmd) (p : RowPlace) : List Byte × Bool × State :=
  match p with
  | .spad a =>
    let ks := s.nearKeys a 1024
    let (bs, s1) := s.readKeys (s.rowAgent cmd true) ks
    (bs, s.poisonedAt ks, s1)
  | .slot n =>
    let ks := keysFrom (slotKey n 0) 1024
    (ks.map s.mem.get, s.poisonedAt ks, s)
  | .keys ks near =>
    let (bs, s1) := s.readKeys (s.rowAgent cmd near) ks
    (bs, s.poisonedAt ks, s1)
  | .vreg _ _ | .data _ => (cmd.data, false, s)

/-- The activation count of a row (R161). -/
def actCount (acts : List (Nat × Nat)) (k : Nat) : Nat :=
  match acts.find? (·.1 == k) with | some p => p.2 | none => 0

/-- A row opens (R145, R161): its bytes enter the buffer, and its activation is counted. -/
def State.openRow (s : State) (b row : Nat) : State :=
  let phys := s.rowBase + row
  let k := b * 16384 + phys
  let n := actCount s.rows.activations k + 1
  { s with
    mem := s.mem.setBytes (bufferKey b 0) (s.mem.getBytes (rowKey s.party.site b phys 0) 1024)
    rows :=
      { s.rows.modBank b (fun x =>
          { x with row := some row, openedAt := s.now, dist := x.dist || n == 2049,
                   distRow := if n = 2049 then some phys else x.distRow }) with
        activations := (k, n) :: s.rows.activations.filter (·.1 != k) } }

/-- A row closes (R148, R161): the buffer is written back, and a disturbed row's neighbours are
refreshed. -/
def State.closeRow (s : State) (b : Nat) : State :=
  match (s.rows.bank b).row with
  | none => s
  | some row =>
    let phys := s.rowBase + row
    let hot := (s.rows.bank b).distRow == some phys
    let m := s.mem.setBytes (rowKey s.party.site b phys 0) (s.mem.getBytes (bufferKey b 0) 1024)
    let s1 := { s with mem := m }
    s1.modRows (fun r =>
      { r.modBank b (fun x =>
          { x with row := none, preAt := s.now, preDone := s.now + 16,
                   dist := x.dist && !hot, distRow := if hot then none else x.distRow,
                   nbrEnd := if hot then s.now + 16 + 104 else x.nbrEnd }) with
        distCount := if hot then min (r.distCount + 1) 0xFFFF else r.distCount
        activations := if hot then r.activations.filter (·.1 != b * 16384 + phys) else r.activations })

/-- A command of the queue starts: a transfer's first beat begins; a close of banks that are closed takes no time. -/
def State.rowStart (s : State) (cmd : RowCmd) : State :=
  let run := fun (s : State) (cmd : RowCmd) (done : Nat) =>
    s.modRows (fun r => { r with running := r.running ++ [{ cmd with
      startedAt := some s.now
      beatAt := s.now
      row := ((s.rows.bank cmd.bank).row).getD 0
      doneAt := done }] })
  match cmd.kind with
  | .act b row => run (s.openRow b row) cmd (s.now + 16)
  | .con b _ => run s { cmd with data := s.mem.getBytes (bufferKey b 0) 1024 } 0
  | .wb _ p =>
    let (bs, bad, s1) := s.readPlace cmd p
    if bad then s1.failRow cmd Cause.poisoned 6 else run s1 { cmd with data := bs } 0
  | .pre bs =>
    if bs.all (fun b => (s.rows.bank b).row.isNone) then s else run (bs.foldl State.closeRow s) cmd (s.now + 16)
  | .ref l =>
    let d := (s.rows.layer l).debt
    if d = 0 then s
    else
      run (s.modRows (·.modLayer l (fun k =>
        { k with refreshEnd := some (s.now + 385 * d), repaying := false }))) cmd (s.now + 385 * d)

/-- ROW_COMMAND_START (R142, R155): the head of the queue starts once its conditions hold. -/
def execRowCommandStart (s : State) : Host.Outcome State Fault Refusal :=
  powered s (
    match s.rows.queue with
    | [] => s
    | cmd :: rest =>
      if s.queueOpen && s.rowStartable cmd then
        (s.modRows (fun r => { r with queue := rest, lastStart := s.now })).rowStart cmd
      else s)

/-! ## Parity (R162, R163, R168) -/

/-- A running command replaced. -/
def RowPath.putRunning (r : RowPath) (cmd : RowCmd) : RowPath :=
  { r with running := r.running.map (fun k => if k.id == cmd.id then cmd else k) }

def RowPath.dropRunning (r : RowPath) (id : Nat) : RowPath :=
  { r with running := r.running.filter (fun k => k.id != id) }

/-- An entry of the transfer log (R166, R168), newest first. -/
def RowPath.logXfer (r : RowPath) (cmd : RowCmd) (p : Parity) (tries : Nat) (narrow failed : Bool)
    (lane : Nat) : RowPath :=
  let groups := min (p.others.1 + 1) (if narrow then 8 else 144)
  let w := wordField 63 1 ||| wordField 62 (if cmd.isWrite then 1 else 0) ||| wordField 60 tries
    ||| wordField 59 (if narrow then 1 else 0) ||| wordField 58 (if failed then 1 else 0)
    ||| wordField 50 lane ||| wordField 42 groups ||| wordField 29 cmd.row
    ||| wordField 25 cmd.bank ||| wordField 0 r.logSeq.toNat
  { r with xferLog := (w :: r.xferLog).take 16, xferTotal := satAdd32 r.xferTotal 1,
           logSeq := r.logSeq + 1 }

/-- A transfer's destination poisoned or zeroed, as its place is (R163, R165); a stop's global destination
is left unwritten (R216). -/
def State.spoil (s : State) (cmd : RowCmd) (p : RowPlace) : State :=
  match p with
  | .spad a => s.poisonKeys (s.rowAgent cmd true) (s.nearKeys a 1024)
  | .slot n =>
    let (bs, s1) := s.freeBytes 1024
    { s1 with mem := s1.mem.setBytes (slotKey n 0) bs }.mark ((List.range 128).map (slotKey n 0 / 8 + ·))
  | .keys ks near => if near then s.poisonKeys (s.rowAgent cmd near) ks else s
  | .vreg n tr =>
    match cmd.owner with
    | .ctx c _ => s.modCtx c (fun x => (rowGroup n).foldl (fun x r => x.landDirect tr r 0) x)
    | _ => s
  | .data _ => s

/-- A transfer that failed for good (R163). -/
def State.transferFailed (s : State) (cmd : RowCmd) : State :=
  let s1 := s.modRows (·.dropRunning cmd.id)
  let s2 := match cmd.kind with
    | .con _ p => s1.spoil cmd p
    | _ => s1
  s2.failRow cmd Cause.rowUncorrectable 7

/-- The cycle in which an attempt at a transfer, or at a narrow beat of it, has ended (R141, R162, R163). -/
def RowPath.attemptEnd (r : RowPath) (cmd : RowCmd) : Nat := cmd.beatAt + (if r.narrow then 1 else 8)

/-- A transfer's parity has passed (R141, R147, R154, R163, R164): its data is in place 4 cc after a wide beat, or 24
cc after a narrow transfer began and what its retries took, and until then a narrow one holds the port. A write
rewrites the row buffer, and its last beat has ended. -/
def State.paritySound (s : State) (cmd : RowCmd) : State :=
  let done := s.rows.attemptEnd cmd + (if s.rows.narrow then 6 else 4)
  let s1 := s.modRows (fun r => { r.putRunning { cmd with
    beat := 18
    doneAt := done } with busFree := if r.narrow then done else r.attemptEnd cmd })
  match cmd.kind with
  | .wb b _ =>
    { s1 with mem := s1.mem.setBytes (bufferKey b 0) cmd.data }.modRows (fun r =>
      { r.modBank b (fun k => { k with wbEnd := s.rows.attemptEnd cmd }) with
        faulty := r.faulty.filter (fun e => e.1 != (b, s.rowBase + cmd.row)) })
  | _ => s1

/-- Whether something is under way that may have a beat of port-area traffic on the narrow port: a context's access, a stop,
a stream, a message, a step or an outside request (R139, R162). -/
def State.portTraffic (s : State) : Bool :=
  !(s.flights.isEmpty && s.graph.inProgress.isEmpty && s.graph.streams.isEmpty && s.msgs.isEmpty && s.gate.isEmpty
    && s.scopes.toList.all (fun q => q.queue.isEmpty))

/-- When the first narrow beat of a transfer begins whose fourth attempt has failed (R162): a beat of port-area
traffic that crosses the port just then puts it off by a cycle. -/
def State.firstNarrow (s : State) (cmd : RowCmd) : Nat × State :=
  let t := s.rows.attemptEnd cmd + 4
  if !s.portTraffic then (t, s)
  else
    let (i, s1) := s.choose 2
    (t + i, s1)

/-- TRANSFER_ATTEMPT_END (R162, R163): the attempt whose time has passed ends, and its parity is known; a path without
narrow mode fails the transfer at its fourth (R459). -/
def execTransferAttemptEnd (bad : Option Parity) (s : State) : Host.Outcome State Fault Refusal :=
  powered s (
    match s.rows.onBus with
    | none => s
    | some cmd =>
      if s.now < s.rows.attemptEnd cmd then s
      else
        match bad, s.rows.narrow with
        | none, false => s.paritySound cmd
        | none, true =>
          if cmd.beat = 17 then s.paritySound cmd
          else s.modRows (·.putRunning { cmd with
            beat := cmd.beat + 1
            beatAt := cmd.beatAt + 1
            beatTries := 0 })
        | some p, false =>
          let dead := cmd.tries = 3 && !s.caps.narrow
          let s1 := s.modRows (·.logXfer cmd p cmd.tries false dead p.lanes.1)
          if dead then (s1.transferFailed cmd).modRows (fun r => { r with busFree := s.rows.attemptEnd cmd })
          else if cmd.tries = 3 then
            let (t, s2) := s1.firstNarrow cmd
            s2.modRows (fun r => { r.putRunning { cmd with
                tries := 4
                beatAt := t } with
              narrow := true
              trainDue := false
              trainEnd := none })
          else s1.modRows (·.putRunning { cmd with
            tries := cmd.tries + 1
            beatAt := cmd.beatAt + 12 })
        | some p, true =>
          let failed := cmd.beatTries = 3
          let s1 := s.modRows (·.logXfer cmd p cmd.beatTries true failed cmd.beat)
          if failed then (s1.transferFailed cmd).modRows (fun r => { r with busFree := s.rows.attemptEnd cmd })
          else s1.modRows (·.putRunning { cmd with
            beatTries := cmd.beatTries + 1
            beatAt := cmd.beatAt + 2 }))

/-! ## Cells (R164 to R167, R473) -/

/-- The codeword an error is in. -/
def errWord : CellErr → Nat
  | .single w _ | .double w | .miscorrected w _ _ | .undetected w _ => w.1

/-- What a codeword that holds an error has once it is read with another (R164): a bit that was wrong stays so, and a
second wrong bit makes the error double.
DESIGN CHOICE, log entry 143. -/
def bothErr : CellErr → CellErr → CellErr
  | .single w i, .single v j => if i = j then .single w i else .double v
  | .single _ _, e => e
  | e, _ => e

/-- Errors in ascending codeword order, one of each codeword: an error put in before the one there. -/
def insertErr (e : CellErr) : List CellErr → List CellErr
  | [] => [e]
  | x :: xs =>
    if errWord e < errWord x then e :: x :: xs
    else if errWord e = errWord x then bothErr e x :: xs
    else x :: insertErr e xs

/-- An entry of the cell log (R166, R167); an undetected error leaves none (R473). -/
def RowPath.logCell (r : RowPath) (bank row : Nat) (e : CellErr) : RowPath :=
  let put := fun (double bit : Nat) =>
    let w := wordField 63 1 ||| wordField 62 double ||| wordField 49 bit ||| wordField 42 (errWord e)
      ||| wordField 29 row ||| wordField 25 bank ||| wordField 0 r.logSeq.toNat
    { r with cellLog := (w :: r.cellLog).take 16, cellTotal := satAdd32 r.cellTotal 1,
             logSeq := r.logSeq + 1 }
  match e with
  | .single _ bit => put 0 bit.toNat
  | .double _ => put 1 0
  | .miscorrected _ bit _ => put 0 bit.toNat
  | .undetected _ _ => r

/-- What an error leaves in the delivered row (R164, R473). -/
def spoilWord (bs : List Byte) (e : CellErr) : List Byte :=
  match e with
  | .miscorrected w _ x | .undetected w x =>
    (List.range 8).foldl (fun bs i =>
      let k := 8 * w.1 + i
      setNth k (bs.getD k 0 ^^^ x.extractLsb' (8 * i) 8) bs) bs
  | _ => bs

/-- A row's data put in its destination (R146). -/
def State.writePlace (s : State) (cmd : RowCmd) (p : RowPlace) (bs : List Byte) : State :=
  match p with
  | .spad a => s.writeKeys (s.rowAgent cmd true) (s.nearKeys a 1024) bs
  | .slot n =>
    { s with mem := s.mem.setBytes (slotKey n 0) bs }.unmark ((List.range 128).map (slotKey n 0 / 8 + ·))
  | .keys ks near =>
    match cmd.owner with
    | .stop run stop => s.writeAs (run, stop.toNat) (s.rowAgent cmd near) ks bs
    | _ => s.writeKeys (s.rowAgent cmd near) ks bs
  | .vreg n tr =>
    match cmd.owner with
    | .ctx c _ => s.modCtx c (fun x => (List.range 8).foldl (fun x k =>
        x.landDirect tr (.v (BitVec.ofNat 5 (n + k)))
          (BitVec.ofNat 1024 (natOfBytes ((bs.drop (128 * k)).take 128)))) x)
    | _ => s
  | .data _ => s

/-- The errors that a row's codewords have when it is read: new ones, and those it has held since it was last
rewritten (R164). -/
def RowPath.errorsOf (r : RowPath) (bank phys : Nat) (errs : List CellErr) : List CellErr :=
  ((r.faulty.filter (fun e => e.1 == (bank, phys))).map (·.2)).foldr insertErr (errs.foldr insertErr [])

/-- ROW_TRANSFER_COMPLETE (R141, R146, R147, R164, R165, R473): the transfer whose parity has passed is in
place; the row keeps the errors it was read with. -/
def execRowTransferComplete (errs : List CellErr) (s : State) : Host.Outcome State Fault Refusal :=
  powered s (
    match s.rows.arriving with
    | none => s
    | some cmd =>
      if s.now < cmd.doneAt then s
      else
        let s1 := s.modRows (·.dropRunning cmd.id)
        match cmd.kind with
        | .con b p =>
          let phys := s.rowBase + cmd.row
          let sorted := s.rows.errorsOf b phys errs
          let s2 := s1.modRows (fun r =>
            let r1 := sorted.foldl (fun r e => r.logCell b cmd.row e) r
            { r1 with faulty := sorted.map (fun e => ((b, phys), e)) ++ r1.faulty.filter (fun e => e.1 != (b, phys)) })
          if sorted.any (fun e => match e with | .double _ => true | _ => false) then
            (s2.spoil cmd p).failRow cmd Cause.rowUncorrectable 7
          else s2.writePlace cmd p (sorted.foldl spoilWord cmd.data)
        | _ => s1)

/-- RACTs and RPREs leave once their time has passed; transfers and RREFs do when they complete (R179). -/
def RowPath.prune (r : RowPath) (now : Nat) : RowPath :=
  if r.running.isEmpty then r
  else { r with running := r.running.filter (fun k =>
    match k.kind with
    | .act _ _ | .pre _ => decide (now < k.doneAt)
    | _ => true) }

/-! ## Refresh and debt (R157 to R160, R174) -/

/-- Whether the close of a bank by an eviction is queued (R159). -/
def RowPath.evicting (r : RowPath) (b : Nat) : Bool :=
  r.queue.any (fun k => k.owner == .sequencer && (match k.kind with | .pre bs => bs.contains b | _ => false))

/-- The banks of a layer that an eviction closes (R157, R159): those physically open that none closes already. -/
def RowPath.evictable (r : RowPath) (l : Nat) : List Nat :=
  (layerBanks l).filter (fun b => (r.bank b).row.isSome && !r.evicting b)

/-- An eviction (R159): the open banks of a layer are closed in the issue view, and their RPREs are queued behind the
commands already there, full or not.
DESIGN CHOICE, log entry 135. -/
def State.evict (s : State) (l : Nat) : State :=
  let bs := s.rows.evictable l
  bs.foldl (fun s b => s.rowEnqueue .sequencer (.pre [b]) [] false) (s.modRows (fun r =>
    { bs.foldl (fun r b => r.modBank b (fun k => { k with view := none, evicted := true })) r with
      evictCount := min (r.evictCount + bs.length) 0xFFFF }))

/-- REFRESH_DUE (R157 to R160, R174): it runs at once, waits for one that runs, or is postponed; with a debt of 8 it
evicts the layer's open banks, as does each further one until the burst runs. -/
def execRefreshDue (layer : Fin 4) (s : State) : Host.Outcome State Fault Refusal :=
  powered s (
    let l := s.rows.layer layer.1
    if s.now < l.dueAt then s
    else
      let s1 := s.modRows (·.modLayer layer.1 (fun k => { k with dueAt := k.dueAt + 4290 }))
      let shut := !s.rows.layerOpen s.now layer.1
      if l.burst then (s1.modRows (·.modLayer layer.1 (fun k => { k with owed := k.owed + 1 }))).evict layer.1
      else if shut && l.refreshEnd.isSome then
        s1.modRows (·.modLayer layer.1 (fun k => { k with owed := k.owed + 1 }))
      else if shut && !s.seqResetting then
        s1.modRows (·.modLayer layer.1 (fun k =>
          { k with refreshEnd := some (s.now + 385), repaying := false }))
      else if l.debt < 8 then s1.modRows (·.modLayer layer.1 (fun k =>
        { k with debt := k.debt + 1, deep := k.deep || k.debt == 7 }))
      else (s1.modRows (·.modLayer layer.1 (fun k => { k with burst := true }))).evict layer.1)

/-- A layer's debt with the refreshes that fell due while one ran; at 0 no RACT waits for it any more (R145). -/
def RowLayer.settled (k : RowLayer) (debt : Nat) : RowLayer :=
  let d := min 8 (debt + k.owed)
  { k with
    debt := d
    owed := 0
    stalled := if d = 0 then [] else k.stalled
    deep := d == 8 || (k.deep && d != 0)
    refreshEnd := none }

/-- A refresh that ends (R149, R158, R159).
DEDUCED, log entry 65. -/
def RowLayer.refreshed (k : RowLayer) (whole : Bool) : RowLayer :=
  if whole then { k with refs := k.refs + BitVec.ofNat 32 k.debt }.settled 0
  else if k.burst then { k with refs := k.refs + 9, burst := false }.settled 0
  else
    { k with refs := k.refs + 1, repaying := false }.settled (if k.repaying then k.debt - 1 else k.debt)

/-- REFRESH_COMPLETE (R157, R158): the refresh, the repayment or the burst running on the layer ends. -/
def execRefreshComplete (layer : Fin 4) (s : State) : Host.Outcome State Fault Refusal :=
  powered s (
    match (s.rows.layer layer.1).refreshEnd with
    | some t =>
      if t ≤ s.now then
        let rref := fun (k : RowCmd) => match k.kind with | .ref l => l == layer.1 | _ => false
        s.modRows (fun r =>
          { r.modLayer layer.1 (·.refreshed (r.running.any rref)) with
            running := r.running.filter (fun k => !rref k) })
      else s
    | none => s)

/-- Whether nothing keeps a layer from refreshing. -/
def State.layerIdle (s : State) (l : Nat) : Bool :=
  !s.rows.layerOpen s.now l && (s.rows.layer l).refreshEnd.isNone && !s.seqResetting

/-- Whether an eviction's close of a layer's bank is still queued.
DEDUCED, log entry 67. -/
def State.evictionQueued (s : State) (l : Nat) : Bool := (layerBanks l).any s.rows.evicting

/-- FORCED_BURST (R159): the burst of 9 refreshes begins. -/
def execForcedBurst (layer : Fin 4) (s : State) : Host.Outcome State Fault Refusal :=
  powered s (
    if (s.rows.layer layer.1).burst && s.layerIdle layer.1 && !s.evictionQueued layer.1 then
      s.modRows (·.modLayer layer.1 (fun k => { k with refreshEnd := some (s.now + 3465) }))
    else s)

/-- Whether a RACT to a layer is ready to start: the repayment of the layer's debt gives way to it (R158). -/
def State.actReady (s : State) (l : Nat) : Bool :=
  match s.rows.queue with
  | cmd :: _ => (match cmd.kind with | .act b _ => b / 4 == l | _ => false) && s.queueOpen && s.rowStartable cmd
  | [] => false

/-- Whether one refresh of a layer's debt may begin (R157, R158). -/
def State.mayRepay (s : State) (l : Nat) : Bool :=
  decide (0 < (s.rows.layer l).debt) && !(s.rows.layer l).burst && s.layerIdle l && !s.actReady l

/-- DEBT_REPAYMENT_START (R157, R158): one refresh of the debt begins. -/
def execDebtRepaymentStart (layer : Fin 4) (s : State) : Host.Outcome State Fault Refusal :=
  powered s (
    if s.mayRepay layer.1 then
      s.modRows (·.modLayer layer.1 (fun k =>
        { k with refreshEnd := some (s.now + 385), repaying := true }))
    else s)

/-- ACTIVATION_WINDOW_END (R161): the counts start again every 64 ms. -/
def execActivationWindowEnd (s : State) : Host.Outcome State Fault Refusal :=
  powered s (
    if s.rows.windowEnd ≤ s.wall then
      s.modRows (fun r => { r with activations := [], windowEnd := r.windowEnd + 70400000 })
    else s)

/-! ## Retraining (R170) -/

/-- RETRAIN_DUE (R170): by time, or by a temperature change at any time; never in narrow mode (R163). -/
def execRetrainDue (s : State) : Host.Outcome State Fault Refusal :=
  powered s (
    if s.rows.narrow || s.rows.trainDue || s.rows.trainEnd.isSome then s
    else s.modRows (fun r => { r with trainDue := true, trainDueAt := min r.trainDueAt s.wall }))

/-- Whether transfers are queued. -/
def RowPath.transfersQueued (r : RowPath) : Bool :=
  r.queue.any (fun k => match k.kind with | .con _ _ | .wb _ _ => true | _ => false)

/-- RETRAIN_START (R170): once no transfer is in progress, and none is queued or 2 ms have passed. -/
def execRetrainStart (s : State) : Host.Outcome State Fault Refusal :=
  powered s (
    if s.rows.trainDue && s.rows.running.all (fun k => !k.isTransfer)
        && (!s.rows.transfersQueued || decide (s.rows.trainDueAt + 2200000 ≤ s.wall)) then
      s.modRows (fun r => { r with trainDue := false, trainEnd := some (s.now + 8800) })
    else s)

/-- RETRAIN_END (R170). -/
def execRetrainEnd (s : State) : Host.Outcome State Fault Refusal :=
  powered s (
    match s.rows.trainEnd with
    | some t =>
      if t ≤ s.now then
        s.modRows (fun r => { r with trainEnd := none, retrains := r.retrains + 1,
                                     trainDueAt := s.wall + 110000000 })
      else s
    | none => s)

/-! ## The meanings -/

/-- RACT (R145). -/
def execRact (w : Fields) (s : State) : Host.Outcome State Fault Refusal :=
  issue .ract w bodyRact s

/-- RCON (R146). -/
def execRcon (w : Fields) (s : State) : Host.Outcome State Fault Refusal :=
  issue .rcon w bodyRcon s

/-- RWB (R147). -/
def execRwb (w : Fields) (s : State) : Host.Outcome State Fault Refusal :=
  issue .rwb w bodyRwb s

/-- RPRE (R148). -/
def execRpre (w : Fields) (s : State) : Host.Outcome State Fault Refusal :=
  issue .rpre w bodyRpre s

/-- RSTAT (R150). -/
def execRstat (w : Fields) (s : State) : Host.Outcome State Fault Refusal :=
  issue .rstat w bodyRstat s

/-- RREF (R149). -/
def execRref (w : Fields) (s : State) : Host.Outcome State Fault Refusal :=
  issue .rref w bodyRref s

end Sys2Proof.Machine
end

