-- ==== Sys2Proof/Machine/Sha.lean ====
section
/-! DEFINITION. The SHA-512 digest that capability tokens and beacon keys use (R386). The manual names it
and does not define it: PRESUMED, the standard FIPS 180-4 function, its constants computed from the primes
that the standard takes them from. -/

namespace Sys2Proof.Machine

/-- Whether no number from 2 up to `n - 1`, of those given, divides `n`. -/
def noneDivides (n : Nat) : List Nat → Bool
  | [] => true
  | p :: ps => n % p != 0 && noneDivides n ps

/-- The primes up to `2 + n`, ascending. -/
def primesTo : Nat → List Nat
  | 0 => [2]
  | n + 1 =>
    let ps := primesTo n
    if noneDivides (n + 3) ps then ps ++ [n + 3] else ps

/-- The first 80 primes; 409 is the eightieth. -/
def primes80 : List Nat := primesTo 407

/-- The integer cube root by bits, highest first. -/
def icbrtFrom : Nat → Nat → Nat → Nat
  | 0, _, r => r
  | b + 1, n, r =>
    let c := r + 2 ^ b
    icbrtFrom b n (if c * c * c ≤ n then c else r)

/-- The integer square root by bits, highest first. -/
def isqrtBits : Nat → Nat → Nat → Nat
  | 0, _, r => r
  | b + 1, n, r =>
    let c := r + 2 ^ b
    isqrtBits b n (if c * c ≤ n then c else r)

/-- The 80 round constants: the first 64 bits of the fractions of the primes' cube roots. -/
def shaK : List Word := primes80.map (fun p => BitVec.ofNat 64 (icbrtFrom 68 (p * 2 ^ 192) 0))

/-- The initial hash: the first 64 bits of the fractions of the square roots of the first 8 primes. -/
def shaH : List Word := (primes80.take 8).map (fun p => BitVec.ofNat 64 (isqrtBits 69 (p * 2 ^ 128) 0))

def bigSigma0 (x : Word) : Word := x.rotateRight 28 ^^^ x.rotateRight 34 ^^^ x.rotateRight 39
def bigSigma1 (x : Word) : Word := x.rotateRight 14 ^^^ x.rotateRight 18 ^^^ x.rotateRight 41
def smallSigma0 (x : Word) : Word := x.rotateRight 1 ^^^ x.rotateRight 8 ^^^ x >>> 7
def smallSigma1 (x : Word) : Word := x.rotateRight 19 ^^^ x.rotateRight 61 ^^^ x >>> 6

/-- The message schedule, newest word first: `n` words are still to come. -/
def shaSchedule : Nat → List Word → List Word
  | 0, ws => ws
  | n + 1, ws =>
    shaSchedule n ((smallSigma1 (ws.getD 1 0) + ws.getD 6 0 + smallSigma0 (ws.getD 14 0) + ws.getD 15 0) :: ws)

/-- The working variables of the compression. -/
structure ShaVars where
  a : Word
  b : Word
  c : Word
  d : Word
  e : Word
  f : Word
  g : Word
  h : Word
  deriving DecidableEq, Repr

def ShaVars.round (v : ShaVars) (k w : Word) : ShaVars :=
  let t1 := v.h + bigSigma1 v.e + ((v.e &&& v.f) ^^^ (~~~v.e &&& v.g)) + k + w
  let t2 := bigSigma0 v.a + ((v.a &&& v.b) ^^^ (v.a &&& v.c) ^^^ (v.b &&& v.c))
  ⟨t1 + t2, v.a, v.b, v.c, v.d + t1, v.e, v.f, v.g⟩

def shaVarsOf (h : List Word) : ShaVars :=
  ⟨h.getD 0 0, h.getD 1 0, h.getD 2 0, h.getD 3 0, h.getD 4 0, h.getD 5 0, h.getD 6 0, h.getD 7 0⟩

/-- One block of 16 words compressed into the hash. -/
def shaBlock (h : List Word) (ws : List Word) : List Word :=
  let sched := (shaSchedule 64 ws.reverse).reverse
  let v := (shaK.zip sched).foldl (fun v p => v.round p.1 p.2) (shaVarsOf h)
  List.zipWith (· + ·) h [v.a, v.b, v.c, v.d, v.e, v.f, v.g, v.h]

/-- The number big-endian bytes make. -/
def natOfBytesBE (bs : List Byte) : Nat := bs.foldl (fun a b => 256 * a + b.toNat) 0

/-- Bytes in big-endian order of a number. -/
def bytesOfNatBE (n v : Nat) : List Byte := (bytesOfNat n v).reverse

/-- The padded message. -/
def shaPad (bs : List Byte) : List Byte :=
  let zeros := (239 - bs.length % 128) % 128
  bs ++ [0x80] ++ List.replicate zeros 0 ++ bytesOfNatBE 16 (8 * bs.length)

/-- Blocks of 128 bytes compressed in turn. -/
def shaBlocks : Nat → List Byte → List Word → List Word
  | 0, _, h => h
  | n + 1, bs, h =>
    shaBlocks n (bs.drop 128) (shaBlock h ((List.range 16).map (fun i =>
      BitVec.ofNat 64 (natOfBytesBE ((bs.drop (8 * i)).take 8)))))

/-- The digest of a message, first byte first.
PRESUMED, log entry 22. -/
def sha512 (bs : List Byte) : List Byte :=
  let p := shaPad bs
  (shaBlocks (p.length / 128) p shaH).flatMap (fun w => bytesOfNatBE 8 w.toNat)

end Sys2Proof.Machine
end

