-- ==== Sys2Proof/Machine/Matrix.lean ====
section
/-! DEFINITION. The matrix engine and the accumulator blocks (R366 to R391). -/

namespace Sys2Proof.Machine

def State.modMatrix (s : State) (f : Matrix → Matrix) : State := { s with matrix := f s.matrix }

/-! ## Accumulator blocks (R366 to R369) -/

def accBytes : Nat := 2048

/-- The pair of an element (R366). -/
def accGet (m : Memory) (b e : Nat) : BitVec 32 × BitVec 32 :=
  (BitVec.ofNat 32 (m.getNat (accBytes * b + 8 * e) 4), BitVec.ofNat 32 (m.getNat (accBytes * b + 8 * e + 4) 4))

def accPut (m : Memory) (b e : Nat) (p : BitVec 32 × BitVec 32) : Memory :=
  m.setNat (accBytes * b + 8 * e) 8 (p.1.toNat + 2 ^ 32 * p.2.toNat)

def Matrix.block (m : Matrix) (b : Nat) : Block := m.blocks.toList.getD b ⟨none, false, 0, false⟩
def Matrix.modBlock (m : Matrix) (b : Nat) (f : Block → Block) : Matrix :=
  { m with blocks := setAt m.blocks b (f (m.block b)) }

/-- Fields of a command record (R388). -/
def recDev (r : BitVec 512) : BitVec 14 := r.extractLsb' 272 14
def recZero (r : BitVec 512) : Bool := r.getLsbD 264
def recSteps (r : BitVec 512) : Nat := 2 ^ (r.extractLsb' 262 2).toNat
def recBlock (r : BitVec 512) : Nat := (r.extractLsb' 256 6).toNat
def recWord (r : BitVec 512) (n : Nat) : Word := r.extractLsb' (64 * n) 64
def recReserved (r : BitVec 512) : Bool := r.extractLsb' 286 226 != 0 || r.extractLsb' 265 7 != 0

/-- The four blocks of a tile (R366). -/
def tileBlocks (b : Nat) : List Nat := [b, b + 1, b + 2, b + 3]

/-- `PARTY.ID` bits [7:0] (R424, R428). -/
def partyIdOf (p : Party) : BitVec 8 := p.record.extractLsb' 224 8

/-- Whether a rank's part of a party is the one that a command's token names. -/
def Party.named (p : Party) (m : RemoteCmd) : Bool :=
  partyIdOf p == m.token.extractLsb' 32 8 && p.record.extractLsb' 112 10 == m.token.extractLsb' 22 10

/-- Whether a command's target party is saved off its rank (R391): its token names a saved one, and not the one that is
bound. -/
def State.targetSaved (s : State) (m : RemoteCmd) : Bool :=
  !(s.party.bound && s.party.named m) && s.sched.saved.any (fun v => v.party.named m)

/-- The remote commands that have arrived for the party that is bound (R389, R391). -/
def State.liveCmds (s : State) : List RemoteCmd :=
  if s.party.bound then s.cmds.filter (fun m => !s.targetSaved m) else []

/-- Whether a block is in flight (R368): an operation of the queue targets it, or a remote command that has
arrived. -/
def State.inFlight (s : State) (b : Nat) : Bool :=
  s.matrix.queue.any (fun q => q.targets.contains b)
    || s.liveCmds.any (fun k => (tileBlocks (recBlock k.record)).contains b)

/-- Whether an ABREAD of a block still waits to read (R378). -/
def State.readPending (s : State) (b : Nat) : Bool :=
  s.flights.any (fun f => match f.kind with | .abread k _ _ _ _ _ => k == b | _ => false)

/-- Blocks poisoned whole (R369). -/
def Matrix.poison (m : Matrix) (bs : List Nat) : Matrix :=
  bs.foldl (fun m b => m.modBlock b (fun k => { k with poison := true, rewritten := 0 })) m

/-- Blocks at +0, without poison (R380). -/
def Matrix.zero (m : Matrix) (bs : List Nat) : Matrix :=
  let m1 := bs.foldl (fun m b => m.modBlock b (fun k => { k with poison := false, rewritten := 0 })) m
  { m1 with acc := bs.foldl (fun a b => a.clear (accBytes * b) (accBytes * (b + 1))) m1.acc }

/-- The block an operand names (R367), a scalar's value raised by a step (R314): its number, or the fault of a
number above 63. -/
def Entry.blockOf (e : Entry) (s : State) (c : Fin 11) (o : Opd) (step : Word) : Nat ⊕ Word :=
  match o.cls with
  | .special => .inl o.num.toNat
  | _ =>
    let v := e.scalar s c o + step
    if 63 < v.toNat then .inr v else .inl v.toNat

/-- The first of `n` blocks that is not allocated. -/
def Matrix.unallocated (m : Matrix) (b n : Nat) : Option Nat :=
  ((List.range n).map (b + ·)).find? (fun k => (m.block k).alloc.isNone)

/-- Allocations of contexts that have ended, freed once none of their blocks is in flight (R436).
DEDUCED, log entry 75. -/
def State.reapBlocks (s : State) : State :=
  let dead := fun (b : Nat) => match (s.matrix.block b).alloc with
    | some (_, first, len) =>
      (s.matrix.block b).doomed && (List.range len).all (fun i => !s.inFlight (first + i))
    | none => false
  if (List.range 64).any dead then
    s.modMatrix (fun m => ((List.range 64).filter dead).foldl
      (fun m b => m.modBlock b (fun k => { k with
        alloc := none
        doomed := false })) m)
  else s

/-! ## Operand layout (R370, R371) -/

def packRpitch (p : Word) : Nat := (p.extractLsb' 0 16).toNat
def packTpitch (p : Word) : Nat := (p.extractLsb' 16 16).toNat
def packRot (p : Word) : Nat := (p.extractLsb' 32 4).toNat
def packFmt (p : Word) : BitVec 6 := p.extractLsb' 40 6
def packOwn (p : Word) : Bool := p.getLsbD 46
def packReserved (p : Word) : Bool := p.extractLsb' 36 4 != 0 || p.extractLsb' 47 17 != 0

/-- RowAddr of R370. -/
def rowAddr (base : Nat) (p : Word) (t r : Nat) : Nat :=
  base + t * packTpitch p + r * packRpitch p + 8 * (r * 2 ^ packRot p % 512)

/-- The width of an operand element (R371). -/
def opWidth (ty : Ty) (fmt : Option FmtRef) : Nat :=
  match ty with
  | .i8 | .ui8 => 8
  | .bf16 | .f16 => 16
  | .i4 => 4
  | _ => match fmt with | some f => f.desc.width | none => 8

/-- The value of an element (R371): an integer, or R95's value times its block's scale. -/
def elemNum (ty : Ty) (fmt : Option FmtRef) (code : Nat) (scale : Option Num) : Num :=
  match ty with
  | .ui8 => Num.ofInt code
  | .i8 => Num.ofInt (signedOf 8 code)
  | .i4 => Num.ofInt (signedOf 4 code)
  | .bf16 | .f16 => (floatFmt ty false).decode code
  | _ =>
    match fmt with
    | some f => match scale with
      | some sc => scaled f.desc.fmt code sc
      | none => f.desc.fmt.decode code
    | none => .nan

/-- The ranges of bytes of a row of `n` elements and of its block scales. -/
def rowRanges (ty : Ty) (fmt : Option FmtRef) (addr n : Nat) : List (Nat × Nat) :=
  (addr, n * opWidth ty fmt / 8) ::
    (match fmt, blockLen fmt with
      | some f, some l => [(addr + f.desc.offset, n / l)]
      | _, _ => [])

/-- The elements of a row (R371). -/
def rowElems (ty : Ty) (fmt : Option FmtRef) (n : Nat) (bits : Nat) (scales : List Byte) : List Num :=
  let w := opWidth ty fmt
  (List.range n).map (fun k =>
    elemNum ty fmt (bits / 2 ^ (w * k) % 2 ^ w)
      (match fmt, blockLen fmt with
        | some f, some l => some (f.scaleOf (scales.getD (k / l) 0).toNat)
        | _, _ => none))

/-- The first byte of ranges that lies at or above a limit. -/
def firstBeyond (limit : Nat) : List (Nat × Nat) → Option Nat
  | [] => none
  | (a, n) :: rest => if limit < a + n then some (max a limit) else firstBeyond limit rest

/-- What is wrong with a pair's alignment (R370). -/
def pairMisaligned (base packed : Word) : Option (BitVec 8 × Word) :=
  if base.toNat % 8 != 0 then some (Cause.misaligned, base)
  else if packRpitch packed % 8 != 0 || packTpitch packed % 8 != 0 then some (Cause.misaligned, packed)
  else none

/-- What is wrong with a pair's bounds (R370): `n` elements a row. -/
def State.pairBounds (s : State) (ty : Ty) (fmt : Option FmtRef) (base packed : Word) (steps n : Nat) :
    Option (BitVec 8 × Word) :=
  if packReserved packed || (packOwn packed && ty != .nf) then some (Cause.nearBounds, packed)
  else
    (firstBeyond (0x80000 - s.carve) ((List.range steps).flatMap (fun t => (List.range 32).flatMap (fun r =>
      rowRanges ty fmt (rowAddr base.toNat packed t r) n)))).map (fun a =>
        (Cause.nearBounds, BitVec.ofNat 64 a))

/-! ## Descriptors of a multiply (R371) -/

/-- What descriptor an operand takes: MOD's, or its own; and whether its bytes have a place for scales. -/
structure OpFmt where
  n : BitVec 6
  scalable : Bool
  deriving DecidableEq, Repr

/-- The descriptor of a pair's packed word (R370). -/
def OpFmt.ofPack (modFd : BitVec 6) (p : Word) : OpFmt := ⟨if packOwn p then packFmt p else modFd, true⟩

/-- The descriptors of both operands under a type; none where one is refused (R93, R371). -/
def State.mulFmts (s : State) (ty : Ty) (a b : OpFmt) : Option (Option FmtRef × Option FmtRef) :=
  if ty != .nf then some (none, none)
  else
    match s.fmtRef s.asid a.n, s.fmtRef s.asid b.n with
    | some fa, some fb =>
      let ok := fun (f : FmtRef) (o : OpFmt) =>
        f.desc.width != 2 && (f.desc.block == 0 || (f.desc.side && o.scalable))
      if ok fa a && ok fb b && fa.desc.width == fb.desc.width then some (some fa, some fb) else none
    | _, _ => none

/-! ## The queue (R372) -/

/-- Engine time of the operations queued and running (R372). -/
def Matrix.work (m : Matrix) : Nat := m.queue.foldl (fun a q => a + q.cost) 0

/-- Whether the queue takes an operation of a cost (R372). -/
def Matrix.room (m : Matrix) (cost : Nat) : Bool :=
  decide (m.queue.length < 16) && decide (m.work + cost ≤ 3072)

/-- Whether the queue takes an operation that arrives now: one that has arrived before it enters first (R372). -/
def State.engineRoom (s : State) (cost : Nat) : Bool := s.matrix.room cost && s.liveCmds.isEmpty

/-- An operation put into the engine queue. -/
def State.engineEnqueue (s : State) (owner : OpOwner) (kind : EngineKind) (ty : Ty) (fa fb : Option FmtRef)
    (targets : List Nat) (cost : Nat) (inHandler : Bool) : State :=
  let q : EngineOp :=
    { id := s.nextId, owner := owner, kind := kind, ty := ty, fa := fa, fb := fb, targets := targets,
      cost := cost, running := false, waits := [], inHandler := inHandler }
  { s with nextId := s.nextId + 1, matrix := { s.matrix with queue := s.matrix.queue ++ [q] } }

/-- An operation of a context that joins its open batch (R376). -/
def Entry.joinBatch (e : Entry) (s : State) (c : Fin 11) (kind : EngineKind) (fa fb : Option FmtRef)
    (targets : List Nat) (cost : Nat) : Act :=
  if !s.engineRoom cost then .stay s
  else
    .done [] ((s.engineEnqueue (.ctx c e.pc none) kind e.w.ty fa fb targets cost (s.ctx c).inh).modCtx c
      (fun x => { x with openOps := x.openOps + 1 }))

/-- The tile an operand names (R367, R375): its first block, or a NEAR_BOUNDS value. -/
def Entry.tileOf (e : Entry) (s : State) (c : Fin 11) (o : Opd) : Nat ⊕ Word :=
  match e.blockOf s c o 0 with
  | .inr v => .inr v
  | .inl b =>
    if b % 4 != 0 then .inr (BitVec.ofNat 64 b)
    else match s.matrix.unallocated b 4 with
      | some k => .inr (BitVec.ofNat 64 k)
      | none => .inl b

/-- ILLEGAL_INSTR of an invalid descriptor (R93). -/
def Entry.badFormat (e : Entry) : Act := .trap Cause.illegal (illegalInfo 0x0C e.parcel) none

/-- MOD's descriptor number. -/
def Entry.modFd (e : Entry) : BitVec 6 := e.w.os.extractLsb' 0 6

def bodyMmas : Body := fun c e s =>
  let (ab, ap) := (e.opA s c, e.second s c e.w.fa)
  let (bb, bp) := (e.scalar s c e.w.fb, e.second s c e.w.fb)
  let steps := 2 ^ (e.w.os.extractLsb' 6 2).toNat
  match s.mulFmts e.w.ty (.ofPack e.modFd ap) (.ofPack e.modFd bp) with
  | none => e.badFormat
  | some (fa, fb) =>
    match e.tileOf s c e.w.fd with
    | .inr v => .trap Cause.nearBounds v none
    | .inl t =>
      match pairMisaligned ab ap <|> pairMisaligned bb bp
          <|> s.pairBounds e.w.ty fa ab ap steps (4096 / opWidth e.w.ty fa)
          <|> s.pairBounds e.w.ty fb bb bp steps (4096 / opWidth e.w.ty fb) with
      | some f => .trap f.1 f.2 none
      | none =>
        e.joinBatch s c (.mma t (.pair ab.toNat ap) (.pair bb.toNat bp) steps false) fa fb (tileBlocks t)
          (128 * steps)

def bodyMmav : Body := fun c e s =>
  let (bb, bp) := (e.scalar s c e.w.fb, e.second s c e.w.fb)
  let row := e.opD s c
  match s.mulFmts e.w.ty ⟨e.modFd, false⟩ (.ofPack e.modFd bp) with
  | none => e.badFormat
  | some (fa, fb) =>
    if 511 < row.toNat then .trap Cause.nearBounds row none
    else
      let blk := row.toNat / 8
      if (s.matrix.block blk).alloc.isNone then .trap Cause.nearBounds (BitVec.ofNat 64 blk) none
      else
        match pairMisaligned bb bp <|> s.pairBounds e.w.ty fb bb bp 1 (4096 / opWidth e.w.ty fb) with
        | some f => .trap f.1 f.2 none
        | none =>
          let bits := ((regsAt e.depth e.w.fa 4).zipIdx.foldl (fun a (r, k) =>
            a + (e.reg s c r).toNat * 2 ^ (1024 * k)) 0)
          e.joinBatch s c (.mmav blk (row.toNat % 8) (.row (BitVec.ofNat 4096 bits)) (.pair bb.toNat bp))
            fa fb [blk] 8

def bodyMmar : Body := fun c e s =>
  let bslot := e.w.os.getLsbD 7
  let (bb, bp) := (e.scalar s c e.w.fb, e.second s c e.w.fb)
  let a := e.opA s c
  let steps := if e.w.os.getLsbD 6 then 2 else 1
  match s.mulFmts e.w.ty ⟨e.modFd, false⟩ (if bslot then ⟨e.modFd, false⟩ else .ofPack e.modFd bp) with
  | none => e.badFormat
  | some (fa, fb) =>
    match e.tileOf s c e.w.fd with
    | .inr v => .trap Cause.nearBounds v none
    | .inl t =>
      let slotFault := fun (v : Word) => if 63 < v.toNat then some (Cause.nearBounds, v) else none
      match (if bslot then slotFault a <|> slotFault bb
             else pairMisaligned bb bp <|> slotFault a
               <|> s.pairBounds e.w.ty fb bb bp steps (4096 / opWidth e.w.ty fb)) with
      | some f => .trap f.1 f.2 none
      | none =>
        let b := if bslot then TileSrc.slots bb.toNat else .pair bb.toNat bp
        e.joinBatch s c (.mma t (.slots a.toNat) b steps false) fa fb (tileBlocks t) (128 * steps)

/-! ## MTQ at issue (R383) -/

/-- Whether two sets of ranges share a byte. -/
def rangesMeet (as bs : List (Nat × Nat)) : Bool :=
  as.any (fun p => bs.any (fun q => decide (p.1 < q.1 + q.2) && decide (q.1 < p.1 + p.2)))

/-- The ranges of MTQ's 32 rows of 32 elements.
DEDUCED, log entry 71. -/
def mtqRanges (fmt : Option FmtRef) (base : Nat) (p : Word) : List (Nat × Nat) :=
  (List.range 32).flatMap (fun r => rowRanges .nf fmt (rowAddr base p 0 r) 32)

def bodyMtq : Body := fun c e s =>
  let (ab, ap) := (e.opA s c, e.second s c e.w.fa)
  let (db, dp) := (e.scalar s c e.w.fd, e.second s c e.w.fd)
  let own := fun (p : Word) => if packOwn p then some (Cause.nearBounds, p) else none
  match pairMisaligned ab ap <|> pairMisaligned db dp <|> own ap <|> own dp
      <|> s.pairBounds .nf e.fmt ab ap 1 32 <|> s.pairBounds .nf e.fmt db dp 1 32
      <|> (if rangesMeet (mtqRanges e.fmt ab.toNat ap) (mtqRanges e.fmt db.toNat dp) then
             some (Cause.nearBounds, db) else none) with
  | some f => .trap f.1 f.2 none
  | none => e.joinBatch s c (.mtq (ab.toNat, ap) (db.toNat, dp)) e.fmt e.fmt [] 32

/-! ## The K-step (R373) -/

/-- Who an operation's accesses are made for, on its path. -/
def State.opAgent (s : State) (owner : OpOwner) (cls : PathClass) : Agent :=
  match owner with
  | .ctx c _ _ => ⟨c.1, cls, true⟩
  | .stop run _ => ⟨(s.graph.runs.get run).c.1, cls, true⟩
  | .remote _ => ⟨12, cls, true⟩
  | .orphan => ⟨11, cls, true⟩

/-- One operand row as values, and the address of its first poisoned byte, if one is (a slot's byte by its place in the
slot). -/
def State.readRow (s : State) (r : Agent) (src : TileSrc) (ty : Ty) (fmt : Option FmtRef) (t row : Nat) :
    (List Num × Option Nat) × State :=
  let n := 4096 / opWidth ty fmt
  match src with
  | .row bits => ((rowElems ty fmt n bits.toNat [], none), s)
  | .slots f =>
    let ks := keysFrom (slotKey ((f + 16 * t + row / 2) % 64) (512 * (row % 2))) 512
    ((rowElems ty fmt n (natOfBytes (ks.map s.mem.get)) [], s.firstPoison (512 * (row % 2)) ks), s)
  | .pair base p =>
    let addr := rowAddr base p t row
    let ks := s.nearKeys addr 512
    let (bs, s1) := s.readUnit r ks
    match fmt, blockLen fmt with
    | some f, some l =>
      let sks := s.nearKeys (addr + f.desc.offset) (n / l)
      let (sc, s2) := s1.readKeys r sks
      ((rowElems ty fmt n (natOfBytes bs) sc,
        s.firstPoison addr ks <|> s.firstPoison (addr + f.desc.offset) sks), s2)
    | _, _ => ((rowElems ty fmt n (natOfBytes bs) [], s.firstPoison addr ks), s1)

/-- Rows read one after another.
DEDUCED, log entry 69. -/
def State.readRows (s : State) (r : Agent) (src : TileSrc) (ty : Ty) (fmt : Option FmtRef) :
    List (Nat × Nat) → (List (List Num) × Option Nat) × State
  | [] => (([], none), s)
  | (t, row) :: rest =>
    let (p, s1) := s.readRow r src ty fmt t row
    let (q, s2) := s1.readRows r src ty fmt rest
    ((p.1 :: q.1, p.2 <|> q.2), s2)

/-- Groups of 32 consecutive products of two rows (R373). -/
def groupPairs : Nat → List Num → List Num → List (List (Num × Num))
  | 0, _, _ => []
  | n + 1, a, b => (a.take 32).zip (b.take 32) :: groupPairs n (a.drop 32) (b.drop 32)

/-- Groups accumulated into a pair, with OVERFLOW and NAN_MADE at most once (R104). -/
def accumulateAll (gs : List (List (Num × Num))) (p : BitVec 32 × BitVec 32) :
    (BitVec 32 × BitVec 32) × Ev :=
  gs.foldl (fun st g =>
    let x := groupSum (g.map (fun q => mulNum q.1 q.2))
    let made := x.isNan && g.all (fun q => !q.1.isNan && !q.2.isNan)
    let (s1, c1, ev) := accumulate st.1.1 st.1.2 x made
    ((s1, c1), { overflow := max st.2.overflow ev.overflow, nanMade := max st.2.nanMade ev.nanMade }))
    (p, Ev.zero)

/-- Output elements accumulated in turn: their block and element, and their groups. -/
def accumulateElems (m : Memory) (ev : Ev) : List (Nat × Nat × List (List (Num × Num))) → Memory × Ev
  | [] => (m, ev)
  | (b, e, gs) :: rest =>
    let (p, ev1) := accumulateAll gs (accGet m b e)
    accumulateElems (accPut m b e p) (ev.add ev1) rest

/-- The rows of a tile's steps: step and row. -/
def tileRows (steps rows : Nat) : List (Nat × Nat) :=
  (List.range steps).flatMap (fun t => (List.range rows).map (fun r => (t, r)))

/-- A multiply performed: `rows` output rows of 32 columns, placed by `place`; the address of the poison that it
read. -/
def State.multiply (s : State) (q : EngineOp) (a b : TileSrc) (steps rows : Nat)
    (place : Nat → Nat → Nat × Nat) : State × Option Nat :=
  let r := s.opAgent q.owner .m
  let (ra, s1) := s.readRows r a q.ty q.fa (tileRows steps rows)
  let (rb, s2) := s1.readRows r b q.ty q.fb (tileRows steps 32)
  if (ra.2 <|> rb.2).isSome then (s2.modMatrix (·.poison q.targets), ra.2 <|> rb.2)
  else
    let elems := (List.range rows).flatMap (fun i => (List.range 32).map (fun j =>
      ((place i j).1, (place i j).2, (List.range steps).flatMap (fun t =>
        let x := ra.1.getD (rows * t + i) []
        groupPairs (x.length / 32) x (rb.1.getD (32 * t + j) [])))))
    let (acc, ev) := accumulateElems s2.matrix.acc Ev.zero elems
    ((s2.count ev).modMatrix (fun m => { m with acc := acc }), none)

/-! ## MTQ performed (R383) -/

/-- The source rows of MTQ as values, each row's bytes read at one moment (R379). -/
def State.mtqRows (s : State) (r : Agent) (fmt : Option FmtRef) (base : Nat) (p : Word) :
    List Nat → (List (List Num) × Option Nat) × State
  | [] => (([], none), s)
  | i :: rest =>
    let rs := rowRanges .nf fmt (rowAddr base p 0 i) 32
    let ks := (rs.headD (0, 0))
    let sk := (rs.getD 1 (0, 0))
    let keys := s.nearKeys ks.1 ks.2
    let skeys := s.nearKeys sk.1 sk.2
    let (bs, s1) := s.readUnit r keys
    let (sc, s2) := s1.readKeys r skeys
    let (q, s3) := s2.mtqRows r fmt base p rest
    ((rowElems .nf fmt 32 (natOfBytes bs) sc :: q.1,
      s.firstPoison ks.1 keys <|> s.firstPoison sk.1 skeys <|> q.2), s3)

/-- A destination row of MTQ: the bytes of its elements and of its scales, with the events. -/
def mtqRow (f : FmtRef) (xs : List Num) : List Byte × List Byte × Ev :=
  let l := f.desc.block
  let w := f.desc.width
  let scales := (List.range (32 / l)).map (fun h => chooseScale f.desc.fmt ((xs.drop (h * l)).take l))
  let codes := xs.zipIdx.map (fun (x, i) =>
    roundTo f.desc.fmt .rne 0 (unscale x (((scales[i / l]?).getD (0, none)).2)))
  let bits := codes.zipIdx.foldl (fun a (c, i) => a + c.1 % 2 ^ w * 2 ^ (w * i)) 0
  (bytesOfNat (4 * w) bits, scales.map (fun p => BitVec.ofNat 8 p.1), evSum codes)

/-- MTQ performed; the address of the poison that it read. A poisoned source leaves its destination's bytes free. -/
def State.mtqRun (s : State) (q : EngineOp) (src dst : Nat × Word) : State × Option Nat :=
  match q.fa with
  | none => (s, none)
  | some f =>
    let r := s.opAgent q.owner .m
    let (x, s1) := s.mtqRows r q.fa src.1 src.2 (List.range 32)
    let put := fun (s : State) (j : Nat) (bs sc : List Byte) =>
      let addr := rowAddr dst.1 dst.2 0 j
      (s.writeKeys r (s.nearKeys addr bs.length) bs).writeKeys r
        (s.nearKeys (addr + f.desc.offset) sc.length) sc
    if x.2.isSome then
      ((List.range 32).foldl (fun s j =>
        let (bs, s2) := s.freeBytes (4 * f.desc.width)
        let (sc, s3) := s2.freeBytes (32 / f.desc.block)
        put s3 j bs sc) s1, x.2)
    else
      ((List.range 32).foldl (fun s j =>
        let (bs, sc, ev) := mtqRow f (x.1.map (fun row => row.getD j (.zero false)))
        put (s.count ev) j bs sc) s1, none)

/-! ## Completion -/

/-- Batches of a context that are complete leave its list, oldest first; a batch that completes wakes an
idle context (R376, R454). -/
def State.completeBatches (s : State) (c : Fin 11) : State :=
  let busy := fun (n : BitVec 3) => s.matrix.queue.any (fun q => match q.owner with
    | .ctx d _ (some k) => d == c && k == n
    | _ => false)
  let left := (s.ctx c).batches.dropWhile (fun n => !busy n)
  if left.length = (s.ctx c).batches.length then s
  else s.modCtx c (fun x => { x with batches := left }.wake)

/-- The status word of a message (R251). -/
def statusWord (code : BitVec 8) (dev : BitVec 14) (lrn : BitVec 10) (bytes : Nat) : Word :=
  code ++ dev ++ lrn ++ BitVec.ofNat 32 bytes

/-- A message leaves the list. -/
def State.dropMsg (s : State) (id : Nat) : State := { s with msgs := s.msgs.filter (fun m => m.id != id) }

/-- A message's status lands (R251). -/
def State.landMsg (s : State) (m : Msg) (v : Word) : State :=
  (s.dropMsg m.id).modCtx m.c (·.landDirect m.tr m.dest (v.setWidth 1024))

/-- CAPABILITY_DENIED (R389). -/
def State.denyMsg (s : State) (m : Msg) : State :=
  let s1 := s.landMsg m 0
  if m.orphan then s1
  else s1.lateFault m.c ⟨Cause.capabilityDenied, m.pc, none, none, m.inHandler, 0⟩

/-- This device and rank, as status words name them (R251). -/
def State.ownDev (s : State) : BitVec 14 := s.gpos.setWidth 14

/-- A device as this party numbers it: 0x3FFF is this one (R108, R247). -/
def State.devOf (s : State) (d : BitVec 14) : BitVec 14 := if d == 0x3FFF then s.ownDev else d

/-- A remote command's answer: to this rank's own MCMD, or to the outside (R389). -/
def State.answer (s : State) (cmd : RemoteCmd) (code : Option (BitVec 8)) : State :=
  if cmd.own then
    match s.msgs.find? (fun m => m.id == cmd.tag) with
    | some m =>
      match code with
      | some k => s.landMsg m (statusWord k s.ownDev s.lrn 0)
      | none => s.denyMsg m
    | none => s
  else
    let r : Reply := match code with
      | some k => ⟨cmd.tag, .ok, bytesOfNat 8 (statusWord k s.ownDev s.lrn 0).toNat⟩
      | none => ⟨cmd.tag, .denied, []⟩
    { s with replies := s.replies ++ [r] }

/-- What an operation that has ended means for its owner; `bad` is where it read poison (R224, R369, R376, R389,
R390). -/
def State.opEnded (s : State) (owner : OpOwner) (bad : Option Nat) (inHandler : Bool) : State :=
  match owner with
  | .ctx c pc _ =>
    let s1 := if bad.isSome then s.lateFault c ⟨Cause.poisoned, pc, none, none, inHandler, 0⟩ else s
    s1.completeBatches c
  | .stop run stop =>
    match bad with
    | some a => s.failStop run stop 6 0 (BitVec.ofNat 64 a)
    | none => s
  | .remote cmd => s.answer cmd (some (if bad.isSome then 4 else 0))
  | .orphan => s

/-- The tile row an ABREAD delivers (R105, R381), with its events. -/
def State.abreadRow (s : State) (b row : Nat) (ty : Ty) (fmt : Option FmtRef) (sat : Bool) :
    Vec × Ev :=
  let ls := (List.range 32).map (fun k =>
    let p := accGet s.matrix.acc b (32 * row + k)
    let x := pairValue p.1 p.2
    if ty == .i32 then
      let (i, ev) := toIntType true 32 .rne 0 x
      (BitVec.ofInt 32 i, ev)
    else
      let (code, ev) := roundTo (elemFmt ty fmt sat) .rne 0 x
      (BitVec.ofNat 32 code, ev))
  (packLanes (ls.map (·.1)), evSum ls)

/-- An ABREAD that reads its block (R378, R381). -/
def State.abreadLand (s : State) (f : Flight) (b row : Nat) (ty : Ty) (fmt : Option FmtRef) (sat : Bool) :
    State :=
  if (s.matrix.block b).poison then s.failFlight f Cause.poisoned none
  else
    let (v, ev) := s.abreadRow b row ty fmt sat
    ((s.count ev).dropFlight f.id).landIn f v

/-- The ABREADs that waited for an operation, which read once they wait for none (R378).
DEDUCED, log entry 72. -/
def State.releaseReads (s : State) (id : Nat) : State :=
  s.flights.foldl (fun s f =>
    match f.kind with
    | .abread b row ty fmt sat after =>
      if after.contains id then
        let left := after.erase id
        if left.isEmpty then s.abreadLand f b row ty fmt sat
        else { s with flights := s.flights.map (fun g =>
          if g.id == f.id then { g with kind := .abread b row ty fmt sat left } else g) }
      else s
    | _ => s) s

/-- An entry leaves the engine queue. -/
def State.leaveEngine (s : State) (id : Nat) : State :=
  ((s.modMatrix (fun m => { m with queue := m.queue.filter (fun q => q.id != id) })).releaseReads id).reapBlocks

/-- Whether an entry is a plane's, which only holds its place (R372). -/
def EngineOp.isPlane (q : EngineOp) : Bool := match q.kind with | .plane _ => true | _ => false

/-- Whether a matrix operation may start (R372, R377, R388): every matrix operation before it is done, and no
plane operation before it targets its blocks. -/
def State.engineReady (s : State) (q : EngineOp) : Bool :=
  !q.isPlane && !q.running
    && s.matrix.queue.all (fun p => decide (q.id ≤ p.id)
        || (p.isPlane && p.targets.all (fun b => !q.targets.contains b)))

/-- Whether a running operation may complete: it waits for every RCON into its slots issued before it (R177,
R375). -/
def State.engineDone (s : State) (q : EngineOp) : Bool := q.running && !s.slotFilling q.readsSlot q.id

/-- ENGINE_OP_START (R372). -/
def execEngineOpStart (s : State) : Host.Outcome State Fault Refusal :=
  powered s (
    match s.matrix.queue.find? s.engineReady with
    | some q => s.modMatrix (fun m => { m with queue := m.queue.map (fun p =>
        if p.id == q.id then { p with running := true } else p) })
    | none => s)

/-- A matrix operation performed (R373, R375, R383); the address of the poison that it read. -/
def State.performOp (s : State) (q : EngineOp) : State × Option Nat :=
  match q.kind with
  | .mma t a b steps zero =>
    let s1 := if zero then s.modMatrix (·.zero (tileBlocks t)) else s
    s1.multiply q a b steps 32 (fun i j => (t + (32 * i + j) / 256, (32 * i + j) % 256))
  | .mmav blk row a b => s.multiply q a b 1 1 (fun _ j => (blk, 32 * row + j))
  | .mtq src dst => s.mtqRun q src dst
  | .plane _ => (s, none)

/-- ENGINE_OP_COMPLETE (R372, R373). -/
def execEngineOpComplete (s : State) : Host.Outcome State Fault Refusal :=
  powered s (
    match s.matrix.queue.find? s.engineDone with
    | some q =>
      let (s1, bad) := s.performOp q
      (s1.leaveEngine q.id).opEnded q.owner bad q.inHandler
    | none => s)

/-! ## Batches (R376, R377) -/

def bodyMcommit : Body := fun c e s =>
  let x := s.ctx c
  if 8 ≤ x.batches.length then .stay s
  else
    let n := x.batchNext
    let s1 := s.modMatrix (fun m => { m with queue := m.queue.map (fun q => match q.owner with
      | .ctx d pc none => if d == c then { q with owner := .ctx d pc (some n) } else q
      | _ => q) })
    let s2 := s1.modCtx c (fun x =>
      { x with batches := x.batches ++ [n], batchNext := n + 1, openOps := 0 })
    .done (e.toFd (n.setWidth 64)) (s2.completeBatches c)

def bodyMwait : Body := fun c e s =>
  let b := e.opB s c
  if e.w.os.getLsbD 0 then (if (s.ctx c).batches.isEmpty then .done [] s else .stay s)
  else if 7 < b.toNat then .trap Cause.nearBounds b none
  else if (s.ctx c).batches.contains (b.setWidth 3) then .stay s else .done [] s

def bodyMpoll : Body := fun c e s =>
  let b := e.opB s c
  if 7 < b.toNat then .trap Cause.nearBounds b none
  else .done (e.truth (!(s.ctx c).batches.contains (b.setWidth 3))) s

/-! ## Block instructions (R380 to R382) -/

/-- MOD's N (R374). -/
def Entry.blockCount (e : Entry) : Nat := 2 ^ (e.w.os.extractLsb' 0 2).toNat

def bodyAballoc : Body := fun c e s =>
  let n := e.blockCount
  let free := fun (f : Nat) => (List.range n).all (fun i => (s.matrix.block (f + i)).alloc.isNone)
  match ((List.range (64 / n)).map (n * ·)).find? free with
  | none => .trap Cause.accExhausted (BitVec.ofNat 64 n) none
  | some f =>
    .done (e.toFd (BitVec.ofNat 64 f)) (s.modMatrix (fun m =>
      (List.range n).foldl (fun m i => m.modBlock (f + i) (fun k => { k with
        alloc := some (c, f, n)
        doomed := false })) m))

/-- The blocks ABFREE and ABZERO name, free to change: a wait, a fault or the list (R378). -/
def State.blocksFree (s : State) (b n : Nat) (go : List Nat → Act) : Act :=
  let bs := (List.range n).map (b + ·)
  if bs.any s.readPending then .stay s
  else match bs.find? s.inFlight with
    | some k => .trap Cause.accBusy (BitVec.ofNat 64 k) none
    | none => go bs

def bodyAbfree : Body := fun c e s =>
  let n := e.blockCount
  match e.blockOf s c e.w.fa e.addrStep with
  | .inr v => .trap Cause.nearBounds v none
  | .inl b =>
    if (s.matrix.block b).alloc ≠ some (c, b, n) then .trap Cause.nearBounds (BitVec.ofNat 64 b) none
    else s.blocksFree b n (fun bs =>
      .done [] (s.modMatrix (fun m =>
        bs.foldl (fun m k => m.modBlock k (fun x => { x with
          alloc := none
          doomed := false })) m)))

def bodyAbzero : Body := fun c e s =>
  let n := e.blockCount
  match e.blockOf s c e.w.fa e.addrStep with
  | .inr v => .trap Cause.nearBounds v none
  | .inl b =>
    match s.matrix.unallocated b n with
    | some k => .trap Cause.nearBounds (BitVec.ofNat 64 k) none
    | none => s.blocksFree b n (fun bs => .done [] (s.modMatrix (·.zero bs)))

/-- The tile row and block an ABREAD or an ABWRITE names; the NEAR_BOUNDS value otherwise: the row is
checked first (log). -/
def Entry.blockRow (e : Entry) (s : State) (c : Fin 11) : (Nat × Nat) ⊕ Word :=
  if 7 < (e.opB s c).toNat then .inr (e.opB s c)
  else
    match e.blockOf s c e.w.fa e.addrStep with
    | .inr v => .inr v
    | .inl b =>
      if (s.matrix.block b).alloc.isNone then .inr (BitVec.ofNat 64 b) else .inl (b, (e.opB s c).toNat)

def bodyAbread : Body := fun c e s =>
  match e.blockRow s c with
  | .inr v => .trap Cause.nearBounds v none
  | .inl (b, row) =>
    let after := (s.matrix.queue.filter (fun q => q.targets.contains b)).map (·.id)
    if after.isEmpty then
      if (s.matrix.block b).poison then
        if s.inFlight b then .done [(e.fdReg, 0)] (s.lateFault c ⟨Cause.poisoned, e.pc, none, none, (s.ctx c).inh, 0⟩)
        else .trap Cause.poisoned e.pc none
      else
        let (v, ev) := s.abreadRow b row e.w.ty e.fmt e.sat
        .done [(e.fdReg, v)] (s.count ev)
    else
      let f : Flight :=
        { id := s.nextId, c := c, pc := e.pc, kind := .abread b row e.w.ty e.fmt e.sat after, keys := [],
          dpa := 0, tr := e.w.hints.tr, unpended := false, near := true, dest := some e.fdReg, xl := .ready,
          acquire := false, redo := none, inHandler := (s.ctx c).inh, peer := none, gateDead := none,
          orphan := false, asOf := none }
      .done [] ({ s with flights := s.flights ++ [f], nextId := s.nextId + 1 }.modCtx c
        (·.expect e.w.hints.tr [e.fdReg]))

def bodyAbwrite : Body := fun c e s =>
  match e.blockRow s c with
  | .inr v => .trap Cause.nearBounds v none
  | .inl (b, row) =>
    s.blocksFree b 1 (fun _ =>
      let lanes := lanesOf (e.vec s c e.w.fd)
      let put := fun (m : Memory) (p : BitVec 32 × Nat) =>
        accPut m b (32 * row + p.2) (aloneLane .f32 p.1, 0)
      let k := s.matrix.block b
      let done := k.rewritten ||| BitVec.ofNat 8 (2 ^ row)
      let k' : Block := if k.poison && done = 0xFF then { k with poison := false, rewritten := 0 }
        else if k.poison then { k with rewritten := done } else k
      .done [] (s.modMatrix (fun m =>
        { m.modBlock b (fun _ => k') with acc := lanes.zipIdx.foldl put m.acc })))

/-! ## Status (R384) -/

/-- The engine's status word. -/
def Matrix.engineStatus (m : Matrix) : Word :=
  wordField 32 m.work ||| wordField 16 m.queue.length ||| wordField 0 (if m.queue.any (·.running) then 1 else 0)

/-- The base-two logarithm of an allocation's length. -/
def lenCode (n : Nat) : Nat := match n with | 1 => 0 | 2 => 1 | 4 => 2 | _ => 3

/-- A block's status word. -/
def State.blockStatus (s : State) (b : Nat) : Word :=
  let m := s.matrix
  (match (m.block b).alloc with
    | some (c, first, len) => wordField 10 first ||| wordField 8 (lenCode len) ||| wordField 4 c.1 ||| 1
    | none => 0)
    ||| wordField 2 (if (m.block b).poison then 1 else 0) ||| wordField 1 (if s.inFlight b then 1 else 0)

/-- A context's batch status word. -/
def Ctx.batchStatus (x : Ctx) : Word :=
  wordField 16 x.batchNext.toNat
    ||| (x.batches.foldl (fun a n => a ||| wordField (8 + n.toNat) 1) 0) ||| wordField 0 (min x.openOps 31)

def bodyMstat : Body := fun c e s =>
  match (e.w.os.extractLsb' 0 2).toNat with
  | 0 => .done (e.toFd s.matrix.engineStatus) s
  | 1 =>
    let b := e.opA s c
    if 63 < b.toNat then .trap Cause.nearBounds b none
    else .done (e.toFd (s.blockStatus b.toNat)) s
  | _ => .done (e.toFd (s.ctx c).batchStatus) s

/-! ## Capabilities (R385 to R387) -/

/-- CHECK of a token's low 40 bits under a key (R386). -/
def tokenCheck (key : BitVec 256) (low : Nat) : Nat :=
  natOfBytes ((sha512 (bytesOfNat 32 key.toNat ++ bytesOfNat 5 low)).take 3)

/-- The bound party's `PARTY.ID` bits [7:0]. -/
def State.partyId (s : State) : BitVec 8 := partyIdOf s.party

/-- Blocks a token grants: first and count. -/
def tokenBlocks (t : Word) : Nat × Nat :=
  ((t.extractLsb' 14 6).toNat, 4 * 2 ^ (t.extractLsb' 12 2).toNat)

/-- The window a token grants: first byte and length. -/
def tokenWindow (t : Word) : Nat × Nat :=
  (8192 * (t.extractLsb' 6 6).toNat, 8192 * ((t.extractLsb' 0 6).toNat + 1))

def bodyMcap : Body := fun c e s =>
  let r := e.opA s c
  let (ab, an) := tokenBlocks r
  let (wb, wn) := tokenWindow r
  if r.extractLsb' 22 42 != 0 || 64 < ab + an || ab % 4 != 0 || !s.spadOk wb wn then
    .trap Cause.nearBounds r none
  else
    let low : BitVec 40 := s.partyId ++ s.lrn ++ r.extractLsb' 0 22
    .done (e.toFd (BitVec.ofNat 64 (low.toNat + 2 ^ 40 * tokenCheck s.party.key low.toNat))) s

/-! ## Remote commands (R388, R389, R391) -/

/-- COLL.TIMEOUT in cycles (R245). -/
def State.timeoutCycles (s : State) : Nat := s.party.timeout.toNat * 1100

/-- Whether a device and an LRN name this rank. -/
def State.isSelf (s : State) (dev : BitVec 14) (lrn : BitVec 10) : Bool :=
  (dev == 0x3FFF || dev == s.ownDev) && lrn == s.lrn

/-- Whether an access in flight stores and has still to complete. -/
def Flight.stores (f : Flight) : Bool :=
  !f.lost && (match f.kind with
    | .store _ | .atomic _ _ _ _ _ | .compare _ _ _ => true
    | _ => false)

/-- A store of a context on path S that has issued and has not completed, in flight or in the hamper (R248,
R295); inside a handler the hamper is frozen (R303). -/
def State.storing (s : State) (c : Fin 11) : Bool :=
  s.flights.any (fun f => f.c == c && f.stores)
    || (!(s.ctx c).inh && (s.ctx c).hamper.any (fun h => isStore h.op))

/-- Whether an instruction that reads memory at issue on path S is not yet in program order (R193, R207): a store
or an acquire of its context has still to complete. -/
def State.loadWaits (s : State) (c : Fin 11) : Bool := s.storing c || s.acquiring c

/-- Whether a read at issue of `n` near bytes on path S is not yet in program order (R193, R207): an acquire of its
context, or a store of it that may write them, has still to complete.
DEDUCED, log entry 45. -/
def State.readWaits (s : State) (c : Fin 11) (a n : Nat) : Bool :=
  s.acquiring c
    || s.flights.any (fun f => f.c == c && f.stores && f.near && f.keys.any (s.nearKeys a n).contains)
    || (!(s.ctx c).inh && (s.ctx c).hamper.any (fun h =>
      isStore h.op && overlaps (h.span s c) (some (true, [(a, n)]))))

/-- A format descriptor's word and its scale's, as a command carries them. -/
def State.fmtPair (s : State) (n : BitVec 6) : Word × Word :=
  let w := s.fmtWord s.asid n
  (w, s.fmtWord s.asid (Desc.ofWord w).scfd)

/-- The descriptor a carried pair of words holds. -/
def fmtOfPair (ty : Ty) (p : Word × Word) : Option FmtRef :=
  if ty == .nf then
    some ⟨Desc.ofWord p.1, if (Desc.ofWord p.1).sckind then some (Desc.ofWord p.2).fmt else none⟩
  else none

/-- A poisoned descriptor: the S-path load of it fails, and with it the instruction (R124, R269).
DEDUCED, log entry 55. -/
def Entry.badDescriptor (e : Entry) (s : State) (c : Fin 11) : Act :=
  .done (e.toFd 0) (s.lateFault c ⟨Cause.poisoned, e.pc, none, none, (s.ctx c).inh, 0⟩)

def bodyMcmd : Body := fun c e s =>
  let a := e.opA s c
  let token := e.opB s c
  if decide (16 ≤ s.msgs.length) || s.readWaits c a.toNat 64 then .stay s
  else if a.toNat % 64 != 0 then .trap Cause.misaligned a none
  else if !s.nearOk a.toNat 64 then .trap Cause.nearBounds a none
  else
    let ks := s.nearKeys a.toNat 64
    let (bs, s1) := s.readKeys ⟨c.1, .s, true⟩ ks
    let r := BitVec.ofNat 512 (natOfBytes bs)
    if s.poisonedAt ks then e.badDescriptor s c else
    let (fa, fb) := (OpFmt.ofPack e.modFd (recWord r 1), OpFmt.ofPack e.modFd (recWord r 3))
    if recReserved r then .trap Cause.nearBounds a none
    else
      match s.mulFmts e.w.ty fa fb with
      | none => e.badFormat
      | some _ =>
        let lrn : BitVec 10 := token.extractLsb' 22 10
        let self := s.isSelf (recDev r) lrn
        let (pa, pb) := (s.fmtPair fa.n, s.fmtPair fb.n)
        let cmd : RemoteCmd :=
          { dev := s.ownDev, lrn := s.lrn, member := true, token := token, record := r, ty := e.w.ty,
            fmts := (pa.1, pa.2, pb.1, pb.2), own := true, tag := s.nextId }
        let m : Msg :=
          { id := s.nextId, kind := .mcmd, c := c, pc := e.pc, dest := e.fdReg, dev := recDev r, lrn := lrn,
            tag := 0, len := 0, raddr := 0, laddr := 0, deadline := s.wall + s.timeoutCycles,
            matched := none, cmd := if self then some cmd else none, tr := e.w.hints.tr,
            inHandler := (s.ctx c).inh, orphan := false }
        .done [] ({ s1 with msgs := s1.msgs ++ [m], nextId := s1.nextId + 1 }.modCtx c
          (·.expect m.tr [e.fdReg]))

/-- Whether the target grants a command (R389). -/
def State.granted (s : State) (m : RemoteCmd) (fa fb : Option FmtRef) : Bool :=
  let t := m.token
  let (ab, an) := tokenBlocks t
  let (wb, wn) := tokenWindow t
  let steps := recSteps m.record
  let rows := fun (fmt : Option FmtRef) (base packed : Word) =>
    (tileRows steps 32).flatMap (fun p =>
      rowRanges m.ty fmt (rowAddr base.toNat packed p.1 p.2) (4096 / opWidth m.ty fmt))
  (t.extractLsb' 40 24).toNat == tokenCheck s.party.key (t.extractLsb' 0 40).toNat
    && t.extractLsb' 22 10 == s.lrn && t.extractLsb' 32 8 == s.partyId && t.getLsbD 20
    && (!recZero m.record || t.getLsbD 21)
    && decide (ab ≤ recBlock m.record) && decide (recBlock m.record + 4 ≤ ab + an)
    && (rows fa (recWord m.record 0) (recWord m.record 1)
        ++ rows fb (recWord m.record 2) (recWord m.record 3)).all (fun r =>
          decide (wb ≤ r.1) && decide (r.1 + r.2 ≤ wb + wn))

/-- A command this rank sent to itself has arrived.
DEDUCED, log entry 74. -/
def State.arrivedCmd (s : State) (m : RemoteCmd) : State :=
  if m.own then
    { s with msgs := s.msgs.map (fun k => if k.id == m.tag then { k with cmd := none } else k) }
  else s

/-- The descriptors of a command's operands. -/
def cmdFmts (m : RemoteCmd) : Option FmtRef × Option FmtRef :=
  (fmtOfPair m.ty (m.fmts.1, m.fmts.2.1), fmtOfPair m.ty (m.fmts.2.2.1, m.fmts.2.2.2))

/-- The answer to a command that the bound target does not accept: a status code, or with none a refusal (R389). -/
def State.cmdRefusal (s : State) (m : RemoteCmd) : Option (Option (BitVec 8)) :=
  let (fa, fb) := cmdFmts m
  let (ab, ap) := (recWord m.record 0, recWord m.record 1)
  let (bb, bp) := (recWord m.record 2, recWord m.record 3)
  let (b, steps) := (recBlock m.record, recSteps m.record)
  if !s.granted m fa fb then some none
  else if b % 4 != 0 || (s.matrix.unallocated b 4).isSome
      || (pairMisaligned ab ap <|> pairMisaligned bb bp
          <|> s.pairBounds m.ty fa ab ap steps (4096 / opWidth m.ty fa)
          <|> s.pairBounds m.ty fb bb bp steps (4096 / opWidth m.ty fb)).isSome then some (some 3)
  else none

/-- Whether a message of this rank to itself that is a command waits for an earlier PUT or SEND (R252, R388). -/
def State.cmdBehind (s : State) (m : RemoteCmd) : Bool :=
  m.own && (s.msgs.takeWhile (fun k => k.id != m.tag)).any (fun k =>
    s.isSelf k.dev k.lrn && (k.kind == .put || k.kind == .send))

/-- What a command that has entered the queue reads of its rows is ordered after (R389): what a FENCE at the target had
brought to path M, and the issuer's earlier PUTs. -/
def State.showCmd (s : State) (m : RemoteCmd) : State :=
  s.modUnseen (fun u =>
    if (u.cls != .m && allCtx.any (fun c => u.visibleTo ⟨c.1, .m, true⟩))
        || u.writer == peerWriter (s.devOf m.dev) m.lrn then u.view [⟨12, .m, true⟩]
    else u)

/-- MCMD_ARRIVE (R372, R388, R389, R391): verified, then queued or answered; kept until its target party is bound, or
until the queue has room and every command for the party that arrived before it has entered. -/
def execMcmdArrive (m : RemoteCmd) (s : State) : Host.Outcome State Fault Refusal :=
  powered s (
    let s1 := ({ s with cmds := s.cmds.erase m }).arrivedCmd m
    let kept := { s1 with cmds := if s.cmds.contains m then s.cmds else s.cmds ++ [m] }
    let (fa, fb) := cmdFmts m
    let steps := recSteps m.record
    if s.cmdBehind m then s
    else if !m.member then s1.answer m (some 5)
    else if !s.party.bound || s.targetSaved m then kept
    else
      match s.cmdRefusal m with
      | some code => s1.answer m code
      | none =>
        if !s.matrix.room (128 * steps) || s.liveCmds.headD m != m then kept
        else
          (s1.showCmd m).engineEnqueue (.remote m) (.mma (recBlock m.record) (.pair (recWord m.record 0).toNat (recWord m.record 1))
              (.pair (recWord m.record 2).toNat (recWord m.record 3)) steps (recZero m.record))
            m.ty fa fb (tileBlocks (recBlock m.record)) (128 * steps) false)

/-- The next command that waits which can go on: one that is refused, or the first when there is room. -/
def State.cmdDue (s : State) : Option RemoteCmd :=
  (s.liveCmds.find? (fun k => (s.cmdRefusal k).isSome))
    <|> (s.liveCmds.head?.filter (fun k => s.matrix.room (128 * recSteps k.record)))

/-- MCMD_TIMEOUT (R389, R391): a command that waits for an unbound party is not performed. -/
def execMcmdTimeout (n : Nat) (s : State) : Host.Outcome State Fault Refusal :=
  powered s (
    match s.cmds[n]? with
    | some m =>
      if s.party.bound && !s.targetSaved m then s else { s with cmds := s.cmds.erase m }.answer m (some 2)
    | none => s)

/-- MCMD_STATUS_LAND (R389): the answer of another rank to an outstanding command. -/
def execMcmdStatusLand (n : Nat) (r : CmdReply) (s : State) : Host.Outcome State Fault Refusal :=
  powered s (
    match s.msgs[n]? with
    | some m =>
      if m.kind == .mcmd && !s.isSelf m.dev m.lrn then
        match r with
        | .landed code dev lrn => s.landMsg m (statusWord code dev lrn 0)
        | .denied => s.denyMsg m
      else s
    | none => s)

/-! ## The meanings -/

/-- MMAS (R375). -/
def execMmas (w : Fields) (s : State) : Host.Outcome State Fault Refusal :=
  issue .mmas w bodyMmas s

/-- MMAV (R375). -/
def execMmav (w : Fields) (s : State) : Host.Outcome State Fault Refusal :=
  issue .mmav w bodyMmav s

/-- MMAR (R375). -/
def execMmar (w : Fields) (s : State) : Host.Outcome State Fault Refusal :=
  issue .mmar w bodyMmar s

/-- MCOMMIT (R376). -/
def execMcommit (w : Fields) (s : State) : Host.Outcome State Fault Refusal :=
  issue .mcommit w bodyMcommit s

/-- MWAIT (R377). -/
def execMwait (w : Fields) (s : State) : Host.Outcome State Fault Refusal :=
  issue .mwait w bodyMwait s

/-- MPOLL (R377). -/
def execMpoll (w : Fields) (s : State) : Host.Outcome State Fault Refusal :=
  issue .mpoll w bodyMpoll s

/-- MCMD (R388). -/
def execMcmd (w : Fields) (s : State) : Host.Outcome State Fault Refusal :=
  issue .mcmd w bodyMcmd s

/-- MCAP (R387). -/
def execMcap (w : Fields) (s : State) : Host.Outcome State Fault Refusal :=
  issue .mcap w bodyMcap s

/-- ABALLOC (R380). -/
def execAballoc (w : Fields) (s : State) : Host.Outcome State Fault Refusal :=
  issue .aballoc w bodyAballoc s

/-- ABFREE (R380). -/
def execAbfree (w : Fields) (s : State) : Host.Outcome State Fault Refusal :=
  issue .abfree w bodyAbfree s

/-- ABZERO (R380). -/
def execAbzero (w : Fields) (s : State) : Host.Outcome State Fault Refusal :=
  issue .abzero w bodyAbzero s

/-- ABREAD (R381). -/
def execAbread (w : Fields) (s : State) : Host.Outcome State Fault Refusal :=
  issue .abread w bodyAbread s

/-- ABWRITE (R382).
DEDUCED, log entry 73. -/
def execAbwrite (w : Fields) (s : State) : Host.Outcome State Fault Refusal :=
  issue .abwrite w bodyAbwrite s

/-- MTQ (R383). -/
def execMtq (w : Fields) (s : State) : Host.Outcome State Fault Refusal :=
  issue .mtq w bodyMtq s

/-- MSTAT (R384). -/
def execMstat (w : Fields) (s : State) : Host.Outcome State Fault Refusal :=
  issue .mstat w bodyMstat s

end Sys2Proof.Machine
end

