-- ==== Sys2Proof/Machine/Planes.lean ====
section
/-! DEFINITION. The weight planes (R392 to R413). -/

namespace Sys2Proof.Machine

/-! ## Images and residency (R392 to R394, R399) -/

/-- The key of alternative `a` of plane `p` in the plane memory. -/
def altKey (p a : Nat) : Nat := 65536 * (4 * p + a)

def imageBytes : Nat := 33280

/-- The weight of a cell (R393). -/
def weightAt (m : Memory) (p a r col : Nat) : Int :=
  signedOf 4 ((m.get (altKey p a + 64 * r + col / 2)).toNat / 16 ^ (col % 2) % 16)

/-- A column scale (R393). -/
def scaleAt (m : Memory) (p a col : Nat) : Num :=
  (fmtF32 false).decode (m.getNat (altKey p a + 32768 + 4 * col) 4)

/-- The sums of a column under the two test tokens (R399, R410): −1 in every row; 85 in the even rows and −86 in
the odd ones. Rows whose weights are zero add nothing. -/
def testSums (m : Memory) (p a col : Nat) : Int × Int :=
  m.cells.foldl (fun k c =>
    let o := c.1 - altKey p a
    if altKey p a ≤ c.1 && o < 32768 && o % 64 == col / 2 then
      let w := signedOf 4 (c.2.toNat / 16 ^ (col % 2) % 16)
      (k.1 - w, k.2 + w * (if o / 64 % 2 = 0 then 85 else -86))
    else k) (0, 0)

/-- Both known sums of every column of an alternative (R399). -/
def knownSums (m : Memory) (p a : Nat) : List (Int × Int) := (List.range 128).map (testSums m p a)

def Matrix.setKnown (m : Matrix) (p a : Nat) (sums : List (Int × Int)) : Matrix :=
  { m with known := ((p, a), sums) :: m.known.filter (·.1 != (p, a)) }

/-- The known sums kept with an alternative: zero where none has been loaded since the planes were zeroed.
DEDUCED, log entry 76. -/
def Matrix.knownOf (m : Matrix) (p a : Nat) : List (Int × Int) :=
  match m.known.find? (·.1 == (p, a)) with
  | some k => k.2
  | none => List.replicate 128 (0, 0)

/-- Soft errors strike cells of a plane (R410): each flips a bit of a weight. -/
def Matrix.strike (m : Matrix) (p : Nat) (fs : List CellFlip) : Matrix :=
  { m with planeMem := fs.foldl (fun pm f =>
      let k := altKey p f.alt.toNat + 64 * f.row.toNat + f.col.toNat / 2
      pm.set k (pm.get k ^^^ BitVec.ofNat 8 (2 ^ (4 * (f.col.toNat % 2) + f.bit.toNat)))) m.planeMem }

/-- Entry `a` of plane `p`'s residency table (R394). -/
def Matrix.resident (m : Matrix) (p a : Nat) : Word := m.residency.toList.getD (4 * p + a) 0
def Matrix.setResident (m : Matrix) (p a : Nat) (w : Word) : Matrix :=
  { m with residency := setAt m.residency (4 * p + a) w }

def resValid (w : Word) : Bool := w.getLsbD 24
def resExpert (w : Word) : Nat := (w.extractLsb' 0 8).toNat

/-- The slot of a plane that holds an expert (R404). -/
def Matrix.slotOf (m : Matrix) (p tag : Nat) : Option Nat :=
  (List.range 4).find? (fun a => resValid (m.resident p a) && resExpert (m.resident p a) == tag)

/-- The planes after a bind (R138, R392). -/
def Matrix.zeroPlanes (m : Matrix) : Matrix :=
  { m with planeMem := Memory.empty, known := [], residency := Vector.replicate 8 0,
           checkLog := Vector.replicate 2 (0, 0), activeView := false, activePlane := false }

/-- The inactive plane of the issue view (R396). -/
def Matrix.inactive (m : Matrix) : Nat := if m.activeView then 0 else 1

/-! ## The plane queue (R395) -/

/-- Whether both queues have room (R395). -/
def State.planeRoom (s : State) : Bool := decide (s.matrix.planeQueue.length < 8) && s.engineRoom 0

/-- An operation put into both queues under one number. -/
def State.planeEnqueue (s : State) (owner : OpOwner) (plane : Nat) (kind : PlaneKind) (targets : List Nat)
    (inHandler : Bool) : State :=
  let id := s.nextId
  let q : PlaneOp :=
    { id := id, owner := owner, plane := plane, kind := kind, started := false, waits := [],
      inHandler := inHandler }
  let e : EngineOp :=
    { id := id, owner := .orphan, kind := .plane id, ty := .i8, fa := none, fb := none, targets := targets,
      cost := 0, running := false, waits := [], inHandler := inHandler }
  { s with nextId := id + 1,
           matrix := { s.matrix with queue := s.matrix.queue ++ [e],
                                     planeQueue := s.matrix.planeQueue ++ [q] } }

/-- A plane instruction enqueued by a context, once there is room. -/
def Entry.planeOp (e : Entry) (s : State) (c : Fin 11) (plane : Nat) (kind : PlaneKind)
    (targets : List Nat) (res : List (RegName × Vec)) : Act :=
  if !s.planeRoom then .stay s
  else .done res (s.planeEnqueue (.ctx c e.pc none) plane kind targets (s.ctx c).inh)

def PlaneKind.isPass : PlaneKind → Bool
  | .pass _ _ _ _ _ _ _ _ | .grad _ _ _ _ _ _ _ => true
  | _ => false

def PlaneKind.isLoad : PlaneKind → Bool
  | .load _ _ _ | .check _ _ => true
  | _ => false

/-- Whether a WLOAD of a plane is queued or running (R403, R411); a WCHK. -/
def Matrix.loading (m : Matrix) (p : Nat) : Bool :=
  m.planeQueue.any (fun q => q.plane == p && (match q.kind with | .load _ _ _ => true | _ => false))
def Matrix.checking (m : Matrix) (p : Nat) : Bool :=
  m.planeQueue.any (fun q => q.plane == p && (match q.kind with | .check _ _ => true | _ => false))

/-! ## WLOAD and WSWAP at issue (R399, R401) -/

def bodyWload : Body := fun c e s =>
  let src := e.opA s c
  let alt := e.opB s c
  let p := s.matrix.inactive
  if e.w.os.getLsbD 0 then
    if 63 < src.toNat then .trap Cause.nearBounds src none
    else if 3 < alt.toNat then .trap Cause.nearBounds alt none
    else e.planeOp s c p (.load alt.toNat true src.toNat) [] []
  else if src.toNat % 8 != 0 then .trap Cause.misaligned src none
  else if 3 < alt.toNat then .trap Cause.nearBounds alt none
  else if !s.spadOk src.toNat imageBytes then .trap Cause.nearBounds src none
  else e.planeOp s c p (.load alt.toNat false src.toNat) [] []

def bodyWswap : Body := fun c e s =>
  match e.planeOp s c 0 .swap [] [] with
  | .done res s1 => .done res (s1.modMatrix (fun m => { m with activeView := !m.activeView }))
  | a => a

/-! ## Passes at issue (R402 to R404, R407) -/

def passBlock (p : Word) : Nat := (p.extractLsb' 58 6).toNat
def passTokens (p : Word) : Nat := (p.extractLsb' 52 6).toNat
def passPitch (p : Word) : Nat := (p.extractLsb' 16 16).toNat
def passRow0 (p : Word) : Nat := (p.extractLsb' 32 9).toNat

/-- `CTX.PLANE.CFG` fields (R408). -/
def Ctx.planeFull (x : Ctx) : Bool := x.planeCfg.getLsbD 0
def Ctx.planeClipTrap (x : Ctx) : Bool := x.planeCfg.getLsbD 1
def Ctx.planeTol (x : Ctx) : Bool := x.planeCfg.getLsbD 2

/-- The first token row or scale run that breaks R180 (R403): rows of 512 bytes, runs of `n`. -/
def State.passBounds (s : State) (abase sbase pitch spitch ntok n : Nat) : Option Word :=
  ((List.range ntok).flatMap (fun t => [(abase + t * pitch, 512), (sbase + t * spitch, n)])).findSome? (fun r =>
    if s.nearOk r.1 r.2 then none
    else some (BitVec.ofNat 64 (((List.range r.2).map (r.1 + ·)).find? (fun a => !s.nearOk a 1) |>.getD r.1)))

/-- The slots of a pass's tokens, in order, and the tokens that missed; or the token and the tag of the
first miss that is not tolerated (R404). -/
def Matrix.tagCheck (m : Matrix) (p : Nat) (tol : Bool) : List (Nat × Nat) →
    (List (Option Nat) × List Nat) ⊕ (Nat × Nat)
  | [] => .inl ([], [])
  | (t, tag) :: rest =>
    let go := fun (slot : Option Nat) (miss : List Nat) =>
      match m.tagCheck p tol rest with
      | .inr f => .inr f
      | .inl (ss, ms) => .inl (slot :: ss, miss ++ ms)
    if tag = 0xFF then go none []
    else
      match m.slotOf p tag with
      | some a => go (some a) []
      | none => if tol then go none [t] else .inr (t, tag)

/-- TRAP.INFO of TAG_MISS (R404). -/
def missInfo (t tag : Nat) : Word := BitVec.ofNat 64 (tag + 256 * t)

/-- The tag of a token under the mask (R404). -/
def Entry.tagOf (e : Entry) (s : State) (c : Fin 11) (tags : Vec) (t : Nat) : Nat :=
  if e.active s c t then (tags.extractLsb' (32 * t) 8).toNat else 0xFF

/-- The mask of a list of tokens. -/
def tokenMask (ts : List Nat) : Vec := BitVec.ofNat 1024 (ts.foldl (fun a t => a + 2 ^ t) 0)

/-- Alignment and bounds that WPASS and WGACC share (R403, R407): `blocks` the blocks written, `spitch`
and `n` the second rows' pitch and length. -/
def State.passFault (s : State) (first packed : Word) (reserved : Bool) (blocks spitch n : Nat) :
    Option (BitVec 8 × Word) :=
  let abase := (first.extractLsb' 0 32).toNat
  let sbase := (first.extractLsb' 32 32).toNat
  if abase % 8 != 0 then some (Cause.misaligned, BitVec.ofNat 64 abase)
  else if passPitch packed % 8 != 0 then some (Cause.misaligned, packed)
  else if sbase % 4 != 0 then some (Cause.misaligned, BitVec.ofNat 64 sbase)
  else if passTokens packed = 0 || 32 < passTokens packed || reserved then some (Cause.nearBounds, packed)
  else
    match s.passBounds abase sbase (passPitch packed) spitch (passTokens packed) n with
    | some a => some (Cause.nearBounds, a)
    | none =>
      (s.matrix.unallocated (passBlock packed) blocks).map (fun b => (Cause.nearBounds, BitVec.ofNat 64 b))

def bodyWpass : Body := fun c e s =>
  let x := s.ctx c
  let (first, packed) := (e.opA s c, e.second s c e.w.fa)
  let p := if e.w.os.getLsbD 0 then 1 else 0
  let n := passTokens packed
  let reserved := packed.extractLsb' 32 20 != 0 || packed.extractLsb' 0 16 != 0
  match s.passFault first packed reserved ((n + 1) / 2) 4 4 with
  | some f => .trap f.1 f.2 none
  | none =>
    if e.w.os.getLsbD 2 && (s.matrix.loading p || s.matrix.checking p) then
      .trap Cause.planeBusy (BitVec.ofNat 64 p) none
    else
      let tags := e.vec s c e.w.fb
      match s.matrix.tagCheck p x.planeTol ((List.range n).map (fun t => (t, e.tagOf s c tags t))) with
      | .inr (t, tag) => .trap Cause.tagMiss (missInfo t tag) none
      | .inl (slots, misses) =>
        match e.planeOp s c p
            (.pass (first.extractLsb' 0 32).toNat (first.extractLsb' 32 32).toNat (passPitch packed)
              (passBlock packed) n slots x.planeFull x.planeClipTrap)
            ((List.range ((n + 1) / 2)).map (passBlock packed + ·)) [(e.fdReg, tokenMask misses)] with
        | .done res s1 => .done res (s1.count { tagMisses := misses.length })
        | a => a

def bodyWgacc : Body := fun c e s =>
  let (first, packed) := (e.opA s c, e.second s c e.w.fa)
  let p := if e.w.os.getLsbD 2 then 1 else 0
  let alt := (e.w.os.extractLsb' 0 2).toNat
  let n := passTokens packed
  let reserved := packed.extractLsb' 41 11 != 0 || packed.extractLsb' 0 16 != 0 || passRow0 packed % 64 != 0
  match s.passFault first packed reserved 32 (passPitch packed) 512 with
  | some f => .trap f.1 f.2 none
  | none =>
    let res := s.matrix.resident p alt
    if !resValid res then .trap Cause.nearBounds (BitVec.ofNat 64 alt) none
    else
      let tags := e.vec s c e.w.fb
      let sel := (List.range n).filter (fun t => e.tagOf s c tags t == resExpert res)
      e.planeOp s c p
        (.grad alt (first.extractLsb' 0 32).toNat (first.extractLsb' 32 32).toNat (passPitch packed)
          (passBlock packed) (passRow0 packed) sel)
        ((List.range 32).map (passBlock packed + ·)) [(e.fdReg, tokenMask sel)]

/-! ## Configuration, residency, checks and status (R408 to R411) -/

def bodyWcfg : Body := fun c e s =>
  let v := e.opA s c
  if v &&& ~~~0x107 != 0 then .trap Cause.nearBounds v none
  else .done [] (s.modCtx c (fun x =>
    { x with planeCfg := (v &&& 7) ||| (if v.getLsbD 8 then 0 else x.planeCfg &&& 0x100) }))

def bodyWres : Body := fun c e s =>
  let a := e.opA s c
  let w := e.opB s c
  let p := if e.w.os.getLsbD 0 then 1 else 0
  if 3 < a.toNat then .trap Cause.nearBounds a none
  else if w.extractLsb' 25 39 != 0 || (resValid w && (resExpert w == 255
      || (List.range 4).any (fun k => k != a.toNat && resValid (s.matrix.resident p k)
          && resExpert (s.matrix.resident p k) == resExpert w))) then .trap Cause.nearBounds w none
  else .done [] (s.modMatrix (·.setResident p a.toNat w))

def bodyWchk : Body := fun c e s =>
  match e.planeOp s c (if e.w.os.getLsbD 0 then 1 else 0) (.check e.fdReg e.w.hints.tr) [] [] with
  | .done res s1 => .done res (s1.modCtx c (·.expect e.w.hints.tr [e.fdReg]))
  | a => a

/-- The plane's status word (R411). -/
def Matrix.planeStatus (m : Matrix) (p : Nat) : Word :=
  let log := m.checkLog.toList.getD p (0, 0)
  wordField 12 log.1.toNat ||| wordField 5 log.2.toNat ||| wordField 2 (if m.checking p then 1 else 0)
    ||| wordField 1 (if m.loading p then 1 else 0) ||| wordField 0 (if m.inactive = p then 0 else 1)

def bodyWstat : Body := fun c e s =>
  let p := if e.w.os.getLsbD 2 then 1 else 0
  let a := e.opA s c
  if (e.w.os.extractLsb' 0 2).toNat = 0 then .done (e.toFd (s.matrix.planeStatus p)) s
  else if 3 < a.toNat then .trap Cause.nearBounds a none
  else .done (e.toFd (s.matrix.resident p a.toNat)) s

/-! ## Starting (R395, R399) -/

/-- Whether an operation before another keeps it from starting (R395). -/
def PlaneOp.holds (q p : PlaneOp) : Bool :=
  match p.kind with
  | .swap => true
  | _ =>
    (match q.kind with | .swap => true | _ => false)
      || (p.kind.isPass && ((q.kind.isLoad && q.plane == p.plane) || q.kind.isPass))
      || (p.kind.isLoad && ((q.kind.isPass && q.plane == p.plane) || q.kind.isLoad))

/-- Whether an operation may start: those before it have started, and none of them holds it; RCONs into
its slots are done, and engine operations before it on its blocks (R177, R395, R397). -/
def State.planeReady (s : State) (p : PlaneOp) : Bool :=
  !p.started
    && s.matrix.planeQueue.all (fun q => decide (p.id ≤ q.id) || (q.started && !q.holds p))
    && !s.slotFilling p.readsSlot p.id
    && s.matrix.queue.all (fun q => decide (p.id ≤ q.id)
        || q.targets.all (fun b => !(s.matrix.queue.any (fun r => r.id == p.id && r.targets.contains b))))

/-- An operation leaves both queues. -/
def State.leavePlane (s : State) (id : Nat) : State :=
  (s.modMatrix (fun m => { m with planeQueue := m.planeQueue.filter (·.id != id) })).leaveEngine id

/-- PLANE_OP_START (R395): operation `n` of the queue starts; a swap takes effect at once. -/
def execPlaneOpStart (n : Nat) (s : State) : Host.Outcome State Fault Refusal :=
  powered s (
    match s.matrix.planeQueue[n]? with
    | some p =>
      if s.planeReady p then
        match p.kind with
        | .swap => (s.modMatrix (fun m => { m with activePlane := !m.activePlane })).leavePlane p.id
        | _ => s.modMatrix (fun m => { m with planeQueue := m.planeQueue.map (fun q =>
            if q.id == p.id then { q with started := true } else q) })
      else s
    | none => s)

/-! ## What operations do (R399, R400, R405 to R407, R410) -/

/-- WLOAD performed; whether it read poison (R399, R400). -/
def State.loadPlane (s : State) (q : PlaneOp) (alt : Nat) (slots : Bool) (src : Nat) : State × Bool :=
  let keys := if slots then
      (List.range 33).flatMap (fun k => keysFrom (slotKey ((src + k) % 64) 0) (if k = 32 then 512 else 1024))
    else s.nearKeys src imageBytes
  let (bs, s1) := if slots then (keys.map s.mem.get, s) else s.readKeys (s.opAgent q.owner .w) keys
  let k := altKey q.plane alt
  if s.poisonedAt keys then
    (s1.modMatrix (fun m =>
      ({ m with planeMem := m.planeMem.clear k (k + 65536) }.setKnown q.plane alt
        (List.replicate 128 (0, 0))).setResident q.plane alt (m.resident q.plane alt &&& ~~~0x1000000)), true)
  else
    (s1.modMatrix (fun m =>
      let pm := m.planeMem.setBytes k bs
      { m with planeMem := pm }.setKnown q.plane alt (knownSums pm q.plane alt)), false)

/-- The number of rows of a token whose activation bit and weight bit are both set (R405). -/
def rowCount (acts : List Nat) (ws : List Nat) (i j : Nat) : Nat :=
  (acts.zip ws).countP (fun p => p.1.testBit i && p.2.testBit j)

/-- The counted dot product of a token and a column, and whether a counter clipped (R405, R406). -/
def countedDot (full : Bool) (acts ws : List Nat) : Int × Bool :=
  (List.range 8).foldl (fun st i => (List.range 4).foldl (fun st j =>
    let n := rowCount acts ws i j
    let clip := !full && decide (255 < n)
    let m : Int := ((if clip then 255 else n) * 2 ^ (i + j) : Nat)
    ((if (i == 7) != (j == 3) then st.1 - m else st.1 + m), st.2 || clip)) st) (0, false)

/-- A column's weights as 4-bit codes, row by row. -/
def columnCodes (m : Memory) (p a col : Nat) : List Nat :=
  (List.range 512).map (fun r => (m.get (altKey p a + 64 * r + col / 2)).toNat / 16 ^ (col % 2) % 16)

/-- One output element of a pass: its accumulated pair, its events and whether it clipped (R405). -/
def passElem (m : Memory) (p a col : Nat) (full : Bool) (acts : List Nat) (ts : Num)
    (pair : BitVec 32 × BitVec 32) : (BitVec 32 × BitVec 32) × Ev × Bool :=
  let (d, clip) := countedDot full acts (columnCodes m p a col)
  let cs := scaleAt m p a col
  let x := mulNum (mulNum (Num.ofInt d) ts) cs
  let (g, ev) := roundF32 x
  let made := x.isNan && !ts.isNan && !cs.isNan
  let (s1, c1, ev2) := accumulate pair.1 pair.2 g made
  ((s1, c1), { overflow := max ev.overflow ev2.overflow, nanMade := ev2.nanMade,
               clip := if clip then 1 else 0 }, clip)

/-- A token's 128 elements accumulated. -/
def passToken (pm : Memory) (p a : Nat) (full : Bool) (acts : List Nat) (ts : Num) (blk first : Nat)
    (st : Memory × Ev × Bool) : Memory × Ev × Bool :=
  (List.range 128).foldl (fun st col =>
    let (pair, ev, clip) := passElem pm p a col full acts ts (accGet st.1 blk (first + col))
    (accPut st.1 blk (first + col) pair, st.2.1.add ev, st.2.2 || clip)) st

/-- The rows a pass reads for its tokens: each token's row and what stands beside it, each of one moment (R406, R407),
and the address of the first poisoned byte. -/
def State.passRows (s : State) (r : Agent) (abase sbase pitch spitch n : Nat) :
    List Nat → (List (List Byte × List Byte) × Option Nat) × State
  | [] => (([], none), s)
  | t :: ts =>
    let ks := s.nearKeys (abase + t * pitch) 512
    let sk := s.nearKeys (sbase + t * spitch) n
    let (a, s1) := s.readUnit r ks
    let (b, s2) := s1.readUnit r sk
    let (q, s3) := s2.passRows r abase sbase pitch spitch n ts
    (((a, b) :: q.1,
      s.firstPoison (abase + t * pitch) ks <|> s.firstPoison (sbase + t * spitch) sk <|> q.2), s3)

/-- What an operation that ends did: where it read poison, whether it clipped, and whether under CLIPTRAP. -/
structure PlaneEnd where
  poison : Option Nat
  clipped : Bool
  trap : Bool
  deriving DecidableEq, Repr

/-- CLIPPED set for the context a pass belongs to (R406, R412). -/
def State.markClipped (s : State) (owner : OpOwner) : State :=
  let set := fun (c : Fin 11) => s.modCtx c (fun x => { x with planeCfg := x.planeCfg ||| 0x100 })
  match owner with
  | .ctx c _ _ => set c
  | .stop run _ => set (s.graph.runs.get run).c
  | _ => s

/-- WPASS performed (R405, R406). -/
def State.runPass (s : State) (q : PlaneOp) (abase sbase pitch ablk : Nat) (slot : List (Option Nat))
    (full clipTrap : Bool) : State × PlaneEnd :=
  let toks := slot.zipIdx.filterMap (fun (p : Option Nat × Nat) => p.1.map (fun a => (p.2, a)))
  let ((rows, bad), s1) := s.passRows (s.opAgent q.owner .w) abase sbase pitch 4 4 (toks.map (·.1))
  if bad.isSome then
    (s1.modMatrix (·.poison ((List.range ((slot.length + 1) / 2)).map (ablk + ·))), ⟨bad, false, false⟩)
  else
    let (acc, ev, clip) := (toks.zip rows).foldl (fun st (p : (Nat × Nat) × (List Byte × List Byte)) =>
      passToken s.matrix.planeMem q.plane p.1.2 full (p.2.1.map (·.toNat))
        ((fmtF32 false).decode (natOfBytes p.2.2)) (ablk + p.1.1 / 2) (128 * (p.1.1 % 2)) st)
      (s1.matrix.acc, Ev.zero, false)
    let s2 := (s1.count ev).modMatrix (fun m => { m with acc := acc })
    (if clip then s2.markClipped q.owner else s2, ⟨none, clip, clip && clipTrap⟩)

/-- WGACC performed (R407). -/
def State.runGrad (s : State) (q : PlaneOp) (xbase dbase pitch ablk row0 : Nat) (tokens : List Nat) :
    State × PlaneEnd :=
  let ((rows, bad), s1) := s.passRows (s.opAgent q.owner .w) xbase dbase pitch pitch 512 tokens
  if bad.isSome then (s1.modMatrix (·.poison ((List.range 32).map (ablk + ·))), ⟨bad, false, false⟩)
  else if tokens.isEmpty then (s1, ⟨none, false, false⟩)
  else
    let dy := rows.map (fun p => (List.range 128).map (fun col =>
      (fmtF32 false).decode (natOfBytes ((p.2.drop (4 * col)).take 4))))
    let xs := rows.map (fun p => (List.range 64).map (fun r =>
      Num.ofInt (signedOf 8 (p.1.getD (row0 + r) 0).toNat)))
    let elems := (List.range 64).flatMap (fun r => (List.range 128).map (fun col =>
      (ablk + r / 2, 128 * (r % 2) + col,
        [(xs.map (·.getD r (.zero false))).zip (dy.map (·.getD col (.zero false)))])))
    let (acc, ev) := accumulateElems s1.matrix.acc Ev.zero elems
    ((s1.count ev).modMatrix (fun m => { m with acc := acc }), ⟨none, false, false⟩)

/-- The columns of an alternative whose test sums differ from its known ones (R410). -/
def Matrix.mismatches (m : Matrix) (p a : Nat) : List Nat :=
  (((knownSums m.planeMem p a).zip (m.knownOf p a)).zipIdx.filter (fun k => k.1.1 != k.1.2)).map (·.2)

/-- What a check of a plane finds (R410): the alternatives that mismatch, and the lowest column of the lowest. -/
def Matrix.checked (m : Matrix) (p : Nat) : BitVec 4 × BitVec 7 :=
  let bad := (List.range 4).filter (fun a => !(m.mismatches p a).isEmpty)
  (BitVec.ofNat 4 (bad.foldl (fun n a => n + 2 ^ a) 0),
    BitVec.ofNat 7 ((bad.head?.bind (fun a => (m.mismatches p a).head?)).getD 0))

/-- WCHK's word (R410). -/
def checkWord (plane : Nat) (found : BitVec 4 × BitVec 7) : Word :=
  wordField 63 (if found.1 = 0 then 0 else 1) ||| wordField 12 plane ||| wordField 8 found.1.toNat
    ||| wordField 0 found.2.toNat

/-- WCHK performed (R410, R411): its word lands, and a mismatch is delivered once it has. -/
def State.runCheck (s : State) (q : PlaneOp) (dest : RegName) (tr : Bool) : State :=
  let found := s.matrix.checked q.plane
  let w := checkWord q.plane found
  let s1 := s.modMatrix (fun m => { m with checkLog := setAt m.checkLog q.plane found })
  match q.owner with
  | .ctx c _ _ =>
    let s2 := s1.modCtx c (·.landDirect tr dest (w.setWidth 1024))
    if found.1 = 0 then s2 else s2.lateFault c ⟨Cause.arrayCheck, w, none, none, q.inHandler, 0⟩
  | _ => s1

/-- PLANE_OP_COMPLETE (R395, R399, R400, R405 to R407, R410): operation `n` of the queue completes, soft errors
having struck cells of its plane first. -/
def execPlaneOpComplete (n : Nat) (struck : List CellFlip) (s0 : State) : Host.Outcome State Fault Refusal :=
  powered s0 (
    match s0.matrix.planeQueue[n]? with
    | some q =>
      if !q.started then s0
      else
        let s := s0.modMatrix (·.strike q.plane struck)
        let late := fun (s : State) (p : PlaneEnd) =>
          let s1 := (s.leavePlane q.id).opEnded q.owner p.poison q.inHandler
          match q.owner with
          | .ctx c pc _ =>
            if p.trap then s1.lateFault c ⟨Cause.arrayClip, pc, none, none, q.inHandler, 0⟩ else s1
          | _ => s1
        match q.kind with
        | .load alt slots src =>
          let (s1, poison) := s.loadPlane q alt slots src
          late s1 ⟨if poison then some src else none, false, false⟩
        | .pass abase sbase pitch ablk _ slot full clipTrap =>
          let (s1, p) := s.runPass q abase sbase pitch ablk slot full clipTrap
          late s1 p
        | .grad _ xbase dbase pitch ablk row0 tokens =>
          let (s1, p) := s.runGrad q xbase dbase pitch ablk row0 tokens
          late s1 p
        | .check dest tr => (s.runCheck q dest tr).leavePlane q.id
        | .swap => s0
    | none => s0)

/-! ## The meanings -/

/-- WLOAD (R399). -/
def execWload (w : Fields) (s : State) : Host.Outcome State Fault Refusal :=
  issue .wload w bodyWload s

/-- WSWAP (R401). -/
def execWswap (w : Fields) (s : State) : Host.Outcome State Fault Refusal :=
  issue .wswap w bodyWswap s

/-- WPASS (R404). -/
def execWpass (w : Fields) (s : State) : Host.Outcome State Fault Refusal :=
  issue .wpass w bodyWpass s

/-- WRES (R409). -/
def execWres (w : Fields) (s : State) : Host.Outcome State Fault Refusal :=
  issue .wres w bodyWres s

/-- WCHK (R410). -/
def execWchk (w : Fields) (s : State) : Host.Outcome State Fault Refusal :=
  issue .wchk w bodyWchk s

/-- WGACC (R407). -/
def execWgacc (w : Fields) (s : State) : Host.Outcome State Fault Refusal :=
  issue .wgacc w bodyWgacc s

/-- WCFG (R408). -/
def execWcfg (w : Fields) (s : State) : Host.Outcome State Fault Refusal :=
  issue .wcfg w bodyWcfg s

/-- WSTAT (R411). -/
def execWstat (w : Fields) (s : State) : Host.Outcome State Fault Refusal :=
  issue .wstat w bodyWstat s

end Sys2Proof.Machine
end

