-- ==== Sys2Proof/Machine/Reduce.lean ====
section
/-! DEFINITION. The arithmetic of collective reductions and of chunk reduce stops (R261, R262, R469). -/

namespace Sys2Proof.Machine

/-- Whether a reduction type is a floating one. -/
def Ty.isFloat : Ty → Bool
  | .f32 | .bf16 | .f16 => true
  | _ => false

/-- The better of two codes under MAX (R261) or MIN: floating ones order -0 below +0, and a NaN gives the
canonical one. -/
def reduceBest (ty : Ty) (max : Bool) (a b : Nat) : Nat :=
  let w := 8 * ty.bytes
  if Ty.isFloat ty then minMaxCode (floatFmt ty false) max a b
  else if ty.signed then
    (if (signedOf w a ≤ signedOf w b) == max then b else a)
  else if (decide (a ≤ b)) == max then b else a

/-- One FP32 addition of a reduction: RNE under the IEEE policy (R262). -/
def addF32 (a b : Num) : Num := (roundF32 (addNum .rne a b)).1

/-- A step of ORDERED's tree: neighbours added, left to right. -/
def addPairs : List Num → List Num
  | a :: b :: rest => addF32 a b :: addPairs rest
  | rest => rest

/-- ORDERED's tree over a power of two of leaves, `n` levels high (R262). -/
def orderedTree : Nat → List Num → Num
  | 0, xs => xs.headD (.zero false)
  | n + 1, xs => orderedTree n (addPairs xs)

/-- The smallest level count whose leaves hold `p` members. -/
def treeLevels (p : Nat) : Nat := if p ≤ 1 then 0 else Nat.log2 (p - 1) + 1

/-- ORDERED's sum: the leaves padded with +0 (R262). -/
def orderedSum (xs : List Num) : Num :=
  let l := treeLevels xs.length
  orderedTree l (xs ++ List.replicate (2 ^ l - xs.length) (.zero false))

/-- ARRIVAL's sum: some tree over the members' inputs, freely chosen (R262, R469).
DESIGN CHOICE, log entry 26. -/
def State.arrivalSum (s : State) : Nat → List Num → Num × State
  | 0, xs => (xs.headD (.zero false), s)
  | n + 1, xs =>
    if xs.length ≤ 1 then (xs.headD (.zero false), s)
    else if xs.length = 2 then (addF32 (xs.headD (.zero false)) (xs.getD 1 (.zero false)), s)
    else
      let (i, s1) := s.choose xs.length
      let a := xs.getD i (.zero false)
      let rest := xs.eraseIdx i
      let (j, s2) := s1.choose rest.length
      s2.arrivalSum n (addF32 a (rest.getD j (.zero false)) :: rest.eraseIdx j)

/-- One element reduced from the members' codes by ROP under ORDERED or ARRIVAL (R261, R262). -/
def State.reduceElem (s : State) (ty : Ty) (arrival : Bool) (rop : Nat) (codes : List Nat) : Nat × State :=
  if rop != 0 then
    (match codes with
      | [] => 0
      | a :: rest => rest.foldl (reduceBest ty (rop == 1)) (reduceBest ty (rop == 1) a a), s)
  else if Ty.isFloat ty then
    let f := floatFmt ty false
    let xs := codes.map f.decode
    let (x, s1) := if arrival then s.arrivalSum xs.length xs else (orderedSum xs, s)
    ((roundTo f .rne 0 x).1, s1)
  else (codes.foldl (fun a b => a + b) 0 % 2 ^ (8 * ty.bytes), s)

/-- The exponent of a finite nonzero value: floor(log2 |x|).
DEDUCED, log entry 21. -/
def Num.log2? : Num → Option Int
  | .fin _ m e _ => if m = 0 then none else some (e + Nat.log2 m)
  | _ => none

/-- A value times a power of two, rounded to an integer, nearest even (R262). -/
def roundInt (x : Num) (shift : Int) : Int :=
  match x with
  | .fin neg m e _ =>
    let (t, rem, n) := splitAt' m (e + shift) 0
    let q : Nat := if roundUp .rne neg t rem n false 0 then t + 1 else t
    if neg then -(q : Int) else q
  | _ => 0

/-- FIXED's sum of one chunk's elements: the members' values of each element (R262).
DEDUCED, log entry 25. -/
def fixedChunk (ty : Ty) (p : Nat) (cols : List (List Nat)) : List Nat :=
  let f := floatFmt ty false
  let xs := cols.map (·.map f.decode)
  let e : Int := (xs.flatten.filterMap Num.log2?).foldl max (-150)
  let shift : Int := 61 - e - (treeLevels p : Nat)
  xs.map (fun col =>
    if col.any (fun x => x.isNan || x.isInf) then f.nanCode
    else
      let q : Int := (col.map (fun x => roundInt x shift)).sum
      (roundTo f .rne 0 (.fin (q < 0) q.natAbs (-shift) false)).1)

/-- FIXED's sum in chunks of 256 elements (R262). -/
def fixedSum (ty : Ty) (p : Nat) : Nat → List (List Nat) → List Nat
  | 0, _ => []
  | n + 1, cols =>
    if cols.isEmpty then [] else fixedChunk ty p (cols.take 256) ++ fixedSum ty p n (cols.drop 256)

/-- Every element of a reduction, in order: the members' codes of each (R261, R262). -/
def State.reduceAll (s : State) (ty : Ty) (mode rop : Nat) (p : Nat) (cols : List (List Nat)) :
    List Nat × State :=
  if mode = 2 then (fixedSum ty p (cols.length / 256 + 1) cols, s)
  else cols.foldl (fun (st : List Nat × State) col =>
    let (v, s1) := st.2.reduceElem ty (mode == 1) rop col
    (st.1 ++ [v], s1)) ([], s)

/-- The elements of `n` bytes each in a run of bytes. -/
def elemsOf (n : Nat) (bs : List Byte) : List Nat :=
  (List.range (bs.length / n)).map (fun k => natOfBytes ((bs.drop (n * k)).take n))

end Sys2Proof.Machine
end

