-- ==== Sys2Proof/Machine/Graph.lean ====
section
/-! DEFINITION. The graph engine (R211 to R231, R242, R275 to R277, R390, R412): itineraries, stops and
runs. -/

namespace Sys2Proof.Machine

def State.modGraph (s : State) (f : Graph → Graph) : State := { s with graph := f s.graph }
def State.run (s : State) (r : Fin 4) : RunSlot := s.graph.runs.get r
def State.modRun (s : State) (r : Fin 4) (f : RunSlot → RunSlot) : State :=
  s.modGraph (fun g => { g with runs := g.runs.set r.1 (f (g.runs.get r)) r.2 })
/-- The stop in progress replaced. -/
def State.putStop (s : State) (p : StopRun) : State :=
  s.modGraph (fun g => { g with inProgress := g.inProgress.map (fun q =>
    if q.run == p.run && q.stop == p.stop then p else q) })

def allRuns : List (Fin 4) := [0, 1, 2, 3]

/-! ## The stop (R213, R215, R219) -/

def stopKind (b : BitVec 512) : Nat := (b.extractLsb' 0 4).toNat
def stopPred (b : BitVec 512) : Nat := (b.extractLsb' 40 10).toNat
def stopRec (b : BitVec 512) : Bool := b.getLsbD 55
/-- The event bit a stop sets, if it sets one. -/
def stopEvent (b : BitVec 512) : Option Nat := if b.getLsbD 54 then some (b.extractLsb' 50 4).toNat else none
def stopNsucc (b : BitVec 512) : Nat := (b.extractLsb' 63 3).toNat
def stopSucc (b : BitVec 512) (j : Nat) : Nat := (b.extractLsb' (88 + 10 * j) 10).toNat
def stopOvf (b : BitVec 512) : Nat × Nat := ((b.extractLsb' 66 12).toNat, (b.extractLsb' 78 10).toNat)
def stopCount (b : BitVec 512) (j : Nat) : Nat := (b.extractLsb' (128 + 16 * j) 16).toNat
def stopStride (b : BitVec 512) (j : Nat) : Int := (b.extractLsb' (192 + 32 * j) 32).toInt

/-- The fence flags of a stop as classes (R213). -/
def stopFence (b : BitVec 512) : List PathClass :=
  ([PathClass.s, .r, .m, .w, .g, .c, .o].zipIdx.filter (fun (p : PathClass × Nat) => b.getLsbD (56 + p.2))).map (·.1)

/-- Bytes of a size code (R40). -/
def szBytes (n : Nat) : Nat :=
  match n with
  | 0 => 1 | 1 => 2 | 2 => 4 | 3 => 8 | 4 => 64 | 5 => 128 | _ => 1024

def stopSize (b : BitVec 512) : Nat := szBytes (b.extractLsb' 400 3).toNat

/-- The elements a copy or a fill moves (R216). -/
def stopTotal (b : BitVec 512) : Nat := stopCount b 0 * stopCount b 1 * stopCount b 2 * stopCount b 3

/-- A stop of the loaded itinerary. -/
def Graph.stop (g : Graph) (n : Nat) : BitVec 512 := g.stops.getD n 0

/-- The successors of a stop, inline then overflow (R218, R219). -/
def Graph.succs (g : Graph) (n : Nat) : List Nat :=
  let b := g.stop n
  (List.range (min (stopNsucc b) 4)).map (stopSucc b)
    ++ (List.range (stopOvf b).2).map (fun i => (g.overflow.getD ((stopOvf b).1 + i) 0).toNat % 1024)

/-- Stops with every stop they descend from (R222). -/
def Graph.withAncestors (g : Graph) : Nat → List Nat → List Nat
  | 0, xs => xs
  | n + 1, xs =>
    let more := (List.range g.stops.length).filter (fun y =>
      !xs.contains y && (g.succs y).any (fun k => xs.contains k))
    if more.isEmpty then xs else g.withAncestors n (more ++ xs)

/-! ## Addresses (R214) -/

/-- Where an element lies: near, global or on the row area, or the failure its address earns: STATUS,
REASON and INFO. -/
inductive ElemAt where
  | near (a : Nat)
  | global (a : Nat)
  | row (a : Nat)
  | bad (status : BitVec 8) (reason : BitVec 4) (info : Word)
  deriving DecidableEq, Repr

def ElemAt.addr : ElemAt → Nat
  | .near a | .global a | .row a => a
  | .bad _ _ i => i.toNat

def ElemAt.isRow : ElemAt → Bool
  | .row _ => true
  | _ => false

/-- An element of `n` bytes at a base word and an exact offset. -/
def State.elemAt (s : State) (w : Word) (off : Int) (n : Nat) : ElemAt :=
  let near := w.getLsbD 63
  let row := w.getLsbD 62
  let a : Int := ((w.extractLsb' 0 57).toNat : Int) + off
  let bad := ElemAt.bad 1 0 (BitVec.ofInt 64 a)
  if (near && row) || w.extractLsb' 57 5 != 0 || (near && w.extractLsb' 32 25 != 0) then bad
  else if near then
    if a < 0 || (2 ^ 32 : Int) < a + n || !s.nearOk a.toNat n then bad else .near a.toNat
  else if row then
    if a < 0 || (2 ^ 27 : Int) ≤ a || s.rowWindow ≤ a.toNat % 2 ^ 23 / 1024 then bad else .row a.toNat
  else if a < 0 || (2 ^ 57 : Int) < a + n then .bad 3 5 (BitVec.ofInt 64 a)
  else .global a.toNat

/-- What reaching a place comes to: the keys of its bytes; a page that holds it; or a failure. -/
inductive Reach where
  | keys (ks : List Nat) (s : State)
  | held (token : BitVec 32) (va : Nat) (s : State)
  | failed (cause : BitVec 8) (xlat : Option Word) (s : State)
  deriving DecidableEq, Repr

/-- Whether an address of the rank's own address space leads, by region 0, to another rank's memory, through its
gate (R136), and by which link. -/
def State.gatedVa (s : State) (va : Nat) : Option (Option Peer) :=
  match s.walk s.asid va with
  | .leaf e _ lvl =>
    let dpa := entPpn e * 4096 + va % leafSize lvl
    (match s.resolve s.asid dpa with
     | .ok p => if dpa / 2 ^ 52 = 0 && (p.peer.isSome || p.other.isSome) then some p.peer else none
     | .error _ => none)
  | _ => none

/-- Whether a gate may refuse with a reason (R108, R137): another module's with 8, or its rank map with 6, and
this device's with 1 or 6. -/
def gateReason (peer : Option Peer) (r : BitVec 4) : Bool :=
  match peer with
  | some _ => r == 6 || r == 8
  | none => r == 1 || r == 6

/-- The key of the byte at a virtual address, as the tables map it now. -/
def State.peekKey (s : State) (asid : BitVec 8) (va : Nat) : Option Nat :=
  match s.walk asid va with
  | .leaf e _ lvl =>
    (match s.leafKeys asid e (va - va % leafSize lvl) (leafSize lvl) va 1 with
     | .ok (k :: _, _, _) => some k
     | _ => none)
  | _ => none

/-- Whether a place of an engine's access lies over the narrow port that a transfer holds (R163). -/
def State.keyHeld (s : State) (k : Option Nat) : Bool := s.portHeld && (k.map s.ownPort).getD false

/-- What an engine's access waits as, the PC its records carry, and the pages whose records have failed for it. -/
structure Waiter where
  who : Holder
  pc : Word
  failed : List (BitVec 45 × BitVec 3 × BitVec 4)
  deriving DecidableEq, Repr

/-- A global access of a stop, a stream or ILOAD, translated as its context's own (R214, R221, R227); pages the
host has declined fail. -/
def State.reachGlobal (s : State) (c : Fin 11) (va n : Nat) (k : AccessKind) (w : Waiter) : Reach :=
  match s.translate s.asid (BitVec.ofNat 64 va) n k (s.ctx c).inh w.pc with
  | (.ok ks _ _, s1) => .keys ks s1
  | (.absent a h, s1) =>
    (match w.failed.find? (fun d => d.1 == BitVec.ofNat 45 (a / 4096)) with
     | some d => .failed (xlatCause d.2.1) (some (xlatWord d.2.1 d.2.2 (BitVec.ofNat 64 a))) s1
     | none =>
       let (token, s2) := s1.holdPage s.asid a h k w.pc w.who
       .held token a s2)
  | (.fail f r a, s1) => .failed (xlatCause f) (some (xlatWord f r (BitVec.ofNat 64 a))) s1

/-- The STATUS of a cause (R224). -/
def stopStatus (cause : BitVec 8) : BitVec 8 :=
  if cause = Cause.nearBounds then 1
  else if cause = Cause.misaligned then 2
  else if cause = Cause.notPresent then 4
  else if cause = Cause.remoteLost then 5
  else if cause = Cause.poisoned then 6
  else if cause = Cause.rowUncorrectable then 7
  else if cause = Cause.bankBusy then 8
  else 3

/-- The REASON of a PAGE_PERM (R224). -/
def stopReason (cause : BitVec 8) (xlat : Option Word) : BitVec 4 :=
  if cause = Cause.pagePerm then (xlat.getD 0).extractLsb' 57 4 else 0

/-! ## Records, successors and the end of a run (R218 to R225) -/

/-- Writes of a run's stops made visible to classes (R222). -/
def State.fenceStops (s : State) (run : Fin 4) (stops : List Nat) (classes : List PathClass) : State :=
  s.modUnseen (fun u =>
    match u.stop with
    | some (r, k) =>
      if r == run && stops.contains k then u.view (agentsOf (s.run run).c.1 classes [u.near]) else u
    | none => u)

/-- A run slot freed; its writes keep no tie to it (R231, R317). -/
def State.freeRun (s : State) (run : Fin 4) : State :=
  { s with unseen := s.unseen.map (fun (u : Unseen) =>
      match u.stop with
      | some (r, _) => if r == run then { u with stop := none } else u
      | none => u) }.modGraph (fun g =>
    { g with runs := g.runs.set run.1 RunSlot.blank run.2,
             launchQueue := g.launchQueue.filter (fun q => q.1 != run) })

/-- Whether a stop of a run is in progress. -/
def State.runBusy (s : State) (run : Fin 4) : Bool := s.graph.inProgress.any (fun p => p.run == run)

/-- Whether a run's stops have all that will happen behind them: it is done, or nothing of it is in
progress or queued (R223, R317). -/
def State.runOver (s : State) (run : Fin 4) : Bool :=
  (s.run run).state == 2
    || ((s.run run).coll.isNone && !s.runBusy run && !s.graph.launchQueue.any (fun q => q.1 == run))

/-- Runs of contexts that have ended, retired once they are over (R317, R436). -/
def State.reapRuns (s : State) : State :=
  allRuns.foldl (fun s r => if (s.run r).dropping && s.runOver r then s.freeRun r else s) s

/-- A run's context sees its events or state change (R454). -/
def State.wakeRun (s : State) (run : Fin 4) : State := s.modCtx (s.run run).c (·.wake)

/-- A run that turns done (R223). -/
def State.runDone (s : State) (run : Fin 4) : State := (s.modRun run (fun r => { r with state := 2 })).wakeRun run

/-- A completion record (R224). -/
def State.stopRecord (s : State) (run : Fin 4) (n : Nat) (b : BitVec 512) (events : BitVec 16)
    (fail : Option (BitVec 8 × BitVec 4 × Word)) : Nat :=
  let f := fail.getD (0, 0, 0)
  n + run.1 * 2 ^ 34 + stopKind b * 2 ^ 36 + f.2.1.toNat * 2 ^ 40 + f.1.toNat * 2 ^ 48
    + (b.extractLsb' 32 8).toNat * 2 ^ 56 + events.toNat * 2 ^ 64 + (s.run run).seq.toNat * 2 ^ 96
    + f.2.2.toNat * 2 ^ 128 + s.now % 2 ^ 64 * 2 ^ 192

/-- A record written to the run's ring (R225).
DESIGN CHOICE, log entry 139. -/
def State.writeRecord (s : State) (run : Fin 4) (n : Nat) (rec : Nat) : State :=
  let r := s.run run
  let a := (r.ring.extractLsb' 5 27).toNat * 32 + 32 * (r.seq.toNat % 2 ^ (r.ring.extractLsb' 0 4).toNat)
  (s.writeAs (run, n) ⟨r.c.1, .g, true⟩ (s.nearKeys a 32) (bytesOfNat 32 rec)).modRun run
    (fun r => { r with seq := r.seq + 1 })

/-- A counter decremented (R218): the counters, and whether it has reached zero. -/
def decCounter (cs : List Nat) (n : Nat) : List Nat × Bool :=
  match cs[n]? with
  | some (k + 1) => (setNth n k cs, k == 0)
  | _ => (cs, false)

/-- The counters after a stop's successors are decremented in order, with the stops that became ready. -/
def decAll (cs : List Nat) : List Nat → List Nat × List Nat
  | [] => (cs, [])
  | k :: ks =>
    let (cs1, ready) := decCounter cs k
    let (cs2, rest) := decAll cs1 ks
    (cs2, if ready then insertNat k rest else rest)

/-- Whether the itinerary holds a chunk stop, so that a run of it is a step for the gate (R277). -/
def Graph.hasChunks (g : Graph) : Bool :=
  g.stops.any (fun b => stopKind b == 4 || stopKind b == 5 || stopKind b == 6)

/-- Whether the rank is inside a step of a collective or of a chunk-stop run (R136, R277). -/
def State.insideStep (s : State) : Bool :=
  s.scopes.toList.any (fun q => q.queue.any (·.inside))
    || (s.graph.hasChunks && allRuns.any (fun r => (s.run r).state == 1 && (s.run r).coll.isNone))

/-- A step left: the requests that the gate has held until now are due, unless this rank is inside another step
(R136). -/
def State.exitStep (s : State) : State :=
  if s.insideStep then s else { s with gate := s.gate.map (fun g => { g with due := true }) }

/-- A step entered: a request that is still held waits for its exit (R136, R444). -/
def State.enterGate (s : State) : State := { s with gate := s.gate.map (fun g => { g with due := false }) }

/-- A stop ends (R220, R222, R223): its record, its event, its successors' counters, and the end of its
run. The fence flags take effect where it completes. -/
def State.endStop (s : State) (p : StopRun) : State :=
  let r := s.run p.run
  let n := p.stop.toNat
  let b := s.graph.stop n
  let events := match stopEvent b with
    | some k => r.events ||| BitVec.ofNat 16 (2 ^ k)
    | none => r.events
  let s1 := s.modGraph (fun g => { g with inProgress := g.inProgress.filter (fun q =>
    !(q.run == p.run && q.stop == p.stop)) })
  let s2 := if (p.fail.isSome || stopRec b) && !r.ring.getLsbD 4 then
      s1.writeRecord p.run n (s1.stopRecord p.run n b events p.fail) else s1
  let s3 := if p.fail.isSome then s2
    else s2.fenceStops p.run (s.graph.withAncestors s.graph.stops.length [n]) (stopFence b)
  let (counters, ready) := if p.fail.isSome then (r.counters, []) else decAll r.counters (s.graph.succs n)
  let s4 := s3.modRun p.run (fun r =>
    { r with events := events, ended := r.ended + 1, counters := counters,
             fstop := if r.failed || p.fail.isNone then r.fstop else n,
             failed := r.failed || p.fail.isSome })
  let halted := (s4.run p.run).failed || (s4.run p.run).cancelled
  let s5 := s4.modGraph (fun g =>
    { g with launchQueue :=
        if halted then g.launchQueue.filter (fun q => q.1 != p.run)
        else g.launchQueue ++ ready.map (fun k => (p.run, BitVec.ofNat 10 k)) })
  let ended := !s5.runBusy p.run
    && ((s5.run p.run).failed || (s5.run p.run).launched.length == s.graph.stops.length)
  if ended then
    let s6 := s5.runDone p.run
    (if s.graph.hasChunks then s6.exitStep else s6).reapRuns
  else (s5.wakeRun p.run).reapRuns

/-- What several stops that end in one step have made ready joins the launch queue by ascending run, then stop
(R211). -/
def State.oneMoment (s before : State) : State :=
  let old := s.graph.launchQueue.filter before.graph.launchQueue.contains
  let new := (s.graph.launchQueue.filter (fun q => !before.graph.launchQueue.contains q)).map
    (fun q => 1024 * q.1.1 + q.2.toNat)
  s.modGraph (fun g => { g with launchQueue := old ++ (new.foldr insertNat []).map (fun k =>
    (⟨k / 1024 % 4, Nat.mod_lt _ (by decide)⟩, BitVec.ofNat 10 (k % 1024))) })

/-! ## Copy and fill elements (R216) -/

/-- The loop indices of an element, innermost first. -/
def elemIndex (b : BitVec 512) (e : Nat) : List Nat :=
  let (c0, c1, c2) := (stopCount b 0, stopCount b 1, stopCount b 2)
  [e % c0, e / c0 % c1, e / (c0 * c1) % c2, e / (c0 * c1 * c2)]

/-- The pattern term of an element. -/
def elemPattern (b : BitVec 512) (e : Nat) : Int :=
  ((elemIndex b e).zipIdx.map (fun (p : Nat × Nat) => (p.1 : Int) * stopStride b p.2)).sum

/-- The source and the destination of an element: base slot and offset; a fill has no source. -/
def stopEnds (b : BitVec 512) (e : Nat) : Option (Nat × Int) × (Nat × Int) :=
  let dense : Int := (e * stopSize b : Nat)
  let pat := elemPattern b e
  let soff : Int := (b.extractLsb' 320 32).toInt
  let doff : Int := (b.extractLsb' 360 32).toInt
  let (sp, dp) := if b.getLsbD 403 then (dense, pat) else (pat, dense)
  if stopKind b = 1 then (none, ((b.extractLsb' 392 3).toNat, doff + pat))
  else (some ((b.extractLsb' 352 3).toNat, soff + sp), ((b.extractLsb' 392 3).toNat, doff + dp))

/-- The bytes a fill writes to each element. -/
def fillBytes (b : BitVec 512) : List Byte :=
  let v := bytesOfNat 4 (b.extractLsb' 320 32).toNat
  let n := stopSize b
  if n ≤ 4 then v.take n else (List.replicate (n / 4) v).flatten

/-- What is wrong with an element's place beyond R214.
DEDUCED, log entry 57. -/
def ElemAt.fault (x : ElemAt) (n : Nat) : Option (BitVec 8 × BitVec 4 × Word) :=
  match x with
  | .bad st re info => some (st, re, info)
  | .row a => if n != 1024 || a % 1024 != 0 then some (2, 0, BitVec.ofNat 64 a) else none
  | .near a | .global a => if a % n != 0 then some (2, 0, BitVec.ofNat 64 a) else none

/-- The places of an element, checked; a fill has no source. -/
def State.elemPlaces (s : State) (r : RunSlot) (b : BitVec 512) (e : Nat) :
    (Option ElemAt × ElemAt) ⊕ (BitVec 8 × BitVec 4 × Word) :=
  let n := stopSize b
  let (se, de) := stopEnds b e
  let src := se.map (fun p => s.elemAt (r.bases.getD p.1 0) p.2 n)
  let dst := s.elemAt (r.bases.getD de.1 0) de.2 n
  let bad := fun (x : ElemAt) => match x with | .bad a b c => some (a, b, c) | _ => none
  match src.bind bad <|> bad dst
      <|> (if src.any (·.isRow) && dst.isRow then some (1, 0, BitVec.ofNat 64 dst.addr) else none)
      <|> src.bind (·.fault n) <|> dst.fault n with
  | some f => .inr f
  | none => .inl (src, dst)

/-- The keys of a near or a global place. -/
def State.reach (s : State) (p : StopRun) (c : Fin 11) (x : ElemAt) (n : Nat) (k : AccessKind) : Reach :=
  match x with
  | .near a => .keys (s.nearKeys a n) s
  | .global a => s.reachGlobal c a n k ⟨.stop p.run p.stop, 0, []⟩
  | .row _ | .bad _ _ _ => .keys [] s

def ElemAt.isNear : ElemAt → Bool
  | .near _ => true
  | _ => false

/-- What performing a part of a stop comes to. -/
inductive Part where
  | done (s : State)
  | held (token : BitVec 32) (va : Nat) (s : State)
  | fail (f : BitVec 8 × BitVec 4 × Word) (s : State)
  deriving DecidableEq, Repr

/-- A failed reach as a failure of the stop (R221, R224). -/
def partFail (cause : BitVec 8) (xlat : Option Word) (addr : Nat) (s : State) : Part :=
  .fail (stopStatus cause, stopReason cause xlat, BitVec.ofNat 64 addr) s

/-- One element off the row area: read, then written (R216, R221).
DESIGN CHOICE, log entry 78. -/
def State.moveElem (s : State) (p : StopRun) (c : Fin 11) (b : BitVec 512) (src : Option ElemAt) (dst : ElemAt) :
    Part :=
  let n := stopSize b
  let write := fun (s : State) (bs : List Byte) =>
    match s.reach p c dst n .write with
    | .held t va s1 => Part.held t va s1
    | .failed cause xlat s1 => partFail cause xlat dst.addr s1
    | .keys ks s1 =>
      .done ((s1.writeAs (p.run, p.stop.toNat) ⟨c.1, .g, dst.isNear⟩ ks bs).portDone ks.head?)
  match src with
  | none => write s (fillBytes b)
  | some x =>
    match s.reach p c x n .read with
    | .held t va s1 => .held t va s1
    | .failed cause xlat s1 => partFail cause xlat x.addr s1
    | .keys ks s1 =>
      if s1.poisonedAt ks then partFail Cause.poisoned none x.addr s1
      else
        let (bs, s2) := s1.readKeys ⟨c.1, .g, x.isNear⟩ ks
        write (s2.portDone ks.head?) bs

/-- Up to `k` elements off the row area, in loop order. -/
def State.moveElems (s : State) (p : StopRun) (r : RunSlot) (b : BitVec 512) : Nat → State × StopRun
  | 0 => (s, p)
  | k + 1 =>
    match s.elemPlaces r b p.element with
    | .inr f => (s, { p with fail := some f })
    | .inl (src, dst) =>
      if dst.isRow || src.any (·.isRow) then (s, p)
      else
        match s.moveElem p r.c b src dst with
        | .done s1 => s1.moveElems { p with element := p.element + 1 } r b k
        | .held t va s1 => (s1, { p with token := some t, heldAt := BitVec.ofNat 64 va })
        | .fail f s1 => (s1, { p with fail := some f })

/-! ## Row-area elements (R216) -/

/-- Whether a row command or transfer of a stop is queued or running. -/
def State.rowsOf (s : State) (p : StopRun) : Bool :=
  (s.rows.queue ++ s.rows.running).any (fun k => k.owner == .stop p.run p.stop)

/-- Whether the row queue has room. -/
def State.rowRoom (s : State) : Bool := decide (s.rows.queue.length < rowQueueSize)

/-- The row-area place of an element and the other side, if it has one: whether the row is the source. -/
def rowSide (src : Option ElemAt) (dst : ElemAt) : Nat × Bool × Option ElemAt :=
  match src with
  | some (.row a) => (a, true, some dst)
  | other => (dst.addr, false, other)

/-- The first command of a row element: its RACT, once the other side is reached, the queue has room and
the layer's debt lets it. -/
def State.rowElemOpen (s : State) (p : StopRun) (c : Fin 11) (a : Nat) (con : Bool) (other : Option ElemAt) :
    State :=
  let bank := a / 2 ^ 23
  let row := a % 2 ^ 23 / 1024
  let l := s.rows.layer (bank / 4)
  match (match other with
    | some x => s.reach p c x 1024 (if con then .write else .read)
    | none => .keys [] s) with
  | .held t va s1 => s1.putStop { p with token := some t, heldAt := BitVec.ofNat 64 va }
  | .failed cause xlat s1 =>
    (s1.putStop { p with phase := 0, fail := some (stopStatus cause, stopReason cause xlat,
      BitVec.ofNat 64 ((other.map (·.addr)).getD 0)) }).failRuns
  | .keys _ s1 =>
    if !s.rowRoom then s
    else if l.burst || l.debt = 8 || (p.phase = 4 && 0 < l.debt) then s.putStop { p with phase := 4 }
    else if (s.rows.bank bank).view.isSome then
      (s1.putStop { p with phase := 0, fail := some (8, 0, BitVec.ofNat 64 bank) }).failRuns
    else
      ((s1.modRows (·.modBank bank (fun k => { k with view := some row, evicted := false }))).rowEnqueue
        (.stop p.run p.stop) (.act bank row) [] false).putStop { p with phase := 1 }

/-- The transfer of a row element; a bank that a forced burst has closed meanwhile is opened again. A global
destination is written wherever it lies.
DESIGN CHOICE, log entry 123. -/
def State.rowElemMove (s : State) (p : StopRun) (c : Fin 11) (b : BitVec 512) (a : Nat) (con : Bool)
    (other : Option ElemAt) : State :=
  let bank := a / 2 ^ 23
  let put := fun (s : State) (kind : RowCmdKind) (data : List Byte) =>
    (s.rowEnqueue (.stop p.run p.stop) kind data false).putStop { p with
      phase := 2
      heldAt := BitVec.ofNat 64 (if con then a else (other.map (·.addr)).getD a) }
  if (s.rows.bank bank).view.isNone then s.putStop { p with phase := 0 }
  else
    match other with
    | none => put s (.wb bank (.data (fillBytes b))) (fillBytes b)
    | some x =>
      match s.reach p c x 1024 (if con then .write else .read) with
      | .held t va s1 => s1.putStop { p with token := some t, heldAt := BitVec.ofNat 64 va }
      | .failed cause xlat s1 =>
        (s1.putStop { p with phase := 2, fail := some (stopStatus cause, stopReason cause xlat,
          BitVec.ofNat 64 x.addr) }).failRuns
      | .keys ks s1 =>
        put s1 (if con then .con bank (.keys ks x.isNear) else .wb bank (.keys ks x.isNear)) []

/-- The last command of a row element: its RPRE. -/
def State.rowElemClose (s : State) (p : StopRun) (a : Nat) : State :=
  let bank := a / 2 ^ 23
  let bs := if (s.rows.bank bank).view.isSome then [bank] else []
  ((s.modRows (·.closeView bs)).rowEnqueue (.stop p.run p.stop) (.pre bs) [] false).putStop
    { p with phase := 3 }

/-- A copy or a fill goes on: a row element by its next command, or a part of the other elements whose
length is free (R216). -/
def State.copyOn (s : State) (p : StopRun) (b : BitVec 512) : State :=
  let r := s.run p.run
  let left := stopTotal b - p.element
  if p.phase = 3 then
    if s.rowsOf p then s else s.putStop { p with phase := 0, element := p.element + 1 }
  else if (p.phase = 0 || p.phase = 4) && (p.fail.isSome || left = 0) then s.endStop p
  else
    match s.elemPlaces r b p.element with
    | .inr f => s.endStop { p with fail := some f }
    | .inl (src, dst) =>
      if dst.isRow || src.any (·.isRow) then
        let (a, con, other) := rowSide src dst
        if p.phase = 0 || p.phase = 4 then s.rowElemOpen p r.c a con other
        else if !s.rowRoom then s
        else if p.phase = 1 && p.fail.isNone then s.rowElemMove p r.c b a con other
        else s.rowElemClose p a
      else
        let (k, s1) := if left ≤ 1 then (0, s) else s.choose left
        let (s2, p2) := s1.moveElems p r b (k + 1)
        if p2.fail.isSome || (p2.token.isNone && p2.element = stopTotal b) then s2.endStop p2
        else s2.putStop p2

/-! ## MMA command and plane-pass stops (R390, R412) -/

/-- A near address that a stop's base slot and offset give: its base word must have NEAR = 1. -/
def State.nearBase (s : State) (r : RunSlot) (slot : Nat) (off : Int) (n : Nat) : Nat ⊕ Word :=
  let w := r.bases.getD slot 0
  match s.elemAt w off n with
  | .near a => .inl a
  | x => .inr (BitVec.ofNat 64 x.addr)

/-- The near address of a stop's operand whose bytes are checked later: only its word's form counts. -/
def nearPlace (r : RunSlot) (slot : Nat) (off : Int) : Nat ⊕ Word :=
  let w := r.bases.getD slot 0
  let a : Int := ((w.extractLsb' 0 57).toNat : Int) + off
  if !w.getLsbD 63 || w.extractLsb' 32 31 != 0 || a < 0 || (2 ^ 32 : Int) ≤ a then .inr (BitVec.ofInt 64 a)
  else .inl a.toNat

/-- The type of a code (R38). -/
def tyOfCode (n : Nat) : Option Ty :=
  match n with
  | 0 => some .i8 | 1 => some .i16 | 2 => some .i32 | 3 => some .i64
  | 4 => some .ui8 | 5 => some .ui16 | 6 => some .ui32 | 7 => some .ui64
  | 8 => some .f32 | 9 => some .bf16 | 10 => some .f16 | 11 => some .nf | 12 => some .i4 | 13 => some .page
  | _ => none

/-- Whether an operation of a stop is still in a queue. -/
def State.opQueued (s : State) (p : StopRun) : Bool :=
  s.matrix.queue.any (fun q => q.owner == .stop p.run p.stop)
    || s.matrix.planeQueue.any (fun q => q.owner == .stop p.run p.stop)

/-- A failure with STATUS by its cause. -/
def causeFail (f : BitVec 8 × Word) : BitVec 8 × BitVec 4 × Word := (stopStatus f.1, 0, f.2)

/-- An MMA command stop: its MMAS enqueued, or its failure (R390). -/
def State.mmaOn (s : State) (p : StopRun) (b : BitVec 512) : State :=
  let r := s.run p.run
  if p.phase = 1 then (if s.opQueued p then s else s.endStop p)
  else
    let ty := (tyOfCode (b.extractLsb' 392 4).toNat).getD .i8
    let steps := 2 ^ (b.extractLsb' 390 2).toNat
    let blk := (b.extractLsb' 384 6).toNat
    let (ap, bp) := (b.extractLsb' 256 64, b.extractLsb' 320 64)
    let fd : BitVec 6 := b.extractLsb' 396 6
    match nearPlace r (b.extractLsb' 160 3).toNat (b.extractLsb' 128 32).toInt,
        nearPlace r (b.extractLsb' 224 3).toNat (b.extractLsb' 192 32).toInt with
    | .inr v, _ => s.endStop { p with fail := some (1, 0, v) }
    | _, .inr v => s.endStop { p with fail := some (1, 0, v) }
    | .inl a, .inl bb =>
      let join := fun (f : Option FmtRef × Option FmtRef) =>
        if !s.engineRoom (128 * steps) then s.putStop { p with phase := 2, fmts := f }
        else
          (s.engineEnqueue (.stop p.run p.stop) (.mma blk (.pair a ap) (.pair bb bp) steps false) ty f.1 f.2
            (tileBlocks blk) (128 * steps) false).putStop { p with phase := 1 }
      if p.phase = 2 then join p.fmts else
      match s.mulFmts ty (.ofPack fd ap) (.ofPack fd bp) with
      | none => s.endStop { p with fail := some (13, 0, 0) }
      | some (fa, fb) =>
        match (s.matrix.unallocated blk 4).map (fun k => (Cause.nearBounds, BitVec.ofNat 64 k))
            <|> pairMisaligned (BitVec.ofNat 64 a) ap <|> pairMisaligned (BitVec.ofNat 64 bb) bp
            <|> s.pairBounds ty fa (BitVec.ofNat 64 a) ap steps (4096 / opWidth ty fa)
            <|> s.pairBounds ty fb (BitVec.ofNat 64 bb) bp steps (4096 / opWidth ty fb) with
        | some f => s.endStop { p with fail := some (causeFail f) }
        | none => join (fa, fb)

/-- A plane-pass stop: its pass enqueued, or its failure (R412). -/
def State.passOn (s : State) (p : StopRun) (b : BitVec 512) : State :=
  let r := s.run p.run
  if p.phase = 1 then (if s.opQueued p then s else s.endStop p)
  else
    let bad := fun (f : BitVec 8 × BitVec 4 × Word) => s.endStop { p with fail := some f }
    let n := (b.extractLsb' 412 6).toNat
    let blk := (b.extractLsb' 418 6).toNat
    let plane := if b.getLsbD 409 then 1 else 0
    match nearPlace r (b.extractLsb' 224 3).toNat (b.extractLsb' 192 32).toInt,
        nearPlace r (b.extractLsb' 288 3).toNat (b.extractLsb' 256 32).toInt,
        s.nearBase r (b.extractLsb' 352 3).toNat (b.extractLsb' 320 32).toInt 32 with
    | .inr v, _, _ => bad (1, 0, v)
    | _, .inr v, _ => bad (1, 0, v)
    | _, _, .inr v => bad (1, 0, v)
    | .inl a, .inl sc, .inl tg =>
      let first := BitVec.ofNat 64 (a + sc * 2 ^ 32)
      let packed := BitVec.ofNat 64 ((b.extractLsb' 384 16).toNat * 2 ^ 16 + n * 2 ^ 52 + blk * 2 ^ 58)
      let join := fun (s : State) (slots : List (Option Nat)) (misses : Nat) =>
        if !s.planeRoom then
          s.putStop { p with
            phase := 2
            slots := slots
            misses := misses }
        else
          ((s.planeEnqueue (.stop p.run p.stop) plane
              (.pass a sc (b.extractLsb' 384 16).toNat blk n slots (b.getLsbD 410) false)
              ((List.range ((n + 1) / 2)).map (blk + ·)) false).count { tagMisses := misses }).putStop
            { p with phase := 1 }
      if p.phase = 2 then join s p.slots p.misses else
      match s.passFault first packed false ((n + 1) / 2) 4 4 with
      | some f => bad (causeFail f)
      | none =>
        let ks := s.nearKeys tg 32
        if s.poisonedAt ks then bad (6, 0, BitVec.ofNat 64 tg)
        else
          let (tags, s1) := s.readKeys ⟨r.c.1, .w, true⟩ ks
          match s.matrix.tagCheck plane (b.getLsbD 411)
              ((List.range n).map (fun t => (t, (tags.getD t 0).toNat))) with
          | .inr (t, tag) => s1.endStop { p with fail := some (14, 0, missInfo t tag) }
          | .inl (slots, misses) => join s1 slots misses.length

/-! ## Chunk stops (R275, R276) -/

def chunkDev (b : BitVec 512) : BitVec 14 := b.extractLsb' 272 14
def chunkLrn (b : BitVec 512) : BitVec 10 := b.extractLsb' 256 10
def chunkCh (b : BitVec 512) : BitVec 8 := b.extractLsb' 288 8
def chunkLen (b : BitVec 512) : Nat := (b.extractLsb' 192 32).toNat

/-- Whether a device and rank can be a member of the party or its group (R249): of this device's ranks the
party's own list tells; of another device's, which is of the group, only its answer does. -/
def State.mayBeMember (s : State) (d : BitVec 14) (lrn : BitVec 10) : Bool :=
  if s.devOf d == s.ownDev then s.party.lrns.any (fun p => p.1 == lrn) || lrn == s.lrn
  else decide (d.toNat < s.gsize)

/-- Whether a stop takes chunks of a peer and a channel. -/
def State.takesChunk (s : State) (p : StopRun) (k : Chunk) : Bool :=
  let b := s.graph.stop p.stop.toNat
  (stopKind b == 5 || stopKind b == 6) && s.devOf (chunkDev b) == k.dev && chunkLrn b == k.lrn && chunkCh b == k.ch
    && p.fail.isNone

/-- The oldest stop in progress that takes a chunk. -/
def State.chunkTaker (s : State) (k : Chunk) : Option StopRun := s.graph.inProgress.find? (s.takesChunk · k)

/-- The sender of a chunk of this rank to itself: its oldest send stop on the channel whose chunk is out. -/
def State.chunkSender (s : State) (k : Chunk) : Option StopRun :=
  if s.isSelf k.dev k.lrn then
    s.graph.inProgress.find? (fun p =>
      let b := s.graph.stop p.stop.toNat
      stopKind b == 4 && p.phase == 1 && s.isSelf (chunkDev b) (chunkLrn b) && chunkCh b == k.ch)
  else none

/-- A chunk stop's local place (R275). -/
def State.chunkPlace (s : State) (p : StopRun) (n : Nat) : Nat ⊕ Word :=
  let b := s.graph.stop p.stop.toNat
  s.nearBase (s.run p.run) (b.extractLsb' 160 3).toNat (b.extractLsb' 128 32).toInt n

/-- Whether the next access of a stop in progress waits for the narrow port (R163): the place of a copy's or a fill's
element, or the local bytes of a chunk stop. -/
def State.stopHeld (s : State) (p : StopRun) : Bool :=
  let b := s.graph.stop p.stop.toNat
  let held := fun (x : ElemAt) => match x with
    | .near a => s.keyHeld (s.nearKey a)
    | .global a => s.keyHeld (s.peekKey s.asid a)
    | _ => false
  s.portHeld && p.fail.isNone
    && (match stopKind b with
        | 0 | 1 =>
          (match s.elemPlaces (s.run p.run) b p.element with
           | .inl (src, dst) =>
             p.phase == 0 && decide (p.element < stopTotal b) && (src.any held || held dst)
           | .inr _ => false)
        | 4 | 5 | 6 => (match s.chunkPlace p (chunkLen b) with | .inl a => held (.near a) | .inr _ => false)
        | _ => false)

/-- What a chunk leaves in place: itself, or the local bytes combined with it (R276). -/
def State.combineChunk (s : State) (b : BitVec 512) (old new : List Byte) : List Byte × State :=
  if stopKind b = 5 then (new, s)
  else
    let ty := (tyOfCode (b.extractLsb' 296 4).toNat).getD .i8
    let n := ty.bytes
    let (vs, s1) := s.reduceAll ty 0 (b.extractLsb' 300 2).toNat 2
      ((elemsOf n old).zip (elemsOf n new) |>.map (fun p => [p.1, p.2]))
    (vs.flatMap (bytesOfNat n), s1)

/-- A chunk taken by a stop (R276): written or combined, and both ends finish; too long, and both fail. -/
def State.takeChunk (s : State) (p : StopRun) (k : Chunk) : State :=
  let b := s.graph.stop p.stop.toNat
  let n := k.data.length
  let both := fun (s : State) (f : Option (BitVec 8 × BitVec 4 × Word)) (sender : Option (BitVec 8 × BitVec 4 × Word)) =>
    let s1 := s.endStop { p with fail := f }
    match s.chunkSender k with
    | some q => (s1.endStop { q with fail := sender }).oneMoment s
    | none => s1
  if chunkLen b < n then both s (some (12, 0, 0)) (some (12, 0, 0))
  else
    match s.chunkPlace p (chunkLen b) with
    | .inr v => both s (some (1, 0, v)) none
    | .inl a =>
      let ks := s.nearKeys a n
      let r := s.run p.run
      if stopKind b = 6 && s.poisonedAt ks then both s (some (6, 0, BitVec.ofNat 64 a)) none
      else
        let (old, s1) := s.readKeys ⟨r.c.1, .c, true⟩ ks
        let (bs, s2) := s1.combineChunk b old k.data
        both ((s2.writeAs (p.run, p.stop.toNat) ⟨r.c.1, .c, true⟩ ks bs).portDone ks.head?) none none

/-- Chunks that one rank buffers (R276). -/
def chunkBuffers : Nat := 16

/-- A chunk that arrives: taken, buffered, or left with its sender (R276). -/
def State.chunkIn (s : State) (k : Chunk) : Option State :=
  match (if s.graph.chunks.any (fun q => q.dev == k.dev && q.lrn == k.lrn && q.ch == k.ch) then none
         else (s.chunkTaker k).filter (fun p => !s.stopHeld p)) with
  | some p => some (s.takeChunk p k)
  | none =>
    if s.graph.chunks.length < chunkBuffers then
      some (s.modGraph (fun g => { g with chunks := g.chunks ++ [k] }))
    else none

/-- Whether a send to this rank itself is behind one on its channel that launched earlier and waits for a buffer
(R276). -/
def State.sendBehind (s : State) (p : StopRun) : Bool :=
  let b := s.graph.stop p.stop.toNat
  (s.graph.inProgress.takeWhile (fun q => q != p)).any (fun q =>
    let k := s.graph.stop q.stop.toNat
    stopKind k == 4 && q.phase == 0 && q.fail.isNone && s.isSelf (chunkDev k) (chunkLrn k) && chunkCh k == chunkCh b)

/-- A chunk send goes on (R276): to this rank itself its chunk arrives here; at another rank it waits until that
rank has taken it.
DESIGN CHOICE, log entry 79. -/
def State.sendOn (s : State) (p : StopRun) (b : BitVec 512) : State :=
  if p.phase = 1 then s
  else if !s.mayBeMember (chunkDev b) (chunkLrn b) then s.endStop { p with fail := some (11, 0, 0) }
  else
    match s.chunkPlace p (chunkLen b) with
    | .inr v => s.endStop { p with fail := some (1, 0, v) }
    | .inl a =>
      let ks := s.nearKeys a (chunkLen b)
      if s.poisonedAt ks then s.endStop { p with fail := some (6, 0, BitVec.ofNat 64 a) }
      else
        let (bs, s1) := s.readKeys ⟨(s.run p.run).c.1, .c, true⟩ ks
        if s.isSelf (chunkDev b) (chunkLrn b) then
          if s.sendBehind p then s
          else
          match (s1.putStop { p with phase := 1 }).chunkIn ⟨s.ownDev, s.lrn, chunkCh b, bs⟩ with
          | some s2 => s2
          | none => s
        else s1.putStop { p with phase := 1 }

/-- What a peer's end of a chunk stop comes to (R276): a send's chunk taken, or too long for the receiving stop; or the
peer named by a send, a receive or a reduce, on another device, is no member. -/
def State.chunkNews (s : State) (p : StopRun) (news : StopNews) : State :=
  let b := s.graph.stop p.stop.toNat
  let other := s.devOf (chunkDev b) != s.ownDev
  if stopKind b = 4 && p.phase = 1 && p.fail.isNone && !s.isSelf (chunkDev b) (chunkLrn b) then
    match news with
    | .taken => s.endStop p
    | .tooLong => s.endStop { p with fail := some (12, 0, 0) }
    | .noMember => if other then s.endStop { p with fail := some (11, 0, 0) } else s
    | _ => s
  else if (stopKind b == 5 || stopKind b == 6) && p.fail.isNone && other && news == .noMember then
    s.endStop { p with fail := some (11, 0, 0) }
  else s

/-- The address at which the element that a copy or a fill comes to next meets the gate of another rank's memory,
and by which link (R136). -/
def State.stopGated (s : State) (p : StopRun) : Option (Nat × Option Peer) :=
  let b := s.graph.stop p.stop.toNat
  let meets := fun (x : ElemAt) => match x with
    | .global a => (s.gatedVa a).map (fun q => (a, q))
    | _ => none
  if stopKind b < 2 && p.phase = 0 && p.fail.isNone && p.token.isNone then
    match s.elemPlaces (s.run p.run) b p.element with
    | .inl (src, dst) => (src.bind meets) <|> meets dst
    | .inr _ => none
  else none

/-- A chunk receive or reduce goes on: the oldest buffered chunk of its peer and channel, if it is the
oldest stop that takes it. -/
def State.receiveOn (s : State) (p : StopRun) : State :=
  match s.graph.chunks.find? (s.takesChunk p) with
  | some k =>
    if s.chunkTaker k == some p then
      (s.modGraph (fun g => { g with chunks := g.chunks.erase k })).takeChunk p k
    else s
  | none =>
    let b := s.graph.stop p.stop.toNat
    if s.mayBeMember (chunkDev b) (chunkLrn b) then s else s.endStop { p with fail := some (11, 0, 0) }

/-! ## Stops in progress -/

/-- A stop in progress goes on as far as it can now. -/
def State.stopOn (s : State) (p : StopRun) : State :=
  let b := s.graph.stop p.stop.toNat
  if p.token.isSome then s
  else if p.fail.isSome && 2 ≤ stopKind b && !s.opQueued p then s.endStop p
  else
    match stopKind b with
    | 0 | 1 => s.copyOn p b
    | 2 => s.mmaOn p b
    | 3 => s.passOn p b
    | 4 => s.sendOn p b
    | 5 | 6 => s.receiveOn p
    | _ => s.endStop p

/-- STOP_LAUNCH (R211, R218): the head of the launch queue launches while fewer than 32 are in progress. A
signal, an empty copy and a command that is refused end at once; a command or chunk that can start does. -/
def execStopLaunch (s : State) : Host.Outcome State Fault Refusal :=
  powered s (
    match s.graph.launchQueue with
    | [] => s
    | (run, stop) :: rest =>
      if 32 ≤ s.graph.inProgress.length || s.party.preempting then s
      else
        let p : StopRun :=
          { run := run, stop := stop, element := 0, phase := 0, fail := none, token := none, heldAt := 0,
            fmts := (none, none), slots := [], misses := 0 }
        let b := s.graph.stop stop.toNat
        let s1 := (s.modGraph (fun g => { g with launchQueue := rest, inProgress := g.inProgress ++ [p] })).modRun
          run (fun r => { r with launched := r.launched ++ [stop.toNat] })
        if stopKind b < 2 && 0 < stopTotal b then s1 else s1.stopOn p)

/-- STOP_COMPLETE (R216, R223, R276, R390, R412): a stop in progress goes on, and completes or
fails where it can; a gate refuses its element (R137), or a peer's end of its chunk comes to something. -/
def execStopComplete (n : StopTurn) (s : State) : Host.Outcome State Fault Refusal :=
  powered s (
    match s.graph.inProgress[n.which]? with
    | some p =>
      (match n.news with
       | .own => if s.stopHeld p then s else s.stopOn p
       | .refused r =>
         (match s.stopGated p with
          | some (a, q) => if gateReason q r then s.endStop { p with fail := some (3, r, BitVec.ofNat 64 a) } else s
          | none => s)
       | _ => s.chunkNews p n.news)
    | none => s)

/-- CHUNK_ARRIVE (R276): a chunk of another rank. -/
def execChunkArrive (k : Chunk) (s : State) : Host.Outcome State Fault Refusal :=
  powered s (if s.party.bound && !s.isSelf k.dev k.lrn then (s.chunkIn k).getD s else s)

/-- Whether a stop in progress can go on now; once its party is to be pre-empted, a copy or a fill begins no further
element (R243). -/
def State.stopReady (s : State) (p : StopRun) : Bool :=
  let b := s.graph.stop p.stop.toNat
  if p.token.isSome || s.stopHeld p then false
  else
    match stopKind b with
    | 0 | 1 =>
      match p.phase with
      | 0 =>
        p.fail.isSome || p.element == stopTotal b
          || !s.party.preempting && (match s.elemPlaces (s.run p.run) b p.element with
              | .inr _ => true
              | .inl (src, dst) =>
                if dst.isRow || src.any (·.isRow) then
                  let bank := (rowSide src dst).1 / 2 ^ 23
                  s.rowRoom && !((s.rows.layer (bank / 4)).burst || (s.rows.layer (bank / 4)).debt == 8)
                else true)
      | 4 =>
        p.fail.isSome || !s.party.preempting && match s.elemPlaces (s.run p.run) b p.element with
        | .inr _ => true
        | .inl (src, dst) =>
          let bank := (rowSide src dst).1 / 2 ^ 23
          s.rowRoom && (s.rows.layer (bank / 4)).debt == 0 && !(s.rows.layer (bank / 4)).burst
      | 3 => !s.rowsOf p
      | _ => s.rowRoom
    | 2 => if p.phase == 1 then !s.opQueued p else s.engineRoom (128 * 2 ^ (b.extractLsb' 390 2).toNat)
    | 3 => if p.phase == 1 then !s.opQueued p else s.planeRoom
    | 4 => p.fail.isSome
        || (p.phase == 0 && !s.sendBehind p && decide (s.graph.chunks.length < chunkBuffers))
    | 5 | 6 =>
      p.fail.isSome
        || (match s.graph.chunks.find? (s.takesChunk p) with
            | some k => s.chunkTaker k == some p
            | none => false)
    | _ => true

/-! ## ILOAD (R227) -/

/-- The reserved bits of a stop's body by kind; a fill's SSLOT, which must be 0, counts with them.
DESIGN CHOICE, log entry 141. -/
def stopReserved (b : BitVec 512) : Bool :=
  let z := fun (lo n : Nat) => b.extractLsb' lo n != 0
  let copy := z 404 108 || z 395 5 || z 355 5
  match stopKind b with
  | 0 => copy
  | 1 => copy || b.getLsbD 403 || z 352 3
  | 2 => z 402 110 || z 227 29 || z 163 29
  | 3 => z 424 88 || z 400 9 || z 355 29 || z 291 29 || z 227 29 || z 128 64
  | 7 => z 128 384
  | _ => z 302 210 || z 286 2 || z 266 6 || z 224 32 || z 163 29

/-- Whether a chunk stop's body breaks R275. -/
def chunkBad (b : BitVec 512) : Bool :=
  let n := chunkLen b
  let ty := (b.extractLsb' 296 4).toNat
  let rop := (b.extractLsb' 300 2).toNat
  n < 8 || 4096 < n || n % 8 != 0
    || (if stopKind b = 6 then decide (10 < ty) || rop == 3 else ty != 0 || rop != 0)

/-- Whether an MMA command's body breaks R390. -/
def mmaBad (b : BitVec 512) : Bool :=
  let ty := (b.extractLsb' 392 4).toNat
  !([0, 4, 9, 10, 11, 12].contains ty) || (b.extractLsb' 384 6).toNat % 4 != 0
    || (b.extractLsb' 396 6 != 0 && ty != 11)

/-- The lowest CAUSE that refuses a stop of an image of `n` stops (R227). -/
def stopCause (n : Nat) (ovf : List Nat) (b : BitVec 512) : Nat :=
  let k := stopKind b
  let (oi, oc) := stopOvf b
  let bodyBad := (k == 2 && mmaBad b) || (k == 3 && ((b.extractLsb' 412 6).toNat == 0
      || decide (32 < (b.extractLsb' 412 6).toNat))) || ((k == 4 || k == 5 || k == 6) && chunkBad b)
  let plain := k == 0 || k == 1 || k == 7
  if 8 ≤ k then 1
  else if b.extractLsb' 4 28 != 0 || (plain && stopReserved b) || (k < 2 && b.extractLsb' 400 3 == 7) then 2
  else if 4 < stopNsucc b then 3
  else if (List.range (min (stopNsucc b) 4)).any (fun j => decide (n ≤ stopSucc b j))
      || (oi + oc ≤ 4096 && ((ovf.drop oi).take oc).any (fun e => decide (1024 ≤ e) || decide (n ≤ e))) then 4
  else if 4096 < oi + oc then 5
  else if !plain && (stopReserved b || bodyBad) then 6
  else 0

/-- ILOAD's refusal (R227). -/
def loadRefusal (cause stop : Nat) : Word := wordField 63 1 ||| wordField 16 cause ||| wordField 0 stop

/-- Entries of an image's overflow area (R227). -/
def overflowLen (stops : List (BitVec 512)) : Nat :=
  stops.foldl (fun a b => max a ((stopOvf b).1 + (stopOvf b).2)) 0

/-- The first stop that is refused, with its cause: one that holds a poisoned word with 7, whatever it reads as
(R227). -/
def firstBad (n : Nat) (ovf : List Nat) (poisoned : Nat → Bool) : List (BitVec 512) → Nat → Option (Nat × Nat)
  | [], _ => none
  | b :: bs, i =>
    let c := if poisoned i then 7 else stopCause n ovf b
    if c = 0 then firstBad n ovf poisoned bs (i + 1) else some (c, i)

/-- Whether an itinerary is being loaded: its status has not landed. -/
def State.loadingImage (s : State) : Bool :=
  s.flights.any (fun f => match f.redo with | some e => e.op == .iload | none => false)

/-- An image and its overflow area read (R227, R269): the engine's new contents and ILOAD's word. Of an overflow area
above its 4,096 entries none is read.
DESIGN CHOICE, log entry 142. -/
def State.takeImage (s : State) (n : Nat) (c : Fin 11) (near : Bool) (ks : List Nat)
    (ovf : List (BitVec 512) → State → Reach) : (Word × State) ⊕ Reach :=
  let (bs, s1) := s.readKeys ⟨c.1, .s, near⟩ ks
  let stops := (List.range n).map (fun i => BitVec.ofNat 512 (natOfBytes ((bs.drop (64 * i)).take 64)))
  let len := overflowLen stops
  match (if len = 0 || 4096 < len then .keys [] s1 else ovf stops s1) with
  | .keys oks s1 =>
    let (ob, s2) := s1.readKeys ⟨c.1, .s, near⟩ oks
    let es := elemsOf 2 ob
    match firstBad n es (fun i => s.poisonedAt ((ks.drop (64 * i)).take 64)) stops 0 with
    | some (cause, i) => .inl (loadRefusal cause i, s2)
    | none =>
      if s.poisonedAt oks then .inl (loadRefusal 7 n, s2)
      else
        .inl (0, s2.modGraph (fun g =>
          { g with stops := stops, overflow := es.map (BitVec.ofNat 16) }))
  | r => .inr r

/-- The engine emptied (R227). -/
def State.emptyGraph (s : State) : State := s.modGraph (fun g => { g with stops := [], overflow := [] })

/-- ILOAD's loads, made at issue; the word lands when the load ends (R227).
DEDUCED, log entry 77. -/
def Entry.loadImage (e : Entry) (s : State) (c : Fin 11) : AccessEnd :=
  let a := (e.opA s c).toNat
  let n := (e.opB s c).toNat
  let s0 := s.emptyGraph
  let land := fun (s : State) (w : Word) => AccessEnd.fly (e.flight s c (.status w) [] (some e.fdReg) .ready none 0) s
  let stuck := fun (r : Reach) =>
    match r with
    | .held t va s1 =>
      AccessEnd.fly (e.flight s1 c (.status 0) [] (some e.fdReg) (.held t (BitVec.ofNat 64 va)) none 0) s1
    | .failed _ xlat s1 =>
      let x := xlat.getD 0
      .fly (e.flight s1 c (.status 0) [] (some e.fdReg)
        (.failed (x.extractLsb' 61 3) (x.extractLsb' 57 4) ((x.extractLsb' 0 57).setWidth 64)) none 0) s1
    | .keys _ s1 => land s1 0
  if e.w.near then
    if 2 ^ 32 ≤ a || !s.nearOk a (64 * n) then .fault Cause.nearBounds (BitVec.ofNat 64 a)
    else
      let ks := s.nearKeys a (64 * n)
      match s0.takeImage n c true ks (fun st s1 =>
          if s.nearOk (a + 64 * n) (2 * overflowLen st) then .keys (s1.nearKeys (a + 64 * n) (2 * overflowLen st)) s1
          else .failed Cause.nearBounds none s1) with
      | .inl (w, s2) => land s2 w
      | .inr _ => .fault Cause.nearBounds (BitVec.ofNat 64 (a + 64 * n))
  else
    let wt : Waiter := ⟨.flight e.seq, e.pc, []⟩
    match s0.reachGlobal c a (64 * n) .read wt with
    | .keys ks s1 =>
      (match s1.takeImage n c false ks (fun st s2 =>
          s2.reachGlobal c (a + 64 * n) (2 * overflowLen st) .read wt) with
       | .inl (w, s2) => land s2 w
       | .inr r => stuck r)
    | r => stuck r

def bodyIload : Body := fun c e s =>
  let a := e.opA s c
  let n := e.opB s c
  if a.toNat % 64 != 0 then .trap Cause.misaligned a none
  else if n.toNat < 1 || 1024 < n.toNat then .trap Cause.nearBounds n none
  else if s.loadingImage || allRuns.any (fun r => (s.run r).state != 0) || s.loadWaits c then .stay s
  else
    match e.loadImage s c with
    | .fault cause info => .trap cause info none
    | .now res s1 => .done res s1
    | .fly f s1 => .done [] (s1.launchFlight c e f)

/-! ## IRUN (R228) -/

/-- Whether an admitted outside request is still in progress (R136). -/
def State.admittedBusy (s : State) : Bool := s.gate.any (·.admitted)

/-- The lowest free run slot. -/
def State.freeSlot (s : State) : Option (Fin 4) := allRuns.find? (fun r => (s.run r).state == 0)

/-- The ready stops of a new run, ascending (R211, R218). -/
def readyStops (preds : List Nat) : List Nat :=
  (preds.zipIdx.filter (fun (p : Nat × Nat) => p.1 == 0)).map (·.2)

def ringAddr (w : Word) : Nat := (w.extractLsb' 5 27).toNat * 32
def ringSize (w : Word) : Nat := 32 * 2 ^ (w.extractLsb' 0 4).toNat

/-- What IRUN checks, in order (R228). -/
def State.runFault (s : State) (t ring : Word) : Option (BitVec 8 × Word) :=
  if t.toNat % 64 != 0 then some (Cause.misaligned, t)
  else if !s.nearOk t.toNat 64 || 2 ^ 32 ≤ t.toNat then some (Cause.nearBounds, t)
  else if ring.extractLsb' 32 32 != 0 then some (Cause.nearBounds, ring)
  else if ring.getLsbD 4 then none
  else if 12 < (ring.extractLsb' 0 4).toNat then some (Cause.nearBounds, ring)
  else if !s.nearOk (ringAddr ring) (ringSize ring) then some (Cause.nearBounds, BitVec.ofNat 64 (ringAddr ring))
  else none

def bodyIrun : Body := fun c e s =>
  let t := e.opA s c
  let ring := e.opB s c
  match s.freeSlot with
  | none => .stay s
  | some slot =>
    if s.loadingImage || (s.graph.hasChunks && s.admittedBusy) || s.loadWaits c then .stay s
    else
      match s.runFault t ring with
      | some f => .trap f.1 f.2 none
      | none =>
        if s.graph.stops.isEmpty then .done (e.toFd (BitVec.ofInt 64 (-1))) s
        else
          let ks := s.nearKeys t.toNat 64
          let (bs, s1) := s.readKeys ⟨c.1, .s, true⟩ ks
          let bases := (List.range 8).map (fun j =>
            if s.poisonedAt ((ks.drop (8 * j)).take 8) then 0
            else BitVec.ofNat 64 (natOfBytes ((bs.drop (8 * j)).take 8)))
          let preds := s.graph.stops.map stopPred
          let r : RunSlot :=
            { RunSlot.blank with
              state := 1
              counters := preds
              ring := ring
              bases := bases
              c := c }
          let s2 := if s.poisonedAt ks then
              s1.lateFault c ⟨Cause.poisoned, e.pc, none, none, (s.ctx c).inh, 0⟩ else s1
          .done (e.toFd (BitVec.ofNat 64 slot.1))
            (((if s.graph.hasChunks then s2.enterGate else s2).modRun slot (fun _ => r)).modGraph (fun g =>
              { g with launchQueue := g.launchQueue ++ (readyStops preds).map (fun k => (slot, BitVec.ofNat 10 k)) }))

/-! ## IWAIT, IPOLL and IDROP (R229 to R231, R242, R260) -/

/-- The run status word (R229, R464). -/
def RunSlot.status (r : RunSlot) : Word :=
  wordField 62 r.state.toNat ||| wordField 61 (if r.failed then 1 else 0) ||| wordField 48 (r.fstop % 1024)
    ||| wordField 32 (r.ended % 2048) ||| wordField 0 r.events.toNat

/-- The run an operand names; the NEAR_BOUNDS value otherwise. -/
def Entry.runOf (e : Entry) (s : State) (c : Fin 11) : Fin 4 ⊕ Word :=
  let v := e.opA s c
  if h : v.toNat < 4 then .inl ⟨v.toNat, h⟩ else .inr v

/-- Whether a run meets IWAIT's condition (R230). -/
def RunSlot.meets (r : RunSlot) (mask : BitVec 16) (any : Bool) : Bool :=
  r.state != 1 || (if any then r.events &&& mask != 0 else mask != 0 && r.events &&& mask == mask)

/-- The stops whose event is among bits, or all of a run that is seen done. -/
def Graph.signalled (g : Graph) (r : RunSlot) (bits : BitVec 16) : List Nat :=
  if r.state == 2 then List.range g.stops.length
  else r.launched.filter (fun n => match stopEvent (g.stop n) with | some k => bits.getLsbD k | none => false)

/-- The key that marks writes released by a run's COLL (R260). -/
def collKey (run : Fin 4) : Nat := 2 ^ 250 + run.1

/-- The key that marks outside writes admitted before a COLL's steps (R205). -/
def gateKey (run : Fin 4) : Nat := 2 ^ 250 + 16 + run.1

/-- What a context that has seen a run's events may rely on (R205, R242, R260). -/
def State.sawRun (s : State) (c : Fin 11) (run : Fin 4) (bits : BitVec 16) : State :=
  let r := s.run run
  match r.coll with
  | none =>
    let stops := s.graph.withAncestors s.graph.stops.length (s.graph.signalled r bits)
    s.modUnseen (fun u =>
      match u.stop with
      | some (q, k) => if q == run && stops.contains k then u.pass r.c.1 c.1 else u
      | none => u)
  | some _ =>
    s.modUnseen (fun u =>
      match u.stop with
      | some (q, k) =>
        if q == run && bits.getLsbD (3 * k + 1) then u.view (agentsOf c.1 allClasses [false, true]) else u
      | none =>
        if u.pubs.contains (gateKey run) && (bits.getLsbD 1 || bits.getLsbD 4) then
          u.view (agentsOf c.1 allClasses [false, true])
        else if u.pubs.contains (collKey run) && (bits.getLsbD 2 || bits.getLsbD 5) then
          u.view (agentsOf c.1 allClasses [false])
        else u)

def bodyIwait : Body := fun c e s =>
  match e.runOf s c with
  | .inr v => .trap Cause.nearBounds v none
  | .inl run =>
    let r := s.run run
    if r.meets ((e.opB s c).setWidth 16) (e.w.os.getLsbD 0) then
      .done (e.toFd r.status) (s.sawRun c run r.events)
    else .stay s

def bodyIpoll : Body := fun c e s =>
  match e.runOf s c with
  | .inr v => .trap Cause.nearBounds v none
  | .inl run =>
    let r := s.run run
    let mask : BitVec 16 := (e.opB s c).setWidth 16
    let t := r.meets mask (e.w.os.getLsbD 0)
    .done (e.truth t) (if t then s.sawRun c run (if r.state == 2 then r.events else r.events &&& mask) else s)

def bodyIdrop : Body := fun c e s =>
  match e.runOf s c with
  | .inr v => .trap Cause.nearBounds v none
  | .inl run =>
    let r := s.run run
    if r.state == 0 then .done [] s
    else if !e.w.os.getLsbD 0 then
      .done [] (s.modRun run (fun r => { r with events := r.events &&& ~~~((e.opB s c).setWidth 16) }))
    else if r.coll.isSome then (if r.state == 2 then .done [] (s.freeRun run) else .stay s)
    else if s.runBusy run then
      .stay ((s.modRun run (fun r => { r with cancelled := true })).modGraph (fun g =>
        { g with launchQueue := g.launchQueue.filter (fun q => q.1 != run) }))
    else .done [] (s.freeRun run)

/-! ## The meanings -/

/-- ILOAD (R227). -/
def execIload (w : Fields) (s : State) : Host.Outcome State Fault Refusal :=
  issue .iload w bodyIload s

/-- IRUN (R228). -/
def execIrun (w : Fields) (s : State) : Host.Outcome State Fault Refusal :=
  issue .irun w bodyIrun s

/-- IWAIT (R230). -/
def execIwait (w : Fields) (s : State) : Host.Outcome State Fault Refusal :=
  issue .iwait w bodyIwait s

/-- IPOLL (R230). -/
def execIpoll (w : Fields) (s : State) : Host.Outcome State Fault Refusal :=
  issue .ipoll w bodyIpoll s

/-- IDROP (R231). -/
def execIdrop (w : Fields) (s : State) : Host.Outcome State Fault Refusal :=
  issue .idrop w bodyIdrop s


end Sys2Proof.Machine
end

