-- ==== Sys2Proof/Machine/Streams.lean ====
section
/-! DEFINITION. Streams (R233 to R243): bindings, groups read ahead, and groups written. -/

namespace Sys2Proof.Machine

/-! ## The pattern (R234, R235) -/

def descCount (d : BitVec 512) (j : Nat) : Nat :=
  if j = 0 then (d.extractLsb' 64 32).toNat else (d.extractLsb' (80 + 16 * j) 16).toNat
def descStride (d : BitVec 512) (j : Nat) : Int := (d.extractLsb' (112 + 32 * j) 32).toInt
def descBase (d : BitVec 512) : Word := d.extractLsb' 0 64

def Stream.near (b : Stream) : Bool := (descBase b.desc).getLsbD 63
def Stream.total (b : Stream) : Nat := streamTotal b.desc

/-- The base of an element's run, and its index within the run (R235). -/
def Stream.elem (b : Stream) (e : Nat) : Int × Nat :=
  let d := b.desc
  let r := e / descCount d 0
  let (c1, c2) := (descCount d 1, descCount d 2)
  (((descBase d).extractLsb' 0 57).toNat + (r % c1 : Nat) * descStride d 1
      + (r / c1 % c2 : Nat) * descStride d 2 + (r / (c1 * c2) : Nat) * descStride d 3,
    e % descCount d 0)

/-- The elements of a group. -/
def Stream.groupElems (b : Stream) (i : Nat) : List Nat :=
  ((List.range 32).map (32 * i + ·)).filter (fun e => decide (e < b.total))

/-- The format an element of a binding is under, from the page of its run's base for PAGE (R93, R235). -/
def State.streamFmt (s : State) (b : Stream) (e : Nat) : Option FmtRef :=
  if b.ty == .page then
    match s.leafOf (b.elem e).1.toNat with
    | some l => s.fmtRef s.asid (entFmt l.1)
    | none => none
  else b.fmt

/-- The operand base of an element: under PAGE with blocks, the base of its page (R188). -/
def State.streamBase (s : State) (b : Stream) (fmt : Option FmtRef) (e : Nat) : Int :=
  let a := (b.elem e).1
  if b.ty == .page && (blockLen fmt).isSome then
    match s.leafOf a.toNat with
    | some l => a - a % (l.2 : Int)
    | none => a
  else a

/-- Where an element lies: its bit from address 0, and its scale's byte (R188, R235). -/
def State.streamPlace (s : State) (b : Stream) (fmt : Option FmtRef) (e : Nat) : Int × Option Int :=
  let a := s.streamBase b fmt e
  let p := elemPlace fmt (elemWidth b.ty fmt) (b.elem e).2
  (8 * a + p.1, p.2.map (fun (k : Nat) => a + k))

/-! ## Reaching bytes -/

/-- What groups of a binding wait as. -/
def Stream.waiter (b : Stream) (gs : List StreamGroup) : Waiter :=
  ⟨.group b.c b.reg ((gs.head?.map (·.idx)).getD 0), 0, gs.flatMap (·.declined)⟩

/-- One access of a stream to `n` bytes, as a stop reaches its own (R214, R237, R238). -/
def State.streamReach (s : State) (b : Stream) (a : Int) (n : Nat) (k : AccessKind)
    (wt : Waiter) : Reach :=
  if b.near then
    if a < 0 || (2 ^ 32 : Int) < a + n || !s.nearOk a.toNat n then .failed Cause.nearBounds none s
    else .keys (s.nearKeys a.toNat n) s
  else if a < 0 || (2 ^ 57 : Int) < a + n then
    .failed Cause.pagePerm (some (xlatWord 2 5 (BitVec.ofInt 64 a))) s
  else s.reachGlobal b.c a.toNat n k wt

/-- The descriptor a PAGE element needs: a failure where it has none, or where it must choose scales and
cannot (R93). -/
def State.streamFormat (s : State) (b : Stream) (e : Nat) (k : AccessKind) (wt : Waiter) :
    Reach :=
  if b.ty != .page then .keys [] s
  else
    match s.streamReach b (b.elem e).1 1 k wt with
    | .keys _ s1 =>
      let bad := Reach.failed Cause.illegal (some (xlatWord 4 0 (BitVec.ofInt 64 (b.elem e).1))) s1
      match s1.streamFmt b e with
      | none => bad
      | some f => if k == .write && f.desc.block != 0 && f.desc.sckind then bad else .keys [] s1
    | r => r

/-- Whether an element of 16 bits or more is misaligned (R188). -/
def misplaced (w : Nat) (fmt : Option FmtRef) (bit : Int) : Bool :=
  decide (16 ≤ w) && (blockLen fmt).isNone && bit / 8 % (w / 8 : Nat) != 0

/-! ## In-streams (R236, R237) -/

/-- What reading a group comes to: its lanes and events; a page that holds it; or a failure. -/
inductive GroupEnd where
  | ok (lanes : List (BitVec 32)) (ev : Ev) (s : State)
  | held (token : BitVec 32) (s : State)
  | failed (cause : BitVec 8) (xlat : Option Word) (s : State)
  deriving DecidableEq, Repr

/-- The elements of a group read and widened, in order; the first failure is the group's. -/
def State.readElems (s : State) (b : Stream) (wt : Waiter) : List Nat → GroupEnd
  | [] => .ok [] Ev.zero s
  | e :: es =>
    match s.streamFormat b e .read wt with
    | .held t _ s1 => .held t s1
    | .failed cause xlat s1 => .failed cause xlat s1
    | .keys _ s1 =>
      let fmt := s1.streamFmt b e
      let w := elemWidth b.ty fmt
      let (bit, scale) := s1.streamPlace b fmt e
      if misplaced w fmt bit then .failed Cause.misaligned none s1
      else
        match s1.streamReach b (bit / 8) (max 1 (w / 8)) .read wt with
        | .held t _ s2 => .held t s2
        | .failed cause xlat s2 => .failed cause xlat s2
        | .keys ks s2 =>
          match (match scale with
            | some a => s2.streamReach b a 1 .read wt
            | none => .keys [] s2) with
          | .held t _ s3 => .held t s3
          | .failed cause xlat s3 => .failed cause xlat s3
          | .keys sk s3 =>
            if s3.poisonedAt (ks ++ sk) then .failed Cause.poisoned none s3
            else
              let (bs, s4) := (s3.portDone ks.head?).readKeys ⟨b.c.1, .g, b.near⟩ ks
              let (sb, s5) := s4.readKeys ⟨b.c.1, .g, b.near⟩ sk
              let code := bitsAt bs (bit % 8).toNat (min w 8) + (if w ≤ 8 then 0 else natOfBytes bs / 256 * 256)
              let sc := match fmt, blockLen fmt with
                | some f, some _ => some (f.scaleOf (sb.headD 0).toNat)
                | _, _ => none
              let (lane, ev) := widen b.ty fmt w code sc
              match s5.readElems b wt es with
              | .ok ls ev2 s6 => .ok (lane :: ls) (ev.add ev2) s6
              | r => r

/-- A binding replaced, by its place among the bindings. -/
def State.putStream (s : State) (b : Stream) : State :=
  s.modStream b.c b.reg (fun _ => b)

/-- A group put into a binding's buffer. -/
def Stream.putGroup (b : Stream) (g : StreamGroup) : Stream :=
  if b.buf.any (·.idx == g.idx) then
    { b with buf := b.buf.map (fun h => if h.idx == g.idx then g else h) }
  else { b with buf := b.buf ++ [g] }

/-- The group an in-stream reads next (R236): one that was held, or the next while it holds fewer than 8
that no pop has claimed. -/
def Stream.nextRead (b : Stream) : Option StreamGroup :=
  if b.out then none
  else
    match b.buf.find? (fun g => g.data.isNone && g.token.isNone) with
    | some g => some g
    | none =>
      if b.next < b.groups && b.next < b.claimed + 8 && b.buf.all (fun g => g.token.isNone) then
        some ⟨b.next, none, 0, [], b.rm, none, none, [], false⟩
      else none

/-- Whether the first element of a group lies over the narrow port that a transfer holds (R163). -/
def State.groupHeld (s : State) (b : Stream) (idx : Nat) : Bool :=
  s.portHeld && (match b.groupElems idx with
    | e :: _ =>
      let a := (b.elem e).1.toNat
      s.keyHeld (if b.near then s.nearKey a else s.peekKey s.asid a)
    | [] => false)

/-- A popped group of a binding arrives: its register is pending for it no more (R292). -/
def State.groupIn (s : State) (b : Stream) (g : StreamGroup) : State :=
  let s1 := s.putStream (b.putGroup g)
  if g.idx < b.claimed then s1.modCtx b.c (fun x => (x.clearPending (.v b.reg)).wake) else s1

/-- The address of a group's first element, where a gate stands before it that may refuse it (R136, R137). -/
def State.groupGated (s : State) (b : Stream) (idx : Nat) (r : BitVec 4) : Option Nat :=
  match b.groupElems idx with
  | e :: _ =>
    let a := (b.elem e).1
    if b.near || a < 0 then none
    else (s.gatedVa a.toNat).bind (fun p => if gateReason p r then some a.toNat else none)
  | [] => none

/-- STREAM_GROUP_ARRIVE (R236, R237): a binding reads a group, or its read fails, is held or is refused by the
gate of another rank's memory (R137). -/
def execStreamGroupArrive (n : AtHome (Fin 8)) (s : State) : Host.Outcome State Fault Refusal :=
  powered s (
    match s.graph.streams[n.which.1]? with
    | none => s
    | some b =>
      match b.nextRead.filter (fun g => !s.groupHeld b g.idx) with
      | none => s
      | some g =>
        let b1 := { b with next := max b.next (g.idx + 1) }
        match n.refused with
        | some r =>
          (match s.groupGated b g.idx r with
           | some a => s.groupIn b1 { g with
               data := some 0
               fault := some (Cause.pagePerm, some (xlatWord 2 r (BitVec.ofNat 64 a))) }
           | none => s)
        | none =>
          match s.readElems b (b.waiter [g]) (b.groupElems g.idx) with
          | .ok lanes ev s1 => (s1.count ev).groupIn b1 { g with data := some (packLanes lanes) }
          | .held t s1 => s1.putStream (b1.putGroup { g with token := some t })
          | .failed cause xlat s1 => s1.groupIn b1 { g with data := some 0, fault := some (cause, xlat) })

/-! ## Out-streams (R235, R238, R239) -/

/-- An element to write: its number, its lane, its draw, and the group that pushed it; `none` for an element
written before whose byte it shares. -/
structure OutElem where
  e : Nat
  lane : BitVec 32
  draw : BitVec 32
  group : Option Nat
  deriving DecidableEq, Repr

/-- The elements of pushed groups. -/
def Stream.pushed (b : Stream) (gs : List StreamGroup) : List OutElem :=
  gs.flatMap (fun g => (b.groupElems g.idx).map (fun e =>
    ⟨e, ((g.data.getD 0).extractLsb' (32 * (e % 32)) 32), g.draws.getD (e % 32) 0, some g.idx⟩))

/-- The last element of the block an element lies in, within its run.
DEDUCED, log entry 39. -/
def Stream.blockEnd (b : Stream) (l e : Nat) : Nat :=
  let c0 := descCount b.desc 0
  let i0 := e % c0
  e - i0 + min ((i0 / l + 1) * l) c0 - 1

/-- The first element of the block an element lies in. -/
def Stream.blockStart (b : Stream) (l e : Nat) : Nat :=
  let i0 := e % descCount b.desc 0
  e - i0 + i0 / l * l

/-- How many of the oldest buffered groups can be written: the fewest that end no block's middle (R235). -/
def State.writable (s : State) (b : Stream) : Nat :=
  if !b.out then 0
  else
    let ok := fun (k : Nat) =>
      (b.buf.take k).all (fun g => g.data.isSome && g.token.isNone)
        && (match (b.buf.take k).getLast? with
            | none => false
            | some g =>
              match (b.groupElems g.idx).getLast? with
              | none => true
              | some e =>
                match blockLen (s.streamFmt b e) with
                | none => true
                | some l => decide (b.blockEnd l e ≤ e) || decide (b.total ≤ e + 1))
    ((List.range b.buf.length).find? (fun k => ok (k + 1))).elim 0 (· + 1)

/-- The bits an out-stream writes: place, width, value and group. -/
abbrev OutBits := Int × Nat × Nat × Option Nat

/-- Elements narrowed into the bits they write; a block's elements share the scale chosen for it, with zero
for those it lacks (R97, R235, R239). -/
def State.narrowAll (s : State) (b : Stream) (xs : List OutElem) : List OutBits × Ev :=
  xs.foldl (fun (st : List OutBits × Ev) x =>
    let fmt := s.streamFmt b x.e
    let w := elemWidth b.ty fmt
    let (bit, scale) := s.streamPlace b fmt x.e
    match fmt, blockLen fmt with
    | some f, some l =>
      let first := b.blockStart l x.e
      let lanes := (List.range l).map (fun i =>
        match xs.find? (fun y => y.e == first + i && decide (first + i ≤ b.blockEnd l x.e)) with
        | some y => (fmtF32 false).decode y.lane.toNat
        | none => .zero false)
      let (sc, k) := chooseScale f.desc.fmt lanes
      let (code, ev) := narrow b.ty fmt b.sat w b.rm x.draw (some k) x.lane
      (st.1 ++ [(bit, w, code, x.group)]
        ++ (if x.e = first then [(8 * scale.getD 0, 8, sc, x.group)] else []), st.2.add ev)
    | _, _ =>
      let (code, ev) := narrow b.ty fmt b.sat w b.rm x.draw none x.lane
      (st.1 ++ [(bit, w, code, x.group)], if x.group.isSome then st.2.add ev else st.2)) ([], Ev.zero)

/-- Missing elements of the blocks that elements lie in, as zeros (R239). -/
def State.padBlocks (s : State) (b : Stream) (xs : List OutElem) : List OutElem :=
  match xs.getLast? with
  | none => xs
  | some x =>
    match blockLen (s.streamFmt b x.e) with
    | none => xs
    | some l => xs ++ (List.range (b.blockEnd l x.e - x.e)).map (fun i => ⟨x.e + 1 + i, 0, 0, x.group⟩)

/-- What an out-stream's write of bits comes to, place by place: the keys and bytes in place, the groups
that fail with their faults; or a page that holds them. -/
inductive WriteEnd where
  | ok (keys : List Nat) (data : List Byte) (fails : List (Nat × BitVec 8 × Option Word)) (s : State)
  | held (token : BitVec 32) (s : State)
  deriving DecidableEq, Repr

/-- The bytes of bits that share places: address, value, group; ascending places keep their first group. -/
def mergeBits (xs : List OutBits) : List (Int × Nat × Option Nat) :=
  xs.foldl (fun acc (x : OutBits) =>
    let (bit, w, code, g) := x
    (List.range (max 1 (w / 8))).foldl (fun acc (j : Nat) =>
      let a : Int := bit / 8 + (j : Int)
      let v := if 8 ≤ w then code / 256 ^ j % 256 else code * 2 ^ (bit % 8).toNat
      if acc.any (fun (p : Int × Nat × Option Nat) => p.1 == a) then
        acc.map (fun (p : Int × Nat × Option Nat) => if p.1 == a then (a, p.2.1 ||| v, p.2.2 <|> g) else p)
      else acc ++ [(a, v, g)]) acc) []

def State.placeBytes (s : State) (b : Stream) (wt : Waiter) :
    List (Int × Nat × Option Nat) → WriteEnd
  | [] => .ok [] [] [] s
  | (a, v, g) :: rest =>
    match s.streamReach b a 1 .write wt with
    | .held t _ s1 => .held t s1
    | .failed cause xlat s1 =>
      (match s1.placeBytes b wt rest with
       | .ok ks bs fs s2 => .ok ks bs ((g.getD 0, cause, xlat) :: fs) s2
       | r => r)
    | .keys ks s1 =>
      match s1.placeBytes b wt rest with
      | .ok ks2 bs fs s2 => .ok (ks ++ ks2) (BitVec.ofNat 8 v :: bs) fs s2
      | r => r

/-- Formats of the elements looked up first: held, or failed elements dropped with their faults. -/
def State.checkElems (s : State) (b : Stream) (wt : Waiter) :
    List OutElem → (List OutElem × List (Nat × BitVec 8 × Option Word) × State) ⊕ (BitVec 32 × State)
  | [] => .inl ([], [], s)
  | x :: xs =>
    match s.streamFormat b x.e .write wt with
    | .held t _ s1 => .inr (t, s1)
    | .failed cause xlat s1 =>
      (match s1.checkElems b wt xs with
       | .inl (ys, fs, s2) => .inl (ys, (x.group.getD 0, cause, xlat) :: fs, s2)
       | r => r)
    | .keys _ s1 =>
      let fmt := s1.streamFmt b x.e
      let bad := misplaced (elemWidth b.ty fmt) fmt (s1.streamPlace b fmt x.e).1
      match s1.checkElems b wt xs with
      | .inl (ys, fs, s2) =>
        if bad then .inl (ys, (x.group.getD 0, Cause.misaligned, none) :: fs, s2) else .inl (x :: ys, fs, s2)
      | r => r

/-- The faults of groups, one for each group, in order (R238). -/
def State.groupFaults (s : State) (b : Stream) (gs : List StreamGroup)
    (fails : List (Nat × BitVec 8 × Option Word)) : State :=
  gs.foldl (fun s g =>
    match fails.find? (fun f => f.1 == g.idx) with
    | some f => s.lateFault b.c ⟨f.2.1, g.pc, f.2.2, none, g.inHandler, 0⟩
    | none => s) s

/-- The first `k` buffered groups of a binding fail with a fault of the first: nothing of them is written. -/
def State.dropGroups (s : State) (b : Stream) (k : Nat) (cause : BitVec 8) (xlat : Option Word) : State :=
  (s.putStream { b with buf := b.buf.drop k }).groupFaults b (b.buf.take 1)
    ((b.buf.take 1).map (fun g => (g.idx, cause, xlat)))

/-- Elements of the last byte written that a later element of the run shares (R94). -/
def State.sharedTail (s : State) (b : Stream) (xs : List OutElem) : List (Nat × BitVec 32 × BitVec 32) :=
  match xs.getLast? with
  | none => []
  | some x =>
    let fmt := s.streamFmt b x.e
    let w := elemWidth b.ty fmt
    let per := 8 / w
    let i0 := (b.elem x.e).2
    if w < 8 && (blockLen fmt).isNone && (i0 + 1) % per != 0 && i0 + 1 < descCount b.desc 0 then
      (xs.filter (fun y => decide (x.e - i0 % per ≤ y.e))).map (fun y => (y.e, y.lane, y.draw))
    else []

/-- What the write of a binding's groups comes to: the bytes at their keys, the groups that fail, the counts, and the
elements of a byte that is written again. -/
structure GroupWrite where
  keys : List Nat
  bytes : List Byte
  fails : List (Nat × BitVec 8 × Option Word)
  ev : Ev
  rest : List (Nat × BitVec 32 × BitVec 32)
  deriving DecidableEq, Repr

/-- What writing the first `k` buffered groups of a binding comes to (R235, R238); `pad` fills a last block with zeros
(R239). A page that is not present holds them. -/
def State.groupBytes (s : State) (b : Stream) (k : Nat) (pad : Bool) : (BitVec 32 × State) ⊕ (GroupWrite × State) :=
  let gs := b.buf.take k
  let wt := b.waiter gs
  let old : List OutElem := b.partialElems.map (fun p => ⟨p.1, p.2.1, p.2.2, none⟩)
  let new := b.pushed gs
  match s.checkElems b wt (if pad then s.padBlocks b new else new) with
  | .inr (t, s1) => .inl (t, s1)
  | .inl (xs, fs, s1) =>
    let (bits, ev) := s1.narrowAll b (old ++ xs)
    match s1.placeBytes b wt (mergeBits bits) with
    | .held t s2 => .inl (t, s2)
    | .ok ks bs fs2 s2 => .inr (⟨ks, bs, fs ++ fs2, ev, s2.sharedTail b (old ++ xs)⟩, s2)

/-- The first `k` buffered groups of a binding written (R235, R238), or held, when nothing is. -/
def State.writeGroups (s : State) (b : Stream) (k : Nat) (pad : Bool) : State × Bool :=
  match s.groupBytes b k pad with
  | .inl (t, s1) =>
    (s1.putStream { b with buf := b.buf.zipIdx.map (fun (p : StreamGroup × Nat) =>
      if p.2 = 0 then { p.1 with token := some t } else p.1) }, true)
  | .inr (w, s1) =>
    let s2 := (((s1.writeKeys ⟨b.c.1, .g, b.near⟩ w.keys w.bytes).count w.ev).portDone w.keys.head?).putStream
      { b with buf := b.buf.drop k, partialElems := w.rest }
    (s2.groupFaults b (b.buf.take k) w.fails, false)

/-- STREAM_GROUP_WRITE (R238): a binding writes its oldest groups whose blocks are complete, or the gate of
another rank's memory refuses them (R137). -/
def execStreamGroupWrite (n : AtHome (Fin 8)) (s : State) : Host.Outcome State Fault Refusal :=
  powered s (
    match s.graph.streams[n.which.1]? with
    | none => s
    | some b =>
      let k := s.writable b
      if k = 0 || s.groupHeld b ((b.buf.head?.map (·.idx)).getD 0) then s
      else
        match n.refused with
        | some r =>
          (match s.groupGated b ((b.buf.head?.map (·.idx)).getD 0) r with
           | some a => s.dropGroups b k Cause.pagePerm (some (xlatWord 2 r (BitVec.ofNat 64 a)))
           | none => s)
        | none => (s.writeGroups b k false).1)

/-! ## The instructions (R236, R239, R240) -/

/-- The vector register a binding instruction names. -/
def Opd.stream (o : Opd) : BitVec 5 := BitVec.ofNat 5 o.num.toNat

/-- The transfer unit with the fewest bindings, the lowest on a tie (R233). -/
def State.freeUnit (s : State) : BitVec 2 :=
  let load := fun (u : Nat) => s.graph.streams.countP (fun b => b.unit.toNat == u)
  BitVec.ofNat 2 ((List.range 4).foldl (fun best u => if load u < load best then u else best) 0)

/-- Whether a stream descriptor is refused with reason 3 (R236). -/
def descBad (ty : Ty) (fmt : Option FmtRef) (d : BitVec 512) : Bool :=
  let base := descBase d
  (List.range 4).any (fun j => descCount d j == 0) || d.extractLsb' 240 272 != 0
    || base.extractLsb' 57 6 != 0 || (base.getLsbD 63 && base.extractLsb' 32 25 != 0)
    || ((blockLen fmt).isSome && descCount d 0 % 64 != 0) || (ty == .page && base.getLsbD 63)

def bodySbind : Body := fun c e s =>
  let n := Opd.stream e.w.fd
  let a := e.opA s c
  let out := e.w.os.getLsbD 7
  if (s.stream? c n).isSome then .trap Cause.streamUnbound (streamInfo 1 n) none
  else if 8 ≤ s.graph.streams.length || s.loadWaits c then .stay s
  else if a.toNat % 64 != 0 then .trap Cause.misaligned a none
  else if !s.spadOk a.toNat 64 then .trap Cause.nearBounds a none
  else
    let ks := s.nearKeys a.toNat 64
    if s.poisonedAt ks then .trap Cause.poisoned e.pc none
    else
      let (bs, s1) := s.readKeys ⟨c.1, .s, true⟩ ks
      let d := BitVec.ofNat 512 (natOfBytes bs)
      if descBad e.w.ty e.fmt d then .trap Cause.streamUnbound (streamInfo 3 n) none
      else if out && (match e.fmt with | some f => f.desc.block != 0 && f.desc.sckind | none => false) then
        e.badFormat
      else
        let b : Stream :=
          { c := c, reg := n, unit := s.freeUnit, out := out, ty := e.w.ty, rm := e.rm, sat := e.sat, fmt := e.fmt,
            desc := d, next := 0, claimed := 0, buf := [], partialElems := [], pc := e.pc }
        .done [] (s1.modGraph (fun g => { g with streams := g.streams ++ [b] }))

/-- Whether a deferred instruction claims or pushes a group of a binding (R239). -/
def Ctx.claims (x : Ctx) (n : BitVec 5) : Bool :=
  x.hamper.any (fun h => h.claims.any (·.1 == n) || (match h.push with | some p => p.1 == n | none => false))

/-- Whether a binding is drained (R239): no deferred instruction has a part in it, and every pushed group
whose blocks are complete is written. -/
def State.streamDrained (s : State) (b : Stream) : Bool :=
  !(s.ctx b.c).claims b.reg
    && (!b.out || (s.writable b == 0 && b.buf.all (fun g => g.data.isSome && g.token.isNone)))

/-- Whether a fence has nothing to wait for on a binding (R206, R239, R303): inside the handler frozen entries
and the groups they will push are left out. -/
def State.streamQuiet (s : State) (b : Stream) : Bool :=
  if (s.ctx b.c).inh then !b.out || (s.writable b == 0 && b.buf.all (·.token.isNone)) else s.streamDrained b

def bodySdrain : Body := fun c e s =>
  match s.stream? c (Opd.stream e.w.fd) with
  | none => .done [] s
  | some b => if s.streamDrained b then .done [] s else .stay s

/-- A drained binding freed: an incomplete block is written with zeros first (R239). Whether it is still
held. -/
def State.freeStream (s : State) (b : Stream) : State × Bool :=
  let (s1, held) := if b.out && !b.buf.isEmpty then s.writeGroups b b.buf.length true else (s, false)
  if held then (s1, true)
  else
    ((s1.modGraph (fun g => { g with streams := g.streams.filter (fun k => !(k.c == b.c && k.reg == b.reg)) })).modCtx
      b.c (fun x => (x.setFile (.v b.reg) 0).forget (.v b.reg)), false)

def bodySfree : Body := fun c e s =>
  match s.stream? c (Opd.stream e.w.fd) with
  | none => .done [] s
  | some b =>
    if !s.streamDrained b then .stay s
    else
      let (s1, held) := s.freeStream b
      if held then .stay s1 else .done [] s1

/-- SSTAT's word (R240). -/
def Stream.status (b : Stream) : Word :=
  let n := if b.out then b.buf.length
    else b.buf.countP (fun g => g.data.isSome && decide (b.claimed ≤ g.idx))
  wordField 63 1 ||| wordField 62 (if b.out then 1 else 0) ||| wordField 60 b.unit.toNat
    ||| wordField 56 (min n 8) ||| wordField 0 (min (b.groups - b.claimed) 0xFFFFFFFF)

def bodySstat : Body := fun c e s =>
  match s.stream? c (Opd.stream e.w.fa) with
  | none => .done (e.toFd 0) s
  | some b => .done (e.toFd b.status) s

/-! ## The meanings -/

/-- SBIND (R236).
DEDUCED, log entry 81. -/
def execSbind (w : Fields) (s : State) : Host.Outcome State Fault Refusal :=
  issue .sbind w bodySbind s

/-- SFREE (R239). -/
def execSfree (w : Fields) (s : State) : Host.Outcome State Fault Refusal :=
  issue .sfree w bodySfree s

/-- SDRAIN (R239). -/
def execSdrain (w : Fields) (s : State) : Host.Outcome State Fault Refusal :=
  issue .sdrain w bodySdrain s

/-- SSTAT (R240). -/
def execSstat (w : Fields) (s : State) : Host.Outcome State Fault Refusal :=
  issue .sstat w bodySstat s


end Sys2Proof.Machine
end

