-- ==== Sys2Proof/Machine/Gate.lean ====
section
/-! DEFINITION. The outside gate (R131, R136, R137, R204, R205, R258, R259, R277). -/

namespace Sys2Proof.Machine

/-- Whether a rank is about to enter a step or inside one, so that the gate holds what arrives (R136,
R258, R277). -/
def State.gateClosed (s : State) : Bool :=
  s.scopes.toList.any (fun q => q.queue.any (fun r => !r.entered)) || s.insideStep

/-- The beacon that stands for completed steps: their results are published to outside requests (R204). -/
def stepKey : Nat := 2 ^ 250 + 64

/-- What an outside request acquires (R136, R204): published writes and results of completed steps. -/
def State.outsideAcquire (s : State) : State :=
  s.modUnseen (fun u => if u.pubs.isEmpty then u else u.view [⟨11, .o, false⟩])

/-- An answer given (R137). -/
def State.reply (s : State) (r : OutReq) (status : ReplyStatus) (data : List Byte) : State :=
  { s with replies := s.replies ++ [⟨r.requester, status, data⟩] }

/-- Whether bytes at a rank offset lie in the lot or the scratchpad, and in one page (R136, R137); a request that
does not is refused with reason 6.
DEDUCED, log entry 43. -/
def State.outsideOk (s : State) (off n : Nat) : Bool :=
  0 < n && n ≤ 4096 && off / 4096 == (off + n - 1) / 4096
    && ((spadOff ≤ off && off + n ≤ spadOff + 0x80000)
      || (s.lotBase ≤ off && off + n ≤ s.lotBase + s.lot))

/-- What an outside request is to a page (R117). -/
def OutWhat.kind : OutWhat → AccessKind
  | .read => .outRead
  | .write _ => .outWrite
  | .atomic _ => .outAtomic

/-- The bytes an outside request names: those at its offset, or those its virtual address leads to (R112,
R117, R131). -/
def State.outsideKeys (s : State) (g : GateReq) : XlEnd × State :=
  match g.req.va with
  | none => (.ok (keysFrom (siteKey s.party.site g.req.offset.toNat) g.req.len) none Leaf.none, s)
  | some va => s.translate g.req.asid va g.req.len g.what.kind false 0

/-- Whether a record is of a write of the rank's own that nothing has published (R204). -/
def Unseen.unpublished (u : Unseen) : Bool := decide (u.writer < 11) && u.pubs.isEmpty

/-- The values of a word that an outside read may return, newest first (R204): never one that includes an
unpublished write of the rank, and none older than one that is published. -/
def outsideValues (w : Nat) : List Unseen → Word → List Word
  | [], v => [v]
  | u :: us, v =>
    if u.key != w then outsideValues w us v
    else if u.unpublished then outsideValues w us u.old
    else if u.visibleTo ⟨11, .o, false⟩ then [v]
    else v :: outsideValues w us u.old

/-- An aligned word as an outside read finds it (R204). -/
def State.outsideWord (s : State) (w : Nat) : Word × State :=
  match outsideValues w s.unseen (s.mem.wordAt w) with
  | [v] => (v, s)
  | vs =>
    let (i, s1) := s.choose vs.length
    (vs.getD i 0, s1)

/-- Bytes as an outside read finds them, each aligned word read once. -/
def State.outsideBytes (s : State) (keys : List Nat) : List Byte × State :=
  let (ws, s1) := ((keys.map wordOf).eraseDups).foldl (fun (p : List (Nat × Word) × State) w =>
    let (v, s') := p.2.outsideWord w
    (p.1 ++ [(w, v)], s')) ([], s)
  (keys.map (fun k => match ws.find? (fun p => p.1 == wordOf k) with
    | some p => p.2.extractLsb' (8 * (k % 8)) 8
    | none => 0), s1)

/-- What an outside write leaves to the rank's own contexts (R205). -/
def State.outsideStore (s : State) (keys : List Nat) (bs : List Byte) : State :=
  (s.writeKeys ⟨11, .o, false⟩ keys bs).markNew s (fun u =>
    u.view (allCtx.flatMap (fun c => agentsOf c.1 [.s] [false, true])))

/-- The bytes an ATOM or a CAS names (R191, R192). -/
def outBytes : OutAtomic → Nat
  | .atom ty _ _ _ _ _ | .cas ty _ _ => ty.bytes

/-- Another rank's ATOM or CAS performed (R136, R191, R192): what it writes, if anything, over an old value. -/
def outApply (a : OutAtomic) (old : Nat) : Option (List Byte) :=
  match a with
  | .atom ty op b rm draw sat =>
    some (bytesOfNat ty.bytes (atomicOp op.toNat (8 * ty.bytes) rm draw sat old (b.toNat % 2 ^ (8 * ty.bytes))).1)
  | .cas ty exp new =>
    if old = exp.toNat % 2 ^ (8 * ty.bytes) then some (bytesOfNat ty.bytes new.toNat) else none

/-- The bytes of an admitted request read or written on path O (R204, R205, R269). -/
def State.performAt (s : State) (g : GateReq) (keys : List Nat) : State :=
  match g.what with
  | .read =>
    if s.poisonedAt keys then s.reply g.req .poisoned []
    else
      let (bs, s1) := (if g.req.core then s.readKeys ⟨11, .o, false⟩ keys else s.outsideAcquire.outsideBytes keys)
      s1.reply g.req .ok bs
  | .write bs => (s.outsideStore keys bs).reply g.req .ok []
  | .atomic a =>
    if s.poisonedAt keys then s.reply g.req .poisoned []
    else
      let (old, s1) := (if g.req.core then s.readNewest ⟨11, .o, false⟩ keys else s.outsideAcquire.outsideBytes keys)
      let s2 := match outApply a (natOfBytes old) with
        | some bs => s1.outsideStore keys bs
        | none => s1
      s2.reply g.req .ok old

/-- Whether a request is a command that a sequencer has in its queue, or waits behind one of its requester (R205,
R443). -/
def GateReq.inQueue (g : GateReq) : Bool := g.admitted && g.token.isNone

/-- A request performed at its keys, or put into the queue of the sequencer that they lead to: where the request says so,
while a transfer holds the narrow port (R163), and behind an earlier one of the same requester (R205, R442, R443). -/
def State.queueReq (s : State) (g : GateReq) (keys : List Nat) : State × Option GateReq :=
  if (g.req.queued && [0, 1, 2, 3].any (fun q => (keys.head?.map (portKey q)).getD false))
      || s.keyHeld keys.head? || s.gate.any (fun k => k.inQueue && k.req.requester == g.req.requester) then
    (s, some { g with
      admitted := true
      token := none
      keys := keys })
  else ((s.performAt g keys).portDone keys.head?, none)

/-- An admitted request performed: answered, put into a sequencer's queue, or held on a page that is not present; a
request that is not answered stays at the gate (R131).
DESIGN CHOICE, log entry 42. -/
def State.performReq (s : State) (g : GateReq) : State × Option GateReq :=
  match s.outsideKeys g with
  | (.ok keys _ _, s1) => s1.queueReq g keys
  | (.fail fault reason _, s1) =>
    (s1.reply g.req (if fault = 3 then .remoteLost reason else .pagePerm reason) [], none)
  | (.absent va h, s1) =>
    let (token, s2) := s1.holdPage g.req.asid va h g.what.kind 0 .request
    (s2, some { g with admitted := true, token := some token })

/-- The oldest command of outside requests in a sequencer's queue is performed, if that is now (R443). -/
def State.serveQueue (s : State) : State :=
  match s.gate.findIdx? (·.inQueue) with
  | none => s
  | some n =>
    let (i, s1) := s.choose 2
    match s.gate[n]? with
    | some g =>
      if i = 0 || s.keyHeld g.keys.head? then s1
      else ({ s1 with gate := s1.gate.eraseIdx n }.performAt g g.keys).portDone g.keys.head?
    | none => s1

/-- Whether a request waits for the reset of a sequencer: it reaches a port area of its quadrant (R444). -/
def State.waitsReset (s : State) (g : GateReq) : Bool :=
  match (match g.req.va with
    | none => some (siteKey s.party.site g.req.offset.toNat)
    | some va => s.peekKey g.req.asid va.toNat) with
  | some k => (List.finRange 4).any (fun q => (s.seq q).resetting && portKey q.1 k)
  | none => false

/-- What is held at the gate goes on, in arrival order (R109, R136, R444): the management core's requests unless a reset
holds them; where the rank is not inside a step, those that no step keeps waiting or that an exit has made due, up to
the first that a reset holds. The second component tells whether one has been met. -/
def State.admitNext (p : State × Bool) (g : GateReq) : State × Bool :=
  let (s, shut) := p
  let keep := fun (shut : Bool) => ({ s with gate := s.gate ++ [g] }, shut)
  if g.admitted then keep shut
  else if g.req.core then
    (if s.waitsReset g then keep shut
     else
      let (s1, left) := s.performReq g
      ({ s1 with gate := s1.gate ++ left.toList }, shut))
  else if shut || s.insideStep || (s.gateClosed && !g.due) then keep shut
  else if s.waitsReset g then keep true
  else if !s.party.bound then (s.reply g.req (.pagePerm 6) [], shut)
  else
    let (s1, left) := s.performReq g
    ({ s1 with gate := s1.gate ++ left.toList }, shut)

/-- The gate goes on as far as it can. -/
def State.openGate (s : State) : State :=
  if s.gate.all (·.admitted) then s else (s.gate.foldl State.admitNext ({ s with gate := [] }, false)).1

/-- Why the gate refuses a request (R137); the management core's by region 2 only ends outside the rank's memory
(R108, R109). -/
def State.gateRefusal (s : State) (r : OutReq) : Option (BitVec 4) :=
  if r.core then (if r.offset.toNat + r.len ≤ spadOff + 0x80000 && 0 < r.len && r.va.isNone then none else some 6)
  else if !s.outsideOk r.offset.toNat r.len then some 6
  else if !s.party.bound || r.asid != s.asid || r.lrn != s.lrn then some 6
  else if r.vf != s.vf then some 1
  else none

/-- A request arrives: refused, held while the gate is closed or a sequencer on its way resets (R444), or
admitted; the management core's by region 2 passes no gate (R136). -/
def State.outsideArrive (s : State) (r : OutReq) (what : OutWhat) : State :=
  match s.gateRefusal r with
  | some reason => s.reply r (.pagePerm reason) []
  | none =>
    let g : GateReq :=
      { req := r, what := what, deadline := s.wall + s.party.timeout.toNat * 1100, admitted := false, token := none,
        arrived := s.wall, due := false, keys := [] }
    { s with gate := s.gate ++ [g] }.openGate

/-- OUTSIDE_READ (R136, R137). -/
def execOutsideRead (r : OutReq) (s : State) : Host.Outcome State Fault Refusal :=
  powered s (s.outsideArrive r .read)

/-- OUTSIDE_WRITE (R136, R205): as many bytes as the request says, or another rank's ATOM or CAS. -/
def execOutsideWrite (r : OutReq) (data : List Byte ⊕ OutAtomic) (s : State) : Host.Outcome State Fault Refusal :=
  powered s (
    match data with
    | .inl bs => if bs.length = r.len then s.outsideArrive r (.write bs) else s
    | .inr a => if outBytes a = r.len then s.outsideArrive r (.atomic a) else s)

/-- A group of the `n`-th stream that a gate has held too long: its read gives zero, its write is lost, and
GATE_TIMEOUT waits for its context (R136). -/
def State.groupTimeout (s : State) (n : Nat) : State :=
  match s.graph.streams[n]? with
  | none => s
  | some b =>
    let late := fun (idx : Nat) => match b.groupElems idx with
      | e :: _ => !b.near && (s.gatedVa (b.elem e).1.toNat).isSome
      | [] => false
    if b.out then
      (if 0 < s.writable b && late ((b.buf.head?.map (·.idx)).getD 0) then
        s.dropGroups b (s.writable b) Cause.gateTimeout none
      else s)
    else
      match b.nextRead with
      | some g =>
        if late g.idx then
          s.groupIn { b with next := max b.next (g.idx + 1) }
            { g with data := some 0, fault := some (Cause.gateTimeout, none) }
        else s
      | none => s

/-- Whether a request at the gate has been held too long (R136): not one that a reset holds (R444), and the management
core's pass no gate. -/
def State.gateExpired (s : State) (g : GateReq) : Bool :=
  !g.admitted && !g.req.core && !s.waitsReset g && decide (g.deadline ≤ s.wall)

/-- GATE_TIMEOUT (R136): the `n`-th request at this rank's gate has been held too long; or with `own` the
gate of another rank has turned away the `n`-th access in flight of this rank, or one of a stop in progress
(R224) or of a stream. -/
def execGateTimeout (n : Nat) (own : Bool) (s : State) : Host.Outcome State Fault Refusal :=
  powered s (
    if own then
      match s.flights[n]? with
      | some f =>
        if s.throughGate f then
          { s with flights := s.flights.map (fun k => if k.id == f.id then { k with gateDead := some s.now } else k) }
        else s
      | none =>
        match s.graph.inProgress[n - s.flights.length]? with
        | some p =>
          (match s.stopGated p with
           | some (a, _) => s.endStop { p with fail := some (16, 0, BitVec.ofNat 64 a) }
           | none => s)
        | none => s.groupTimeout (n - s.flights.length - s.graph.inProgress.length)
    else
      match s.gate[n]? with
      | some g =>
        if s.gateExpired g then
          { s with gate := s.gate.eraseIdx n }.reply g.req .gateTimeout []
        else s
      | none => s)

end Sys2Proof.Machine
end

