-- ==== Sys2Proof/Machine/Messages.lean ====
section
/-! DEFINITION. Messages (R246 to R252): SEND, RECV, PUT and GET, their matching and their landing. -/

namespace Sys2Proof.Machine

/-! ## The descriptor (R247) -/

def msgLaddr (d : BitVec 256) : Nat := (d.extractLsb' 0 32).toNat
def msgRaddr (d : BitVec 256) : BitVec 32 := d.extractLsb' 32 32
def msgLen (d : BitVec 256) : Nat := (d.extractLsb' 64 32).toNat
def msgTag (d : BitVec 256) : BitVec 16 := d.extractLsb' 96 16
def msgLrn (d : BitVec 256) : BitVec 10 := d.extractLsb' 128 10
def msgDev (d : BitVec 256) : BitVec 14 := d.extractLsb' 160 14

/-- Whether a descriptor breaks R248's last check.
DEDUCED, log entry 82. -/
def msgBad (kind : MsgKind) (d : BitVec 256) : Bool :=
  d.extractLsb' 174 82 != 0 || d.extractLsb' 138 22 != 0 || d.extractLsb' 112 16 != 0
    || decide (msgLen d < 8) || decide (4194304 < msgLen d) || msgLen d % 8 != 0
    || ((kind == .put || kind == .get) && msgTag d != 0)

/-- A message that names a rank of this device: a member, or not. -/
def State.msgHere (s : State) (m : Msg) : Bool := s.devOf m.dev == s.ownDev

/-- Whether a RECV names any sender (R247). -/
def Msg.anyone (m : Msg) : Bool := m.kind == .recv && m.lrn == 0x3FF

/-- Whether a message is to this rank itself. -/
def State.msgSelf (s : State) (m : Msg) : Bool := !m.anyone && s.isSelf m.dev m.lrn

/-- Whether a message's peer can be no member (R249). -/
def State.msgStranger (s : State) (m : Msg) : Bool := !m.anyone && !s.mayBeMember m.dev m.lrn

/-- Whether a RECV still takes a SEND of a rank under a tag (R250). -/
def State.takesSend (s : State) (m : Msg) (dev : BitVec 14) (lrn : BitVec 10) (tag : BitVec 16) : Bool :=
  m.kind == .recv && m.matched.isNone && m.tag == tag
    && (m.anyone || (s.devOf m.dev == s.devOf dev && m.lrn == lrn))

/-- What a context has written or seen on path S at keys is read there on class C by its own message or
step (R248, R256). -/
def State.offer (s : State) (c : Fin 11) (keys : List Nat) : State :=
  if s.unseen.isEmpty then s
  else
    let ws := (keys.map wordOf).eraseDups
    s.modUnseen (fun u => if ws.contains u.key && u.visibleTo ⟨c.1, .s, true⟩ then u.view [⟨c.1, .c, true⟩] else u)

/-- Where a byte of a rank of the group stands, by its offset there (R107, R108). -/
def State.rankKey (s : State) (dev : BitVec 14) (lrn : BitVec 10) (off : Nat) : Option Nat :=
  match s.resolve s.asid (dev.toNat * 2 ^ 38 + lrn.toNat * 2 ^ 28 + off) with
  | .ok p => some p.key
  | .error _ => none

/-- Where bytes from a near address of another rank stand, if this device shows it (R180, R249): in its scratchpad, or, of
a rank of this device, in its lot. -/
def State.peerNear (s : State) (dev : BitVec 14) (lrn : BitVec 10) (a : Nat) : Option Nat :=
  if a < 0x80000 then s.rankKey dev lrn (spadOff + a)
  else
    match s.party.lrns.find? (fun p => p.1 == lrn) with
    | some p =>
      if s.devOf dev == s.ownDev then
        (s.sched.slotTable.find? (fun e => e.1.1 == p.2.toNat && s.recordOfParty e)).map (fun e =>
          siteKey p.2 ((e.2.extractLsb' 164 28).toNat + (a - 0x8000000)))
      else none
    | none => none

/-- Bytes that a message has written at another rank, its poisoned words with them (R249, R251). -/
def State.writePeer (s : State) (c : Fin 11) (dev : BitVec 14) (lrn : BitVec 10) (a : Nat) (bs : List Byte)
    (bad : List Nat) : State :=
  match s.peerNear dev lrn a with
  | none => s
  | some k =>
    (s.writeKeys ⟨c.1, .c, false⟩ (keysFrom k bs.length) bs).mark
      ((bad.filter (fun i => decide (8 * i < bs.length))).map (fun i => wordOf k + i))

/-- A SEND of this rank to itself, as it waits among those that have arrived (R250). -/
def State.ownOffer (s : State) (tag : BitVec 16) : PeerMsg := ⟨s.ownDev, s.lrn, tag, 0, 0, none, [], []⟩

/-- A message matched with the other side of it. -/
def State.matchMsg (s : State) (m : Msg) (p : PeerMsg) : State :=
  { s with msgs := s.msgs.map (fun k => if k.id == m.id then { k with matched := some p } else k) }

/-- What of the SENDs that have arrived a RECV takes, the oldest first, and those that are left (R250). -/
def State.takeArrival (s : State) (m : Msg) : Option PeerMsg × List PeerMsg :=
  match s.arrivals.findIdx? (fun p => s.takesSend m p.dev p.lrn p.tag) with
  | some i => (s.arrivals[i]?, s.arrivals.eraseIdx i)
  | none => (none, s.arrivals)

/-- A message that has started (R250): a RECV takes the oldest SEND that has arrived for it, this rank's own to itself
among them; a SEND of this rank to itself goes to the oldest RECV that takes it, or waits for one.
DEDUCED, log entry 84. -/
def State.postMsg (s : State) (m : Msg) : State :=
  let (got, left) := s.takeArrival m
  let s1 := { s with msgs := s.msgs ++ [{ m with matched := got }], nextId := s.nextId + 1, arrivals := left }
  let own := s.ownOffer m.tag
  if got == some own then
    match s1.msgs.find? (fun k => k.kind == .send && k.matched.isNone && s1.msgSelf k && k.tag == m.tag) with
    | some k => s1.matchMsg k own
    | none => s1
  else if m.kind == .send && s.msgSelf m then
    match s1.msgs.find? (fun r => s1.takesSend r s.ownDev s.lrn m.tag) with
    | some r => (s1.matchMsg m own).matchMsg r own
    | none => { s1 with arrivals := s1.arrivals ++ [own] }
  else s1

/-- SEND, RECV, PUT and GET (R248): its waits, its checks in order, and the message's start; a RECV takes a SEND that
has arrived (R250).
DEDUCED, log entry 85. -/
def messageBody (kind : MsgKind) : Body := fun c e s =>
  let a := e.opA s c
  if decide (16 ≤ s.msgs.length) || ((kind == .send || kind == .put) && s.storing c) || s.readWaits c a.toNat 32 then
    .stay s
  else if a.toNat % 32 != 0 then .trap Cause.misaligned a none
  else if 2 ^ 32 ≤ a.toNat || !s.nearOk a.toNat 32 then .trap Cause.nearBounds a none
  else
    let ks := s.nearKeys a.toNat 32
    if s.poisonedAt ks then e.badDescriptor s c
    else
      let (bs, s1) := s.readKeys ⟨c.1, .s, true⟩ ks
      let d := BitVec.ofNat 256 (natOfBytes bs)
      let la := msgLaddr d
      if la % 8 != 0 then .trap Cause.misaligned (BitVec.ofNat 64 la) none
      else if !s.nearOk la (msgLen d) then .trap Cause.nearBounds (BitVec.ofNat 64 la) none
      else if msgBad kind d then .trap Cause.nearBounds a none
      else
        let m : Msg :=
          { id := s.nextId, kind := kind, c := c, pc := e.pc, dest := e.fdReg, dev := msgDev d, lrn := msgLrn d,
            tag := msgTag d, len := msgLen d, raddr := msgRaddr d, laddr := BitVec.ofNat 32 la,
            deadline := s.wall + s.timeoutCycles, matched := none, cmd := none, tr := e.w.hints.tr,
            inHandler := (s.ctx c).inh, orphan := false }
        let s2 := if kind == .send || kind == .put then s1.offer c (s.nearKeys la m.len) else s1
        .done [] ((s2.postMsg m).modCtx c (·.expect m.tr [m.dest]))

def bodySend : Body := messageBody .send
def bodyRecv : Body := messageBody .recv
def bodyPut : Body := messageBody .put
def bodyGet : Body := messageBody .get

/-! ## Moving data (R249 to R252) -/

/-- Bytes of a near place as a message reads them, with its poisoned words. -/
def State.msgRead (s : State) (c : Nat) (a n : Nat) : (List Byte × List Nat) × State :=
  let ks := s.nearKeys a n
  let bad := (List.range (n / 8)).filter (fun i => s.poisonedAt ((ks.drop (8 * i)).take 8))
  let (bs, s1) := s.readKeys ⟨c, .c, true⟩ ks
  ((bs, bad), s1.portDone ks.head?)

/-- Bytes a message writes to a near place, its poisoned words with them (R251). -/
def State.msgWrite (s : State) (who : Nat) (a : Nat) (bs : List Byte) (bad : List Nat) : State :=
  let ks := s.nearKeys a bs.length
  ((s.writeKeys ⟨who, .c, true⟩ ks bs).portDone ks.head?).mark
    ((bad.filter (fun i => decide (8 * i < bs.length))).map (fun i => wordOf (ks.headD 0) + i))

/-- Bytes of a GET or a RECV in place: every path of its context sees them (R252). -/
def State.msgDeliver (s : State) (m : Msg) (bs : List Byte) (bad : List Nat) : State :=
  (s.msgWrite m.c.1 m.laddr.toNat bs bad).markNew s (·.view (agentsOf m.c.1 allClasses [true]))

/-- A RECV that lands shows its context on path S every earlier PUT of the same sender (R252). -/
def State.sawPuts (s : State) (c : Fin 11) (w : Nat) : State :=
  s.modUnseen (fun u => if u.writer == w && u.near then u.view [⟨c.1, .s, true⟩] else u)

/-- Whether two messages go to one peer. -/
def State.samePeer (s : State) (m k : Msg) : Bool := s.devOf m.dev == s.devOf k.dev && m.lrn == k.lrn

/-- Whether an earlier PUT or SEND to the same peer must be performed before one (R252).
DEDUCED, log entry 31. -/
def State.msgBehind (s : State) (m : Msg) : Bool :=
  (s.msgs.takeWhile (fun k => k.id != m.id)).any (fun k => s.samePeer k m && (k.kind == .put || k.kind == .send))

/-- Whether an earlier SEND to the same peer under the same tag must match before one (R250). -/
def State.tagBehind (s : State) (m : Msg) : Bool :=
  (s.msgs.takeWhile (fun k => k.id != m.id)).any (fun k =>
    s.samePeer k m && k.kind == .send && k.matched.isNone && k.tag == m.tag)

/-- The RECV that a matched SEND of this rank to itself has matched: the oldest of its tag. -/
def State.selfRecv (s : State) (m : Msg) : Option Msg :=
  s.msgs.find? (fun r => r.kind == .recv && r.tag == m.tag
    && (match r.matched with | some p => s.isSelf p.dev p.lrn | none => false))

/-- A message lands with a code and a count of bytes (R251). -/
def State.msgLand (s : State) (m : Msg) (code : BitVec 8) (dev : BitVec 14) (lrn : BitVec 10) (n : Nat) : State :=
  s.landMsg m (statusWord code (s.devOf dev) lrn n)

/-- The code of a transfer that reaches its place: POISONED beats truncated (R250, R251). -/
def transferCode (bad : List Nat) (cut : Bool) : BitVec 8 := if !bad.isEmpty then 4 else if cut then 1 else 0

/-- A SEND of this rank and its RECV here, performed and landed. -/
def State.selfDeliver (s : State) (m r : Msg) : State :=
  let n := min m.len r.len
  let ((bs, bad), s1) := s.msgRead m.c.1 m.laddr.toNat n
  let code := transferCode bad (decide (r.len < m.len))
  ((s1.msgDeliver r bs bad).sawPuts r.c (peerWriter s.ownDev s.lrn)).msgLand m code s.ownDev s.lrn n
    |>.msgLand r code s.ownDev s.lrn n

/-- A peer's side that says nothing: for messages of this rank to itself. -/
def State.selfPeer (s : State) : PeerMsg := ⟨s.ownDev, s.lrn, 0, 0, 0, none, [], []⟩

/-- A peer's SEND arrives (R250): the oldest RECV that takes it matches, else it waits for one. -/
def State.sendArrives (s : State) (p : PeerMsg) : State :=
  match s.msgs.find? (fun m => s.takesSend m p.dev p.lrn p.tag) with
  | some m => s.matchMsg m p
  | none => { s with arrivals := s.arrivals ++ [p] }

/-- MESSAGE_MATCH (R250): a peer's RECV matches the `n`-th outstanding message, a SEND; or, where that is none, a peer's
SEND arrives. -/
def execMessageMatch (n : Nat) (p : PeerMsg) (s : State) : Host.Outcome State Fault Refusal :=
  powered s (
    if s.isSelf p.dev p.lrn || !s.party.bound || !s.mayBeMember p.dev p.lrn then s
    else
      match s.msgs[n]? with
      | some m =>
        if m.kind == .send then
          if m.matched.isNone && p.tag == m.tag && s.devOf p.dev == s.devOf m.dev && p.lrn == m.lrn && !s.tagBehind m then
            s.matchMsg m p
          else s
        else if m.kind == .recv then s.sendArrives p
        else s
      | none => s.sendArrives p)

/-- The code a peer reports for a transfer (R251): bounds at the peer, which every rank of this device has of its party's
packet; no member, or a lost link; a rank of this device cannot be lost. -/
def State.peerCode (s : State) (m : Msg) (p : PeerMsg) : BitVec 8 :=
  if s.msgStranger m then 5
  else if (if s.msgHere m then !s.nearOk m.raddr.toNat m.len else p.code = 3) then 3
  else if !s.msgHere m && (p.code = 5 || p.code = 6) then p.code
  else 0

/-- A PUT or a GET of this rank performed and landed. -/
def State.transferLand (s : State) (m : Msg) (p : PeerMsg) : State :=
  let far := m.raddr.toNat
  let near := m.laddr.toNat
  let self := s.msgSelf m
  let code := if self then (if s.nearOk far m.len then 0 else 3) else s.peerCode m p
  if code ≠ 0 then s.msgLand m code m.dev m.lrn 0
  else if m.kind == .put then
    let ((bs, bad), s1) := s.msgRead m.c.1 near m.len
    let s2 := if self then s1.msgWrite (peerWriter s.ownDev s.lrn) far bs bad else s1.writePeer m.c m.dev m.lrn far bs bad
    s2.msgLand m (transferCode bad false) m.dev m.lrn m.len
  else if self then
    let ((bs, bad), s1) := s.msgRead m.c.1 far m.len
    (s1.msgDeliver m bs bad).msgLand m (transferCode bad false) m.dev m.lrn m.len
  else if p.data.length = m.len then
    (s.msgDeliver m p.data p.poisoned).msgLand m (transferCode p.poisoned false) m.dev m.lrn m.len
  else s

/-- A matched SEND or RECV landed, a SEND's bytes where the peer's RECV places them; a link lost meanwhile leaves it open which bytes are in place (R251). -/
def State.matchedLand (s : State) (m : Msg) (p q : PeerMsg) : State :=
  let lost := !s.isSelf p.dev p.lrn && s.devOf p.dev != s.ownDev && q.code = 6
  if m.kind == .send then
    let n := min m.len p.capacity
    if lost then s.msgLand m 6 m.dev m.lrn 0
    else
      let ((bs, bad), s1) := s.msgRead m.c.1 m.laddr.toNat n
      (match p.raddr with
        | some a => s1.writePeer m.c m.dev m.lrn a.toNat bs bad
        | none => s1).msgLand m (transferCode bad (decide (p.capacity < m.len))) m.dev m.lrn n
  else
    let bs := p.data.take m.len
    let bad := p.poisoned.filter (fun i => decide (8 * i < bs.length))
    if lost then
      let (i, s1) := s.choose 2
      (if i = 0 then s1 else s1.msgDeliver m bs bad).msgLand m 6 p.dev p.lrn 0
    else
      ((s.msgDeliver m bs bad).sawPuts m.c (peerWriter (s.devOf p.dev) p.lrn)).msgLand m
        (transferCode bad (decide (m.len < p.data.length))) p.dev p.lrn bs.length

/-- A peer's own PUT or GET performed at this rank (R249, R252): outside a PUT's or a GET's bounds nothing is
written, and the peer learns of it. -/
def State.peerTransfer (s : State) (p : PeerMsg) : State :=
  match p.raddr with
  | none => s
  | some a =>
    let w := peerWriter (s.devOf p.dev) p.lrn
    let say := fun (s : State) (st : ReplyStatus) (bs : List Byte) =>
      { s with replies := s.replies ++ [⟨w, st, bs⟩] }
    if !s.party.bound || s.isSelf p.dev p.lrn || !s.mayBeMember p.dev p.lrn then s
    else if p.data.isEmpty then
      if !s.nearOk a.toNat p.capacity then say s (.pagePerm 6) []
      else
        let ((bs, bad), s1) := s.msgRead 11 a.toNat p.capacity
        say s1 (if bad.isEmpty then .ok else .poisoned) bs
    else if s.nearOk a.toNat p.data.length then s.msgWrite w a.toNat p.data p.poisoned
    else s

/-- Whether a message's bytes here lie over the narrow port that a transfer holds (R163). -/
def State.msgWaits (s : State) (a : Nat) : Bool := s.portHeld && decide (0x8000000 ≤ a)

/-- MESSAGE_LAND (R249, R251, R252): the `n`-th outstanding message is performed and its status lands; with
no such message, a PUT or a GET of another rank is performed here. -/
def execMessageLand (n : Nat) (p : PeerMsg) (s : State) : Host.Outcome State Fault Refusal :=
  powered s (
    match s.msgs[n]? with
    | none => if s.msgWaits ((p.raddr.map (·.toNat)).getD 0) then s else s.peerTransfer p
    | some m =>
      if s.msgWaits m.laddr.toNat then s
      else
      match m.kind with
      | .mcmd => s
      | .put => if s.msgBehind m then s else s.transferLand m p
      | .get => s.transferLand m p
      | .send | .recv =>
        match m.matched with
        | some q =>
          if s.isSelf q.dev q.lrn then
            if m.kind == .send && !s.msgBehind m then (match s.selfRecv m with | some r => s.selfDeliver m r | none => s)
            else s
          else if m.kind == .send && s.msgBehind m then s
          else s.matchedLand m q p
        | none =>
          if s.msgStranger m || (!s.msgHere m && !m.anyone && p.code = 5) then s.msgLand m 5 m.dev m.lrn 0
          else s)

/-- Whether a message is a SEND or a RECV that has waited too long (R250).
DEDUCED, log entry 83. -/
def State.msgExpired (s : State) (m : Msg) : Bool :=
  (m.kind == .send || m.kind == .recv) && m.matched.isNone && decide (m.deadline ≤ s.wall)

/-- MESSAGE_TIMEOUT (R250): the `n`-th outstanding message, unmatched, lands with code 2, and a SEND of this rank to itself
waits no more; or, counting on from them, a peer's SEND that has arrived times out there. -/
def execMessageTimeout (n : Nat) (s : State) : Host.Outcome State Fault Refusal :=
  powered s (
    match s.msgs[n]? with
    | some m =>
      if s.msgExpired m then
        (if m.kind == .send && s.msgSelf m then { s with arrivals := s.arrivals.erase (s.ownOffer m.tag) } else s).msgLand
          m 2 m.dev m.lrn 0
      else s
    | none =>
      let i := n - s.msgs.length
      if (s.arrivals[i]?).any (fun p => s.isSelf p.dev p.lrn) then s
      else { s with arrivals := s.arrivals.eraseIdx i })

/-- The message event that is due: of this rank's messages to itself or to no member (R249), a match, or a
timeout (R250). -/
def State.dueMessage (s : State) : Option (Host.Outcome State Fault Refusal) :=
  match s.msgs.zipIdx.find? (fun (p : Msg × Nat) =>
      p.1.kind != .mcmd && !s.msgWaits p.1.laddr.toNat && (s.msgStranger p.1
        || (s.msgSelf p.1 && (p.1.kind == .get
          || ((p.1.kind == .put || (p.1.kind == .send && p.1.matched.isSome)) && !s.msgBehind p.1))))) with
  | some p => some (execMessageLand p.2 s.selfPeer s)
  | none => (s.msgs.zipIdx.find? (fun (p : Msg × Nat) => s.msgExpired p.1)).map (fun p => execMessageTimeout p.2 s)

/-! ## The meanings -/

/-- SEND (R248, R249). -/
def execSend (w : Fields) (s : State) : Host.Outcome State Fault Refusal :=
  issue .send w bodySend s

/-- RECV (R248, R249). -/
def execRecv (w : Fields) (s : State) : Host.Outcome State Fault Refusal :=
  issue .recv w bodyRecv s

/-- PUT (R248, R249). -/
def execPut (w : Fields) (s : State) : Host.Outcome State Fault Refusal :=
  issue .put w bodyPut s

/-- GET (R248, R249). -/
def execGet (w : Fields) (s : State) : Host.Outcome State Fault Refusal :=
  issue .get w bodyGet s

end Sys2Proof.Machine
end

