-- ==== Sys2Proof/Machine/Collective.lean ====
section
/-! DEFINITION. Collective steps and barriers (R244, R253 to R274): COLL, BAR and BARC, and how a step goes
on at this member. -/

namespace Sys2Proof.Machine

/-! ## Accesses of a context by class (R19, R206, R272) -/

/-- Whether a copy or a fill has a base word on the row area (R214). -/
def rowBased (r : RunSlot) (b : BitVec 512) : Bool :=
  let (src, dst) := stopEnds b 0
  (src.toList ++ [dst]).any (fun p => (r.bases.getD p.1 0).getLsbD 62)

/-- Whether a stop of a run whose context is `c` has accesses on a class (R19). -/
def State.stopUses (s : State) (c : Fin 11) (run : Fin 4) (stop : BitVec 10) (k : PathClass) : Bool :=
  let b := s.graph.stop stop.toNat
  (s.run run).c == c
    && (match stopKind b with
        | 0 | 1 => k == .g || (k == .r && rowBased (s.run run) b)
        | 2 => k == .m
        | 3 => k == .w
        | 4 | 5 | 6 => k == .c
        | _ => false)

/-- Whether a stop in progress of a context's runs has its accesses on a class. -/
def State.stopOnClass (s : State) (c : Fin 11) (p : StopRun) (k : PathClass) : Bool :=
  s.stopUses c p.run p.stop k

/-- Whether every access of a class that a context has issued is complete, with those of the engines and
stops its instructions started (R206). -/
def State.quietOn (s : State) (c : Fin 11) (k : PathClass) : Bool :=
  s.graph.inProgress.all (fun p => !s.stopOnClass c p k)
    && s.graph.launchQueue.all (fun q => !s.stopUses c q.1 q.2 k)
    && (match k with
        | .s => s.flights.all (fun f => f.c != c || f.lost
            || (match f.kind with | .status _ => true | .abread _ _ _ _ _ _ => true | _ => false))
        | .r => (s.rows.queue ++ s.rows.running).all (fun r => match r.owner with | .ctx d _ => d != c | _ => true)
        | .m => s.matrix.queue.all (fun q => !q.owner.isOf c)
            && s.flights.all (fun f => f.c != c || (match f.kind with | .abread _ _ _ _ _ _ => false | _ => true))
        | .w => s.matrix.planeQueue.all (fun q => !q.owner.isOf c)
        | .g => s.graph.streams.all (fun b => b.c != c || s.streamQuiet b)
        | .c => s.msgs.all (fun m => m.c != c)
            && allRuns.all (fun r => (s.run r).c != c || (s.run r).coll.isNone || (s.run r).state != 1)
        | .o => true)


/-! ## Teams (R244) -/

/-- P, the member count of a scope's team. -/
def State.teamSize (s : State) (scope : Bool) : Nat :=
  max 1 s.party.size * (if scope then max 1 s.gsize else 1)

/-- This rank's member number. -/
def State.teamMember (s : State) (scope : Bool) : Nat :=
  if scope then s.party.member.toNat else s.party.member.toNat - s.gpos.toNat * s.party.size

/-! ## The descriptor (R254, R255) -/

def collSrc (d : BitVec 512) : Nat := (d.extractLsb' 0 32).toNat
def collDst (d : BitVec 512) : Nat := (d.extractLsb' 32 32).toNat
def collCount (d : BitVec 512) : Nat := (d.extractLsb' 64 32).toNat
def collRoot (d : BitVec 512) : Nat := (d.extractLsb' 96 23).toNat
def collScope (d : BitVec 512) : Bool := d.getLsbD 127
def collDist (d : BitVec 512) : Int := (d.extractLsb' 128 24).toInt
def collCnts (d : BitVec 512) : Nat := (d.extractLsb' 192 32).toNat
def collRcnts (d : BitVec 512) : Nat := (d.extractLsb' 224 32).toNat

/-- Steps of an operation: AR has two. -/
def collSteps (op : Nat) : Nat := if op = 4 then 2 else 1

/-- Whether an operation reduces. -/
def collReduces (op : Nat) : Bool := op == 3 || op == 4 || op == 5

/-- Elements of SRC and of DST; an A2A's source is as long as its counts say. -/
def collSizes (op n p sum : Nat) : Nat × Nat :=
  match op with
  | 1 => (p * n, p * n)
  | 2 => (sum, n)
  | 5 => (p * n, n)
  | 6 => (n, p * n)
  | _ => (n, n)

/-- Whether a member's source is read, and its destination written (R255). -/
def collUses (op m root : Nat) : Bool × Bool := (!(op == 7 && m != root), !(op == 3 && m != root))

/-- What a member's COLL names: the operation, the team and this member's buffers in bytes, empty where it
does not use one. -/
structure CollPlan where
  p : Nat
  m : Nat
  e : Nat
  src : Nat × Nat
  dst : Nat × Nat
  deriving DecidableEq, Repr

def State.collPlan (s : State) (op : Nat) (ty : Ty) (d : BitVec 512) (counts : List Nat) : CollPlan :=
  let p := s.teamSize (collScope d)
  let m := s.teamMember (collScope d)
  let (ss, ds) := collSizes op (collCount d) p counts.sum
  let (us, ud) := collUses op m (collRoot d)
  { p := p, m := m, e := ty.bytes, src := (collSrc d, if us then ss * ty.bytes else 0),
    dst := (collDst d, if ud then ds * ty.bytes else 0) }

/-- Reason 1 of R256. -/
def collMalformed (op : Nat) (d : BitVec 512) : Bool :=
  d.extractLsb' 256 256 != 0 || d.extractLsb' 152 40 != 0 || d.extractLsb' 119 8 != 0
    || (op != 2 && (collCnts d != 0 || collRcnts d != 0)) || (op != 0 && collDist d != 0)
    || (op != 3 && op != 7 && collRoot d != 0)

/-- Reason 2 of R256. -/
def State.collTooLarge (s : State) (op : Nat) (ty : Ty) (d : BitVec 512) : Bool :=
  let p := s.teamSize (collScope d)
  let (ss, ds) := collSizes op (collCount d) p 0
  collCount d == 0 || decide (2 ^ 32 < max ss ds * ty.bytes) || decide (p ≤ collRoot d)

/-- Whether a buffer breaks reason 3 of R256. -/
def State.bufferBad (s : State) (b : Nat × Nat) (align : Nat) : Bool :=
  b.2 != 0 && (b.1 % align != 0 || !s.nearOk b.1 b.2)

/-- Reason 4 of R256: the buffers overlap and are not identical, or are identical under A2A. -/
def buffersClash (op : Nat) (a b : Nat × Nat) : Bool :=
  a.2 != 0 && b.2 != 0 && decide (a.1 < b.1 + b.2) && decide (b.1 < a.1 + a.2) && (a != b || op == 2)

/-! ## A scope's sequence (R258) -/

def scopeIx (b : Bool) : Nat := if b then 1 else 0
def State.scope (s : State) (b : Bool) : Scope := s.scopes.toList.getD (scopeIx b) ⟨[], [], none⟩
def State.modScope (s : State) (b : Bool) (f : Scope → Scope) : State :=
  { s with scopes := setAt s.scopes (scopeIx b) (f (s.scope b)) }

/-- A step or a barrier that has passed its issue conditions. -/
def StepRun.fresh (kind : StepKind) : StepRun :=
  { kind := kind, entered := false, inside := false, deadline := 0, sample := [], others := [], done := [],
    failed := none, srcFree := false, localReady := false, ownSrc := [], ownPoison := [], since := 0, wrote := [] }

/-- Entries split into the first of each member and the rest. -/
def firstEntries : List MemberEntry → List MemberEntry → List MemberEntry × List MemberEntry
  | [], taken => (taken, [])
  | x :: xs, taken =>
    if taken.any (fun y => y.member == x.member) then
      let (t, r) := firstEntries xs taken
      (t, x :: r)
    else firstEntries xs (taken ++ [x])

/-- Whether a step is an AR's second. -/
def StepKind.second (k : StepKind) : Bool := match k with | .coll _ (_ + 1) => true | _ => false

/-- A step joins its scope's sequence, with the entries other members have made to it already; the members enter an
AR's second step by news of their own (R258). -/
def Scope.join (q : Scope) (kind : StepKind) : Scope :=
  let (taken, left) := if kind.second then ([], q.early) else firstEntries q.early []
  { queue := q.queue ++ [{ StepRun.fresh kind with
      others := taken
      failed := q.earlyFail }],
    early := left, earlyFail := none }

/-- What members of a step must agree on, packed into two words: the kind, OP, TY, MODE, EXPC, ROP and ROOT,
then COUNT, DIST and SCOPE; or the barrier's kind. -/
def State.stepKeyOf (s : State) (k : StepKind) : Word × Word :=
  match k with
  | .bar _ => (1, 0)
  | .barc _ _ _ => (2, 0)
  | .coll run _ =>
    match (s.run run).coll with
    | none => (0, 0)
    | some r =>
      (BitVec.ofNat 64 (3 + r.op * 2 ^ 4 + r.ty.code.toNat * 2 ^ 8 + r.mode * 2 ^ 12 + (if r.expc then 1 else 0) * 2 ^ 14
          + r.rop * 2 ^ 16 + collRoot r.desc * 2 ^ 32),
        wordField 0 (collCount r.desc) ||| wordField 32 (r.desc.extractLsb' 128 24).toNat
          ||| wordField 63 (if collScope r.desc then 1 else 0))

/-! ## COLL (R253 to R256) -/

/-- Records of words at keys that a context sees released under a key (R260). -/
def State.releaseUnder (s : State) (c : Fin 11) (keys : List Nat) (k : Nat) : State :=
  if s.unseen.isEmpty then s
  else
    let ws := (keys.map wordOf).eraseDups
    { s with unseen := s.unseen.map (fun (u : Unseen) =>
        if ws.contains u.key && (u.visibleTo ⟨c.1, .s, false⟩ || u.visibleTo ⟨c.1, .s, true⟩) then
          { u with pubs := u.pubs ++ [k] }
        else u) }

/-- Bytes of a buffer as keys. -/
def State.bufferKeys (s : State) (b : Nat × Nat) : List Nat := if b.2 = 0 then [] else s.nearKeys b.1 b.2

/-- The descriptor's fields of an instruction (R253). -/
def Entry.collOp (e : Entry) : Nat := (e.w.os.extractLsb' 5 3).toNat

/-- A COLL that has passed its checks takes a slot and joins its scope's sequence (R256). -/
def Entry.collStart (e : Entry) (s : State) (c : Fin 11) (slot : Fin 4) (d : BitVec 512) (counts : List Nat) : Act :=
  let op := e.collOp
  let plan := s.collPlan op e.w.ty d counts
  let r : CollRun :=
    { pc := e.pc, op := op, ty := e.w.ty, mode := (e.w.os.extractLsb' 3 2).toNat, expc := e.w.os.getLsbD 2,
      rop := (e.w.os.extractLsb' 0 2).toNat, desc := d, counts := counts, blocks := [], team := [] }
  let regions := s.bufferKeys plan.src ++ s.bufferKeys plan.dst
    ++ (if op = 2 then s.nearKeys (collCnts d) (4 * plan.p) ++ s.nearKeys (collRcnts d) (4 * plan.p) else [])
  let s1 := (s.offer c regions).releaseUnder c regions (collKey slot)
  let s2 := s1.modRun slot (fun _ =>
    { RunSlot.blank with
      state := 1
      c := c
      coll := some r })
  let s3 := (List.range (collSteps op)).foldl (fun (s : State) k =>
    s.modScope (collScope d) (·.join (.coll slot k))) s2
  .done (e.toFd (BitVec.ofNat 64 slot.1)) s3

def bodyColl : Body := fun c e s =>
  let a := e.opA s c
  let op := e.collOp
  let fail := fun (r : Nat) => Act.trap Cause.stepFailed (reasonInfo r (a &&& 0xFFFFFFFF)) none
  match s.freeSlot with
  | none => .stay s
  | some slot =>
    if !s.quietOn c .s then .stay s
    else if a.toNat % 64 != 0 then fail 1
    else if 2 ^ 32 ≤ a.toNat || !s.nearOk a.toNat 64 then .trap Cause.nearBounds a none
    else
      let ks := s.nearKeys a.toNat 64
      if s.poisonedAt ks then e.badDescriptor s c
      else
        let (bs, s1) := s.readKeys ⟨c.1, .s, true⟩ ks
        let d := BitVec.ofNat 512 (natOfBytes bs)
        let p := s.teamSize (collScope d)
        if collMalformed op d then fail 1
        else if s.collTooLarge op e.w.ty d then fail 2
        else if op = 2 && (s.bufferBad (collCnts d, 4 * p) 4 || s.bufferBad (collRcnts d, 4 * p) 4) then fail 3
        else
          let cks := if op = 2 then s.nearKeys (collCnts d) (4 * p) else []
          if s.poisonedAt cks then e.badDescriptor s c
          else
            let (cb, s2) := s1.readKeys ⟨c.1, .s, true⟩ cks
            let counts := elemsOf 4 cb
            let plan := s.collPlan op e.w.ty d counts
            if s.bufferBad plan.src plan.e || s.bufferBad plan.dst plan.e then fail 3
            else if buffersClash op plan.src plan.dst then fail 4
            else e.collStart s2 c slot d counts

/-! ## BAR and BARC (R271 to R274) -/

/-- The key that marks what a barrier of a context publishes of other members' writes (R272). -/
def barKey (c : Fin 11) : Nat := 2 ^ 250 + 32 + c.1

/-- What a context's barrier publishes at entry: every write it sees, on any path and through either name (R204,
R272). -/
def State.barrierRelease (s : State) (c : Fin 11) : State :=
  if s.unseen.isEmpty then s
  else { s with unseen := s.unseen.map (fun (u : Unseen) =>
    if u.views.any (fun r => r.who == c.1) then { u with pubs := u.pubs ++ [barKey c] }
    else u) }

/-- What a barrier's completion shows its context: every write its member contexts saw at entry, on any path
and through either name (R205, R272). -/
def State.barrierSeen (s : State) (c : Fin 11) : State :=
  s.modUnseen (fun u =>
    if u.writer == 11 || u.pubs.contains (barKey c) then u.view (agentsOf c.1 allClasses [false, true]) else u)

/-- A context at a barrier: it waits for its accesses, joins its scope's sequence, and completes with the
status word when the step has ended (R272, R273). -/
def Entry.barrier (e : Entry) (s : State) (c : Fin 11) (kind : StepKind) : Act :=
  match (s.ctx c).barWait with
  | some v =>
    if v = 0 then .stay s
    else
      let status : Word := if v = 1 then 0 else wordField 63 1 ||| wordField 0 (v.toNat - 16)
      .done (e.toFd status) ((s.barrierSeen c).modCtx c (fun x => { x with barWait := none }))
  | none =>
    if allClasses.all (s.quietOn c) then
      .stay (((s.barrierRelease c).modScope (e.w.os.getLsbD 1) (·.join kind)).modCtx c
        (fun x => { x with barWait := some 0 }))
    else .stay s

def bodyBar : Body := fun c e s => e.barrier s c (.bar (some c))

def bodyBarc : Body := fun c e s =>
  let a := e.opA s c
  if a.toNat % 64 != 0 then .trap Cause.misaligned a none
  else if 2 ^ 32 ≤ a.toNat || !s.nearOk a.toNat 64 then .trap Cause.nearBounds a none
  else e.barrier s c (.barc (some c) (a.setWidth 32) (e.w.os.getLsbD 0))

/-! ## A step at this member (R257 to R260, R267 to R269) -/

/-- The `i`-th step of a scope's sequence replaced. -/
def State.putStep (s : State) (b : Bool) (i : Nat) (r : StepRun) : State :=
  s.modScope b (fun q => { q with queue := setNth i r q.queue })

/-- The `i`-th step of a scope's sequence. -/
def State.stepAt (s : State) (b : Bool) (i : Nat) : Option StepRun := (s.scope b).queue[i]?

/-- Event bits of a run set (R257). -/
def State.raiseEvents (s : State) (run : Fin 4) (mask : Nat) : State :=
  (s.modRun run (fun r => { r with events := r.events ||| BitVec.ofNat 16 mask })).wakeRun run

/-- The destination of a failed COLL poisoned, with the received counts of an A2A (R269). -/
def State.poisonDst (s : State) (c : Fin 11) (r : CollRun) : State :=
  let plan := s.collPlan r.op r.ty r.desc r.counts
  let ks := s.bufferKeys plan.dst ++ (if r.op = 2 then s.nearKeys (collRcnts r.desc) (4 * plan.p) else [])
  s.poisonKeys ⟨c.1, .c, true⟩ ks

/-- A step left: requests held at the gate are admitted, unless this rank is inside another (R136, R277). -/
def State.admitAtExit (s : State) : State := s.exitStep.openGate

/-- A barrier's outcome reaches its context, if it still waits. -/
def State.endBarrier (s : State) (c : Option (Fin 11)) (v : BitVec 6) : State :=
  match c with
  | some c => s.modCtx c (fun x => { x with barWait := some v }.wake)
  | none => s

/-- Whether a step of the sequence is one of a run. -/
def StepRun.isOf (r : StepRun) (run : Fin 4) : Bool := match r.kind with | .coll k _ => k == run | _ => false

/-- The `i`-th step of a scope's sequence fails with a cause, and a COLL's other steps with it (R267 to R269,
R273). -/
def State.failStep (s : State) (b : Bool) (i : Nat) (cause : BitVec 4) : State :=
  match s.stepAt b i with
  | none => s
  | some r =>
    match r.kind with
    | .coll run step =>
      let s1 := match (s.run run).coll with
        | some cr =>
          let n := collSteps cr.op
          ((s.poisonDst (s.run run).c cr).modRun run (fun x =>
            { x with failed := true, fstop := cause.toNat, ended := n })).raiseEvents run (2 ^ (3 * n) - 2 ^ (3 * step))
        | none => s
      ((s1.modScope b (fun q => { q with queue := q.queue.filter (fun k => !k.isOf run) })).runDone run).admitAtExit
    | .bar c | .barc c _ _ =>
      ((s.modScope b (fun q => { q with queue := q.queue.eraseIdx i })).endBarrier c (16 + cause.setWidth 6)).admitAtExit

/-- The next step of a sequence that this rank is to enter: the first not entered, an AR's second once its first
is left (R258).
DEDUCED, log entry 86. -/
def State.nextEntry (s : State) (b : Bool) : Option (Nat × StepRun) :=
  let q := (s.scope b).queue
  (q.zipIdx.find? (fun (p : StepRun × Nat) => !p.1.entered
    && (match p.1.kind with
        | .coll run (_ + 1) => !q.any (fun k => k.isOf run && k.entered && k.inside)
        | _ => true))).map (fun p => (p.2, p.1))

/-- This rank enters the `i`-th step of a sequence (R258, R205, R274). -/
def State.enterStep (s : State) (b : Bool) (i : Nat) (r : StepRun) : State :=
  let r1 := { r with
    entered := true
    inside := true
    since := s.nextOp
    deadline := s.wall + s.timeoutCycles
    sample := match r.kind with | .barc _ _ _ => s.counters.toList | _ => [] }
  let s1 := match r.kind with
    | .barc _ _ true => { s with counters := Vector.replicate 8 0 }
    | .coll run _ =>
      { s with unseen := s.unseen.map (fun (u : Unseen) =>
          if u.writer == 11 then { u with pubs := u.pubs ++ [gateKey run] } else u) }
    | _ => s
  let s2 := s1.enterGate.putStep b i r1
  let key := s.stepKeyOf r.kind
  match r.failed <|> (if r.others.any (fun x => x.key != key) then some 4 else none) with
  | some cause => s2.failStep b i cause
  | none => s2

/-- STEP_ENTRY (R136, R258): the next step of a scope's sequence is entered once no admitted request is in
progress. -/
def execStepEntry (scope : Bool) (s : State) : Host.Outcome State Fault Refusal :=
  powered s (
    match s.nextEntry scope with
    | none => s
    | some (i, r) => if s.admittedBusy then s else s.enterStep scope i r)

/-- A member's source elements with the poisoned ones, and its counts, this rank's own among them. -/
def StepRun.member (r : StepRun) (cr : CollRun) (own i : Nat) : (List Nat × List Nat) × List Nat :=
  let e := cr.ty.bytes
  if i = own then ((elemsOf e r.ownSrc, r.ownPoison), cr.counts)
  else
    match r.others.find? (fun x => x.member == i) with
    | some x => ((elemsOf e x.src, x.poisoned), x.counts)
    | none => (([], []), [])

/-- Where each element of a member's destination that a step does not reduce comes from: its index, and the member
and the index there (R255). -/
def stepRefs (op n p dst : Nat) (root : Nat) (dist : Int) (counts : List (List Nat)) :
    List (Nat × Nat × Nat) :=
  match op with
  | 0 => (List.range n).map (fun k => (k, (((dst : Int) - dist) % (p : Int)).toNat, k))
  | 1 => (List.range (p * n)).map (fun j => (j, j / n, dst * n + j % n))
  | 2 =>
    let parts := (List.range p).flatMap (fun i =>
      let row := counts.getD i []
      (List.range (row.getD dst 0)).map (fun k => (i, (row.take dst).sum + k)))
    parts.zipIdx.map (fun (x : (Nat × Nat) × Nat) => (x.2, x.1.1, x.1.2))
  | 6 => (List.range (p * n)).map (fun j => (j, j / n, j % n))
  | _ => (List.range n).map (fun k => (k, root, k))

/-- Every element of a reduction with whether it is poisoned (R255, R259 to R262, R267): of the members' sources,
or, once an AR has them, as every member receives them (R469). -/
def State.stepBlocks (s : State) (cr : CollRun) (r : StepRun) (plan : CollPlan) : List (Nat × Bool) × State :=
  if !cr.blocks.isEmpty then (cr.blocks, s)
  else
    let n := collCount cr.desc
    let src := (List.range plan.p).map (fun i => r.member cr plan.m i)
    let len := if cr.op = 5 then plan.p * n else n
    let cols := (List.range len).map (fun j => src.map (fun x => x.1.1.getD j 0))
    let (vs, s1) := s.reduceAll cr.ty cr.mode cr.rop plan.p cols
    (vs.zipIdx.map (fun (v : Nat × Nat) => (v.1, src.any (fun x => x.1.2.contains v.2))), s1)

/-- The elements a step leaves in a member's destination: index, code and whether it is poisoned (R255,
R259 to R262, R267).
DEDUCED, log entry 36. -/
def State.stepResult (s : State) (cr : CollRun) (step : Nat) (r : StepRun) (plan : CollPlan) (dst : Nat) :
    List (Nat × Nat × Bool) × State :=
  let n := collCount cr.desc
  if collReduces cr.op then
    let (xs, s1) := s.stepBlocks cr r plan
    let blk := (n + plan.p - 1) / plan.p
    let mine := (List.range xs.length).filter (fun j => match cr.op with
      | 4 => (j / blk == dst) == (step == 0)
      | 5 => j / n == dst
      | _ => true)
    (mine.map (fun j => ((if cr.op = 5 then j % n else j), xs.getD j (0, false))), s1)
  else
    let src := (List.range plan.p).map (fun i => r.member cr plan.m i)
    ((stepRefs cr.op n plan.p dst (collRoot cr.desc) (collDist cr.desc) (src.map (·.2))).map (fun x =>
      let m := (src.getD x.2.1 (([], []), [])).1
      (x.1, m.1.getD x.2.2 0, m.2.contains x.2.2)), s)

/-- The words written since a step was entered (R260). -/
def State.writtenIn (s : State) (r : StepRun) : List Nat :=
  r.wrote.map (fun w => w + siteKey s.party.site 0 / 8)
    ++ (s.unseen.takeWhile (fun u => decide (r.since ≤ u.op))).map (·.key)

/-- Words of a list that keep what was written to them while this member was inside the step (R260). -/
def State.keepSome (s : State) (r : StepRun) (ws : List Nat) : List Nat × State :=
  (ws.filter (s.writtenIn r).contains).foldl (fun (p : List Nat × State) w =>
    let (i, s1) := p.2.choose 2
    (if i = 0 then p.1 else w :: p.1, s1)) ([], s)

/-- Writes the step makes to this member's destination, with the received counts of an A2A; a word written while
this member was inside may keep what was written (R260). -/
def State.writeStep (s : State) (run : Fin 4) (step : Nat) (cr : CollRun) (r : StepRun) : State :=
  let c := (s.run run).c
  let plan := s.collPlan cr.op cr.ty cr.desc cr.counts
  let word := fun (k : Nat) => wordOf ((s.nearKeys (plan.dst.1 + plan.e * k) plan.e).headD 0)
  let (all, s0) := s.stepResult cr step r plan plan.m
  let (kept, s1) := s0.keepSome r (all.map (fun x => word x.1)).eraseDups
  let xs := all.filter (fun x => !kept.contains (word x.1))
  let w := fun (s : State) (ks : List Nat) (bs : List Byte) =>
    ((s.writeAs (run, step) ⟨c.1, .c, true⟩ ks bs).markNew s (fun u =>
      { u with pubs := u.pubs ++ [stepKey] })).portDone ks.head?
  let keyOf := fun (k : Nat) => s.nearKeys (plan.dst.1 + plan.e * k) plan.e
  let s2 := w s1 (xs.flatMap (fun x => keyOf x.1)) (xs.flatMap (fun x => bytesOfNat plan.e x.2.1))
  let s3 := s2.mark ((xs.filter (fun x => x.2.2)).map (fun x => wordOf ((keyOf x.1).headD 0)))
  if cr.op = 2 then
    w s3 (s.nearKeys (collRcnts cr.desc) (4 * plan.p))
      ((List.range plan.p).flatMap (fun i => bytesOfNat 4 ((r.member cr plan.m i).2.getD plan.m 0)))
  else s3

/-- How a step fails before it moves anything: poison where it may not travel, or an A2A that overflows
(R255, R267). -/
def stepCause (cr : CollRun) (step : Nat) (r : StepRun) (plan : CollPlan) : Option (BitVec 4) :=
  let ms := (List.range plan.p).map (fun i => r.member cr plan.m i)
  if collReduces cr.op && step = 0 && (cr.mode = 2 || cr.rop ≠ 0) && ms.any (fun x => !x.1.2.isEmpty) then some 1
  else if cr.op = 2 && (List.range plan.p).any (fun b =>
      decide (collCount cr.desc < (ms.map (fun x => x.2.getD b 0)).sum)) then some 5
  else none

/-- This member leaves a step: requests held at the gate are admitted (R136, R259). -/
def State.leave (s : State) (b : Bool) (i : Nat) (r : StepRun) : State :=
  (s.putStep b i { r with inside := false }).admitAtExit

/-- SRC_FREE (R257): the step has read the member's source. -/
def State.stepSrcFree (s : State) (b : Bool) (i : Nat) (r : StepRun) (run : Fin 4) (step : Nat) (cr : CollRun) :
    State :=
  let c := (s.run run).c
  let plan := s.collPlan cr.op cr.ty cr.desc cr.counts
  let ks := if step = 0 then s.bufferKeys plan.src else []
  let bad := (List.range (plan.src.2 / plan.e)).filter (fun k => s.poisonedAt ((ks.drop (plan.e * k)).take plan.e))
  let (bs, s1) := (s.portDone ks.head?).readKeys ⟨c.1, .c, true⟩ ks
  let r1 := { r with
    srcFree := true
    ownSrc := bs
    ownPoison := bad }
  match stepCause cr step r1 plan with
  | some cause => s1.failStep b i cause
  | none =>
    if plan.dst.2 = 0 then
      (s1.raiseEvents run (3 * 2 ^ (3 * step))).leave b i { r1 with localReady := true }
    else (s1.putStep b i r1).raiseEvents run (2 ^ (3 * step))

/-- A COLL as its step has it: an AR's first step reduces every block once, for every member (R255, R469). -/
def State.jointRun (s : State) (r : StepRun) (run : Fin 4) (step : Nat) (cr : CollRun) : CollRun × State :=
  if cr.op = 4 && step = 0 then
    let (xs, s1) := s.stepBlocks cr r (s.collPlan cr.op cr.ty cr.desc cr.counts)
    let cr1 := { cr with
      blocks := xs
      team := r.others }
    (cr1, s1.modRun run (fun x => { x with coll := some cr1 }))
  else (cr, s)

/-- LOCAL_READY (R257): the member's destination holds the step's result; AR's first step leaves every block to its
second (R255). -/
def State.stepLocalReady (s : State) (b : Bool) (i : Nat) (r : StepRun) (run : Fin 4) (step : Nat) (cr : CollRun) :
    State :=
  let (cr1, s1) := s.jointRun r run step cr
  ((s1.writeStep run step cr1 r).raiseEvents run (2 * 2 ^ (3 * step))).leave b i { r with localReady := true }

/-- The counters of every member added, as BARC's record (R274). -/
def barcRecord (r : StepRun) : List Byte :=
  (List.range 8).flatMap (fun n =>
    bytesOfNat 8 ((r.sample.getD n 0).toNat + (r.others.map (fun x => (x.counters.getD n 0).toNat)).sum))

/-- The LRN of a member that is a rank of this device (R244). -/
def State.memberLrn (s : State) (b : Bool) (m : Nat) : Option (BitVec 10) :=
  let i := if b then m - s.gpos.toNat * s.party.size else m
  if b && decide (m < s.gpos.toNat * s.party.size) then none
  else (s.party.lrns.find? (fun p =>
    (s.party.lrns.filter (fun q => decide (q.1.toNat < p.1.toNat))).length == i)).map (·.1)

/-- The device and LRN of a member, on this device or on another of the group (R244). -/
def State.memberRank (s : State) (b : Bool) (x : MemberEntry) : BitVec 14 × BitVec 10 :=
  match s.memberLrn b x.member with
  | some l => (s.ownDev, l)
  | none => (BitVec.ofNat 14 (x.member / max 1 s.party.size), x.lrn)

/-- Whether a record is a write of another member that a step's end publishes here (R260, R272): made before that
member's entry, or by the step; of a COLL, in the member's regions. -/
def State.fromMember (s : State) (b : Bool) (r : StepRun) (u : Unseen) : Bool :=
  r.others.any (fun x =>
    let (d, l) := s.memberRank b x
    u.writer == peerWriter d l
      && (match r.kind with
          | .coll _ _ => (decide (u.op < x.since) || u.cls == .c)
              && x.regions.any (fun k => decide (k.1.toNat / 8 ≤ u.key % (2 ^ 28 / 8))
                  && decide (8 * (u.key % (2 ^ 28 / 8)) < k.1.toNat + k.2))
          | _ => decide (u.op < x.since)))

/-- What a step's end publishes of other members' writes, to be seen under a key (R260, R272). -/
def State.publishMembers (s : State) (b : Bool) (r : StepRun) (k : Nat) : State :=
  if s.unseen.isEmpty then s
  else { s with unseen := s.unseen.map (fun (u : Unseen) =>
    if s.fromMember b r u then { u with pubs := u.pubs ++ [k] } else u) }

/-- ALL_DONE (R257, R258, R273, R274): the step ends, and with its last step the run. -/
def State.stepAllDone (s : State) (b : Bool) (i : Nat) (r : StepRun) : State :=
  let s1 := (match r.kind with
    | .coll run _ => s.publishMembers b r (collKey run)
    | .bar c | .barc c _ _ => match c with | some c => s.publishMembers b r (barKey c) | none => s).modScope b
      (fun q => { q with queue := q.queue.eraseIdx i })
  match r.kind with
  | .coll run step =>
    let s2 := (s1.modRun run (fun x => { x with ended := x.ended + 1 })).raiseEvents run (4 * 2 ^ (3 * step))
    match (s.run run).coll with
    | some cr => if step + 1 = collSteps cr.op then s2.runDone run else s2
    | none => s2
  | .bar c => (s1.endBarrier c 1).admitAtExit
  | .barc c a _ =>
    ((s1.writeKeys ⟨(c.map (·.1)).getD 11, .c, true⟩ (s.nearKeys a.toNat 64) (barcRecord r)).endBarrier c 1).admitAtExit

/-- Whether every other member has entered a step. -/
def State.allEntered (s : State) (b : Bool) (r : StepRun) : Bool :=
  r.entered && r.others.length + 1 == s.teamSize b

/-- Whether a step can end here (R257, R272). -/
def State.canEnd (s : State) (b : Bool) (r : StepRun) : Bool :=
  s.allEntered b r
    && (match r.kind with
        | .coll _ _ => r.localReady && r.done.length + 1 == s.teamSize b
        | _ => true)

/-- Whether a step's buffers lie over the narrow port that a transfer holds (R163). -/
def State.stepHeld (s : State) (run : Fin 4) : Bool :=
  s.portHeld && (match (s.run run).coll with
    | some cr =>
      let plan := s.collPlan cr.op cr.ty cr.desc cr.counts
      (s.bufferKeys plan.src ++ s.bufferKeys plan.dst).any s.ownPort
    | none => false)

/-- What a step can do next at this member (R257). -/
def State.stepNext (s : State) (b : Bool) (r : StepRun) : Option StepNews :=
  if s.canEnd b r then some .allDone
  else
    match r.kind with
    | .coll run _ =>
      if !s.allEntered b r || s.stepHeld run then none
      else if !r.srcFree then some .srcFree
      else if !r.localReady then some .localReady
      else none
    | _ => none

/-- The member's own next event of the `i`-th step of a sequence. -/
def State.ownProgress (s : State) (b : Bool) (i : Nat) (r : StepRun) (news : StepNews) : State :=
  if s.stepNext b r != some news then s
  else
    match r.kind, news with
    | .coll run step, .srcFree =>
      match (s.run run).coll with
      | some cr => s.stepSrcFree b i r run step cr
      | none => s
    | .coll run step, .localReady =>
      match (s.run run).coll with
      | some cr => s.stepLocalReady b i r run step cr
      | none => s
    | _, .allDone => s.stepAllDone b i r
    | _, _ => s

/-- Whether a step is an AR's second. -/
def StepRun.second (r : StepRun) : Bool := r.kind.second

/-- Another member's entry to an AR's second step, once it has entered the first (R258). -/
def State.memberAgain (s : State) (b : Bool) (m : Nat) : State :=
  let lacks := fun (r : StepRun) => !r.others.any (fun y => y.member == m)
  match (s.scope b).queue.zipIdx.find? (fun (p : StepRun × Nat) => p.1.second && lacks p.1) with
  | none => s
  | some (r, i) =>
    let first := (s.scope b).queue.any (fun k => !k.second && lacks k
      && (match r.kind with | .coll run _ => k.isOf run | _ => false))
    if first then s
    else s.putStep b i { r with
      others := r.others ++ [⟨m, (s.memberLrn b m).getD 0, s.stepKeyOf r.kind, [], [], [], [], [], s.nextOp⟩] }

/-- Another member's entry: to the first entry of the sequence that lacks it, or to one still to come. -/
def State.memberEntered (s : State) (b : Bool) (x : MemberEntry) : State :=
  let q := s.scope b
  match q.queue.findIdx? (fun r => !r.second && !r.others.any (fun y => y.member == x.member)) with
  | none => s.modScope b (fun q => { q with early := q.early ++ [x] })
  | some i =>
    let r := q.queue.getD i (StepRun.fresh (.bar none))
    let differs := x.key != s.stepKeyOf r.kind
    let r1 := { r with
      others := r.others ++ [x]
      failed := if differs then r.failed <|> some 4 else r.failed }
    let s1 := s.modScope b (fun q => { q with queue := setNth i r1 q.queue })
    if differs && r.entered then s1.failStep b i 4 else s1

/-- A failure of a step that another member meets (R267, R268). -/
def State.memberFailed (s : State) (b : Bool) (i : Nat) (cause : BitVec 4) : State :=
  match s.stepAt b i with
  | none => s.modScope b (fun q => { q with earlyFail := q.earlyFail <|> some cause })
  | some r =>
    if r.entered then s.failStep b i cause else s.putStep b i { r with failed := r.failed <|> some cause }

/-- What another rank of the team has written to its own memory (R260, R272). -/
def State.memberWrote (s : State) (dev : BitVec 14) (lrn : BitVec 10) (off : BitVec 28) (data : List Byte) : State :=
  match s.rankKey dev lrn off.toNat with
  | some k =>
    if s.isSelf dev lrn || !s.mayBeMember dev lrn || decide (spadOff + 0x80000 < off.toNat + data.length) then s
    else s.writeKeys ⟨peerWriter (s.devOf dev) lrn, .s, false⟩ (keysFrom k data.length) data
  | none => s

/-- Bytes that a step writes in a region of another member, as far as it reaches, with its poisoned elements (R260,
R267). -/
def State.writeMember (s : State) (d : BitVec 14) (l : BitVec 10) (region : BitVec 28 × Nat) (e : Nat)
    (xs : List (Nat × Nat × Bool)) : State :=
  match s.rankKey d l region.1.toNat with
  | none => s
  | some k =>
    let ys := xs.filter (fun x => decide (e * x.1 + e ≤ region.2))
    (s.writeKeys ⟨peerWriter d l, .c, false⟩ (ys.flatMap (fun x => keysFrom (k + e * x.1) e))
      (ys.flatMap (fun x => bytesOfNat e x.2.1))).mark
      ((ys.filter (fun x => x.2.2)).map (fun x => wordOf (k + e * x.1)))

/-- A member's LOCAL_READY: the step has written its destination, with the received counts of an A2A, from the same
sources and the same reduced elements as this member's own (R255, R257, R469). -/
def State.memberResult (s : State) (b : Bool) (r : StepRun) (x : MemberEntry) (run : Fin 4) (step : Nat) (cr : CollRun) :
    State :=
  let plan := s.collPlan cr.op cr.ty cr.desc cr.counts
  let (cr1, s1) := s.jointRun r run step cr
  let x1 := (cr1.team.find? (fun y => y.member == x.member)).getD x
  let (d, l) := s.memberRank b x1
  let (all, s2) := s1.stepResult cr1 step r plan x.member
  let s3 := s2.writeMember d l (x1.regions.getD 1 (0, 0)) plan.e all
  if cr.op = 2 then
    s3.writeMember d l (x1.regions.getD 3 (0, 0)) 4
      ((List.range plan.p).map (fun i => (i, (r.member cr plan.m i).2.getD x.member 0, false)))
  else s3

/-- Whether what a step leaves at a member can be in place there: it moves something from this member only once that
has read its source (R257, R267). -/
def State.canDeliver (s : State) (r : StepRun) (x : MemberEntry) (step : Nat) (cr : CollRun) : Bool :=
  let plan := s.collPlan cr.op cr.ty cr.desc cr.counts
  let counts := (List.range plan.p).map (fun i => (r.member cr plan.m i).2)
  let mine := collReduces cr.op || (stepRefs cr.op (collCount cr.desc) plan.p x.member (collRoot cr.desc)
    (collDist cr.desc) counts).any (fun k => k.2.1 == plan.m)
  (r.srcFree || !mine) && (stepCause cr step r plan).isNone

/-- A member's SRC_FREE and LOCAL_READY of the `i`-th step (R257). -/
def State.memberSent (s : State) (b : Bool) (i : Nat) (r : StepRun) (x : MemberEntry) : State :=
  let r1 := { r with done := r.done ++ [x.member] }
  match r.kind with
  | .coll run step =>
    match (s.run run).coll with
    | some cr => if s.canDeliver r x step cr then (s.memberResult b r x run step cr).putStep b i r1 else s
    | none => s
  | _ => s.putStep b i r1

/-- The first step of a sequence that goes on here. -/
def State.stepDue (s : State) (b : Bool) : Option (Nat × StepRun × StepNews) :=
  (s.scope b).queue.zipIdx.findSome? (fun (p : StepRun × Nat) => (s.stepNext b p.1).map (fun n => (p.2, p.1, n)))

/-- STEP_PROGRESS (R257, R258, R267): news of a step from another member, or this member's next event. -/
def execStepProgress (scope : Bool) (p : StepNews) (s : State) : Host.Outcome State Fault Refusal :=
  powered s (
    match p with
    | .entered member lrn key src counts poisoned counters regions =>
      if member = s.teamMember scope || s.teamSize scope ≤ member then s
      else s.memberEntered scope ⟨member, lrn, key, src, counts, poisoned, counters, regions, s.nextOp⟩
    | .again member => s.memberAgain scope member
    | .failed n cause => if 1 ≤ cause.toNat && cause.toNat ≤ 7 then s.memberFailed scope n cause else s
    | .wrote dev lrn off data => s.memberWrote dev lrn off data
    | .sent n member =>
      match s.stepAt scope n with
      | none => s
      | some r =>
        let first := ((s.scope scope).queue.take n).any (fun k => !k.done.contains member
          && (match r.kind with | .coll run _ => k.isOf run | _ => false))
        match r.others.find? (fun x => x.member == member) with
        | some x => if s.allEntered scope r && !r.done.contains member && !first then s.memberSent scope n r x else s
        | none => s
    | news =>
      match s.stepDue scope with
      | some (i, r, due) => if due == news then s.ownProgress scope i r news else s
      | none => s)

/-- Whether this member has been inside a step too long (R267). -/
def State.stepExpired (s : State) (r : StepRun) : Bool := r.entered && r.inside && decide (r.deadline ≤ s.wall)

/-- STEP_TIMEOUT (R267): a step this member has been inside too long fails with cause 3. -/
def execStepTimeout (scope : Bool) (s : State) : Host.Outcome State Fault Refusal :=
  powered s (
    match (s.scope scope).queue.findIdx? s.stepExpired with
    | some i => s.failStep scope i 3
    | none => s)

/-- The step event that is due on a scope. -/
def State.dueStep (s : State) (b : Bool) : Option (Host.Outcome State Fault Refusal) :=
  if (s.nextEntry b).isSome && !s.admittedBusy then some (execStepEntry b s)
  else
    match s.stepDue b with
    | some (_, _, news) => some (execStepProgress b news s)
    | none => if (s.scope b).queue.any s.stepExpired then some (execStepTimeout b s) else none

/-! ## The meanings -/

/-- COLL (R253, R256). -/
def execColl (w : Fields) (s : State) : Host.Outcome State Fault Refusal :=
  issue .coll w bodyColl s

/-- BAR (R271 to R273). -/
def execBar (w : Fields) (s : State) : Host.Outcome State Fault Refusal :=
  issue .bar w bodyBar s

/-- BARC (R271 to R274). -/
def execBarc (w : Fields) (s : State) : Host.Outcome State Fault Refusal :=
  issue .barc w bodyBarc s

end Sys2Proof.Machine
end

