-- ==== Sys2Proof/Machine/Beacons.lean ====
section
/-! DEFINITION. Beacons, fences and code publication (R194 to R210). -/

namespace Sys2Proof.Machine

/-! ## Finding a beacon (R194, R195) -/

/-- BEACON_ERR's TRAP.INFO (R195).
DEDUCED, log entry 56. -/
def beaconInfo (reason : Nat) (va : Word) : Word := reasonInfo reason (va &&& 0x01FFFFFFFFFFFFFF)

/-- Whether a region entry is malformed (R195). -/
def regionBad (r : BitVec 80) : Bool :=
  let base := (r.extractLsb' 0 51).toNat
  let n := (r.extractLsb' 51 24).toNat
  r.extractLsb' 75 4 != 0
    || (if r.getLsbD 79 then n == 0 || decide (2 ^ 51 < base + n) else n != 0 || base != 0)

/-- Whether a beacon has a reserved bit set or a malformed region (R194, R195). -/
def beaconBad (b : BitVec 512) : Bool :=
  b.extractLsb' 496 16 != 0 || b.extractLsb' 474 5 != 0 || b.extractLsb' 448 12 != 0 || b.extractLsb' 320 64 != 0
    || (List.range 4).any (fun n => regionBad (b.extractLsb' (80 * n) 80))

/-- What naming a beacon comes to: its key; a page that parks the context; or a fault. -/
inductive BeaconEnd where
  | ok (k : Nat) (s : State)
  | wait (s : State)
  | fault (s : State) (cause : BitVec 8) (info : Word) (xlat : Option Word)
  deriving DecidableEq, Repr

/-- Whether the page of an address that is mapped lies outside region 0, or on a device outside the party group (R107,
R108, R195). -/
def State.beaconOutside (s : State) (va : Word) : Bool :=
  match s.leafOf va.toNat with
  | none => false
  | some (e, _) =>
    let dpa := entPpn e * 4096
    let dev := dpa / 2 ^ 38 % 2 ^ 14
    dpa / 2 ^ 52 != 0 || (dev != 0x3FFF && decide (s.gsize ≤ dev))

/-- The beacon at an address (R195): aligned, on a page of region 0 that reads and writes uncompressed, and
well-formed; a page outside region 0 is reported before its rights.
DEDUCED, log entry 90. -/
def State.findBeacon (s : State) (c : Fin 11) (pc va : Word) : BeaconEnd :=
  if va.toNat % 64 != 0 then .fault s Cause.misaligned va none
  else
    match s.parkOn c pc va 64 .atomic with
    | .wait s1 => .wait s1
    | .fault s1 cause info xlat =>
      if cause == Cause.pagePerm && s1.beaconOutside va then .fault s1 Cause.beaconErr (beaconInfo 4 va) none
      else .fault s1 cause info xlat
    | .keys ks leaf s1 =>
      let k := ks.headD 0
      if leaf.dpa / 2 ^ 52 ≠ 0 then .fault s1 Cause.beaconErr (beaconInfo 4 va) none
      else if beaconBad (s1.beacon k) then .fault s1 Cause.beaconErr (beaconInfo 1 va) none
      else .ok k (s1.modCtx c (fun x => { x with park := none }))

/-- What a beacon instruction does at its beacon.
DEDUCED, log entry 90. -/
def atBeacon (c : Fin 11) (e : Entry) (s : State) (go : Nat → Word → State → Act) : Act :=
  let va := e.opA s c
  match s.findBeacon c e.pc va with
  | .wait s1 => .stay s1
  | .fault s1 cause info xlat => .trapIn s1 cause info xlat
  | .ok k s1 => go k va s1

/-- The entry of a context's held-beacon list that names a beacon (R200).
DEDUCED, log entry 87. -/
def Ctx.holds (x : Ctx) (k : Nat) (va : Word) : Option (Word × Nat × Bool) :=
  x.held.find? (fun h => h.2.1 == k || h.1 == va)

def beaconHolders (b : BitVec 512) : Nat := (b.extractLsb' 480 16).toNat
def beaconExcl (b : BitVec 512) : Bool := b.getLsbD 479

/-! ## BBIND (R197) -/

/-- A region entry. -/
def regionEntry (len base : Word) : Nat :=
  2 ^ 79 + len.toNat / 64 * 2 ^ 51 + base.toNat / 64 % 2 ^ 51

def bodyBbind : Body := fun c e s =>
  atBeacon c e s (fun k va s1 =>
    let b := s1.beacon k
    let n := (e.w.os.extractLsb' 0 2).toNat
    let mine := match (s1.ctx c).holds k va with | some h => h.2.2 | none => false
    let (len, base) := (e.opD s c, e.opB s c)
    if (beaconExcl b || beaconHolders b != 0) && !mine then .trap Cause.beaconErr (beaconInfo 3 va) none
    else if e.w.os.getLsbD 2 then .done [] (s1.setBeacon k (setField b (80 * n) 80 0))
    else if base.toNat % 64 != 0 || len.toNat % 64 != 0 || decide (len.toNat < 64)
        || decide (1073741760 < len.toNat) || base.extractLsb' 57 7 != 0 then
      .trap Cause.beaconErr (beaconInfo 5 va) none
    else .done [] (s1.setBeacon k (setField b (80 * n) 80 (regionEntry len base))))

/-! ## ACQ and BTRY (R198, R200, R202) -/

/-- The directory's queue of a beacon. -/
def State.beaconQueue (s : State) (k : Nat) : List (Fin 11 × BitVec 10 × Bool) :=
  match s.beacons.find? (fun q => q.1 == k) with
  | some q => q.2
  | none => []

def State.setBeaconQueue (s : State) (k : Nat) (q : List (Fin 11 × BitVec 10 × Bool)) : State :=
  let rest := s.beacons.filter (fun p => p.1 != k)
  { s with beacons := if q.isEmpty then rest else rest ++ [(k, q)] }

/-- Whether a beacon can be granted in a mode with nothing ahead (R198). -/
def grantable (b : BitVec 512) (excl : Bool) : Bool :=
  !beaconExcl b && (if excl then beaconHolders b == 0 else decide (beaconHolders b < 65535))

/-- A beacon granted to a context of a rank (R194, R198). -/
def beaconGranted (b : BitVec 512) (c : Fin 11) (lrn : BitVec 10) (excl : Bool) : BitVec 512 :=
  if excl then setField (setField (setField b 479 1 1) 470 4 c.1) 460 10 lrn.toNat
  else setField b 480 16 (beaconHolders b + 1)

/-- A grant recorded: the beacon's state and the context's list (R194, R198, R200). -/
def State.grantBeacon (s : State) (c : Fin 11) (k : Nat) (va : Word) (excl : Bool) : State :=
  (s.setBeacon k (beaconGranted (s.beacon k) c s.lrn excl)).modCtx c (fun x => { x with held := x.held ++ [(va, k, excl)] })

/-- A completed acquire: the context observes what the beacon's releases have published (R202). -/
def State.acquireBeacon (s : State) (c : Fin 11) (k : Nat) : State :=
  s.modUnseen (fun u => if u.pubs.contains k then u.view (agentsOf c.1 allClasses [false]) else u)

/-- The checks an acquire makes of its context's list (R200). -/
def Ctx.acquireFault (x : Ctx) (k : Nat) (va : Word) : Option Word :=
  if (x.holds k va).isSome then some (beaconInfo 7 va)
  else if 16 ≤ x.held.length then some (beaconInfo 8 va) else none

/-- ACQ (R198): granted at once where nothing is ahead of it, else queued until its grant is recorded. -/
def bodyAcq : Body := fun c e s =>
  let excl := !e.w.os.getLsbD 0
  match (s.ctx c).acqQueued with
  | some va =>
    if s.inQueue c then .stay s
    else
      let s1 := match (s.ctx c).held.find? (fun h => h.1 == va) with
        | some h => s.acquireBeacon c h.2.1
        | none => s
      .done [] (s1.modCtx c (fun x => { x with acqQueued := none }))
  | none =>
    atBeacon c e s (fun k va s1 =>
      match (s1.ctx c).acquireFault k va with
      | some info => .trap Cause.beaconErr info none
      | none =>
        let q := s1.beaconQueue k
        if q.isEmpty && grantable (s1.beacon k) excl then
          .done [] ((s1.grantBeacon c k va excl).acquireBeacon c k)
        else
          .stay ((s1.setBeaconQueue k (q ++ [(c, s.lrn, excl)])).modCtx c (fun x => { x with acqQueued := some va })))

/-- BTRY (R198): granted at once or not at all. -/
def bodyBtry : Body := fun c e s =>
  let excl := !e.w.os.getLsbD 0
  atBeacon c e s (fun k va s1 =>
    match (s1.ctx c).acquireFault k va with
    | some info => .trap Cause.beaconErr info none
    | none =>
      if (s1.beaconQueue k).isEmpty && grantable (s1.beacon k) excl then
        .done (e.truth true) ((s1.grantBeacon c k va excl).acquireBeacon c k)
      else .done (e.truth false) s1)

/-- Whether the request at the head of a beacon's queue can be granted (R198). -/
def State.grantDue (s : State) (k : Nat) : Bool :=
  match s.beaconQueue k with
  | r :: _ => grantable (s.beacon k) r.2.2
  | [] => false

/-- The oldest request to a beacon granted, a context's own or another rank's (R198). -/
def State.grantOldest (s : State) (k : Nat) : State :=
  match s.beaconQueue k with
  | [] => s
  | r :: rest =>
    if grantable (s.beacon k) r.2.2 then
      let s1 := s.setBeaconQueue k rest
      if r.2.1 == s.lrn then
        match (s.ctx r.1).acqQueued with
        | some va => s1.grantBeacon r.1 k va r.2.2
        | none => s1
      else s1.setBeacon k (beaconGranted (s.beacon k) r.1 r.2.1 r.2.2)
    else s

/-- Shared holders of a beacon that are contexts of this rank. -/
def State.ownHolders (s : State) (k : Nat) : Nat :=
  (allCtx.map (fun c => (s.ctx c).held.countP (fun h => h.2.1 == k && !h.2.2))).sum

/-- What another rank has published by a release (R201, R202): words of the beacon's regions, its own earlier writes
there among them. -/
def State.publishWords (s : State) (k : Nat) (lrn : BitVec 10) (words : List (Nat × Word)) : State :=
  let rs := beaconRegions (s.beacon k)
  let w := peerWriter s.ownDev lrn
  let s1 := (words.filter (fun p => s.inRegions rs p.1)).foldl (fun (s : State) (p : Nat × Word) =>
    s.writeKeys ⟨w, .s, false⟩ (keysFrom (8 * p.1) 8) (bytesOfNat 8 p.2.toNat)) s
  { s1 with unseen := s1.unseen.map (fun (u : Unseen) =>
      if u.writer == w && s1.inRegions rs u.key then { u with pubs := u.pubs ++ [k] } else u) }

/-- A release by a context of another rank that holds the beacon (R199). -/
def State.foreignRelease (s : State) (k : Nat) (lrn : BitVec 10) (c : Fin 11) (excl : Bool)
    (words : List (Nat × Word)) : State :=
  let b := s.beacon k
  if excl then
    if beaconExcl b && b.extractLsb' 460 10 == lrn && (b.extractLsb' 470 4).toNat == c.1 then
      (s.publishWords k lrn words).setBeacon k (beaconReleased b true)
    else s
  else if s.ownHolders k < beaconHolders b then s.setBeacon k (beaconReleased b false) else s

/-- BEACON_GRANT (R198, R199, R202, R203): the directory of the beacon of a place grants its oldest request, or
hears from another rank. -/
def execBeaconGrant (dpa : BeaconTurn) (s : State) : Host.Outcome State Fault Refusal :=
  let k := dpa.place
  powered s (
    match dpa.news with
    | .oldest => s.grantOldest k
    | .asked lrn c excl => if lrn == s.lrn then s else s.setBeaconQueue k (s.beaconQueue k ++ [(c, lrn, excl)])
    | .tried lrn c excl =>
      if lrn != s.lrn && (s.beaconQueue k).isEmpty && grantable (s.beacon k) excl then
        s.setBeacon k (beaconGranted (s.beacon k) c lrn excl)
      else s
    | .withdrawn lrn c =>
      if lrn == s.lrn then s
      else s.setBeaconQueue k ((s.beaconQueue k).filter (fun r => r.1 != c || r.2.1 != lrn))
    | .released lrn c excl words => if lrn == s.lrn then s else s.foreignRelease k lrn c excl words)

/-! ## REL (R199, R201) and fences (R206, R208) -/

/-- Stores whose outcome is unknown are over once a FENCE or a REL waits for them, and their faults are
delivered (R135). -/
def State.deliverLost (s : State) (c : Fin 11) : State :=
  s.flights.foldl (fun (s : State) (f : Flight) =>
    match f.xl with
    | .failed fault reason va =>
      if f.c == c && f.lost then s.failFlight f Cause.remoteLost (some (xlatWord fault reason va)) else s
    | _ => s) s

def bodyRel : Body := fun c e s =>
  atBeacon c e s (fun k va s1 =>
    match (s1.ctx c).holds k va with
    | none => .trap Cause.beaconErr (beaconInfo 2 va) none
    | some h =>
      if h.2.2 && !s1.quietOn c .s then .stay s1
      else
        let s2 := s1.releaseBeacon c k h.1 h.2.2
        .done [] (if h.2.2 then s2.deliverLost c else s2))

/-- The classes FENCE names (R206). -/
def fenceClasses (os : BitVec 8) : List PathClass :=
  (allClasses.zipIdx.filter (fun (p : PathClass × Nat) => os.getLsbD p.2)).map (·.1)

def bodyFence : Body := fun c e s =>
  let ks := fenceClasses e.w.os
  if ks.all (s.quietOn c) then .done [] ((if ks.contains .s then s.deliverLost c else s).fence c.1 ks) else .stay s

/-- Whether an access in flight is to this rank's own memory.
DEDUCED, log entry 33. -/
def State.ownAccess (s : State) (f : Flight) : Bool := f.near || (f.peer.isNone && !s.throughGate f)

def bodyLbfence : Body := fun c _ s =>
  if s.flights.all (fun f => f.c != c || f.lost || !s.ownAccess f)
      && [PathClass.r, .m, .w, .g, .c].all (s.quietOn c) then .done [] (s.nameFence c.1)
  else .stay s

/-! ## ISYNC (R209) -/

/-- Whether a cached word overlaps regions. -/
def ICacheEntry.meetsRegion (e : ICacheEntry) (rs : List (Nat × Nat)) : Bool :=
  rs.any (fun r => decide (e.addr.toNat < 64 * (r.1 + r.2)) && decide (64 * r.1 < e.addr.toNat + e.len))

/-- Whether a cached line overlaps regions. -/
def ICacheLine.meetsRegion (l : ICacheLine) (rs : List (Nat × Nat)) : Bool :=
  rs.any (fun r => decide (r.1 ≤ l.line) && decide (l.line < r.1 + r.2))

def bodyIsync : Body := fun c e s =>
  if e.w.os.getLsbD 0 then .done [] { s with
    icache := []
    ilines := [] }
  else
    atBeacon c e s (fun k _ s1 =>
      let rs := beaconRegions (s1.beacon k)
      .done [] { s1 with
        icache := s1.icache.filter (fun h => !(h.asid == s1.asid && h.meetsRegion rs))
        ilines := s1.ilines.filter (fun l => !(l.asid == s1.asid && l.meetsRegion rs)) })

/-! ## The meanings -/

/-- BBIND (R197). -/
def execBbind (w : Fields) (s : State) : Host.Outcome State Fault Refusal :=
  issue .bbind w bodyBbind s

/-- ACQ (R198, R202). -/
def execAcq (w : Fields) (s : State) : Host.Outcome State Fault Refusal :=
  issue .acq w bodyAcq s

/-- REL (R199, R201). -/
def execRel (w : Fields) (s : State) : Host.Outcome State Fault Refusal :=
  issue .rel w bodyRel s

/-- BTRY (R198, R202). -/
def execBtry (w : Fields) (s : State) : Host.Outcome State Fault Refusal :=
  issue .btry w bodyBtry s

/-- FENCE (R206). -/
def execFence (w : Fields) (s : State) : Host.Outcome State Fault Refusal :=
  issue .fence w bodyFence s

/-- LBFENCE (R208). -/
def execLbfence (w : Fields) (s : State) : Host.Outcome State Fault Refusal :=
  issue .lbfence w bodyLbfence s

/-- ISYNC (R209). -/
def execIsync (w : Fields) (s : State) : Host.Outcome State Fault Refusal :=
  issue .isync w bodyIsync s

end Sys2Proof.Machine
end

