-- ==== Sys2Proof/Machine/Contexts.lean ====
section
/-! DEFINITION. Starting, joining and ending contexts (R73, R287, R289, R315 to R317). -/

namespace Sys2Proof.Machine

/-! ## Register images (R73, R289) -/

/-- A 64-bit word of an image. -/
def imageWord (bs : List Byte) (off : Nat) : Word := BitVec.ofNat 64 (natOfBytes ((bs.drop off).take 8))

/-- Words of an image put into the first places of a register array. -/
def imageWords {n : Nat} (bs : List Byte) (off count : Nat) (v : Vector Word n) : Vector Word n :=
  (List.range count).foldl (fun v k => setAt v k (imageWord bs (off + 8 * k))) v

/-- A context's registers from the 256 bytes of a `short` image: `g1` to `g7`, `w0` to `w15` in the first
frame and `w16` to `w23` beyond it (R73, R289). -/
def Ctx.shortImage (x : Ctx) (bs : List Byte) : Ctx :=
  { x with
    g := setAt (imageWords bs 0 8 (Vector.replicate 8 0)) 0 0
    frames := [imageWords bs 64 16 (Vector.replicate 16 0)]
    ahead := imageWords bs 192 8 (Vector.replicate 8 0) }

/-- A context's registers from the 4,416 bytes of a `long` image (R73, R289). -/
def Ctx.longImage (x : Ctx) (bs : List Byte) : Ctx :=
  let y := x.shortImage bs
  let vecs := (List.range 32).foldl (fun v k =>
    setAt v k (BitVec.ofNat 1024 (natOfBytes ((bs.drop (256 + 128 * k)).take 128)))) y.v
  let preds := (List.range 8).foldl (fun v k =>
    setAt v k (decide (k = 0) || ((bs.getD (4352 + k) 0).getLsbD 0))) y.p
  let masks := (List.range 8).foldl (fun v k =>
    setAt v k (BitVec.ofNat 32 (natOfBytes ((bs.drop (4360 + 4 * k)).take 4)))) y.m
  { y with
    v := vecs
    p := preds
    m := masks }

/-! ## START (R315) -/

/-- The lowest FREE helper. -/
def State.freeHelper (s : State) : Option (Fin 11) :=
  [(1 : Fin 11), 2, 3, 4, 5, 6, 7, 8, 9, 10].find? (fun h => (s.ctx h).cstate == .free)

/-- What a context sees becomes visible to a helper it starts, on the same paths and through the same names (R315,
R471). -/
def State.showHelper (s : State) (c h : Fin 11) : State := s.modUnseen (·.pass c.1 h.1)

/-- A helper started (R287, R289, R315): `k` frames move from the top of the control context's slice. -/
def State.startHelper (s : State) (h : Fin 11) (entry : Word) (k : Nat) (image : List Byte) : State :=
  let top := (s.ctx 0).carve
  let left := top.ssize - k
  let s1 := s.modCtx 0 (fun x => { x with carve := { x.carve with ssize := left } })
  s1.setCtx h
    { Ctx.blank.shortImage image with
      cstate := .ready
      pc := entry
      carve := ⟨0, 0, k, top.sbase + left⟩
      startAt := s.now + 40 }

def bodyStart : Body := fun c e s =>
  let k := e.w.os.toNat
  let entry := e.opA s c
  let img := e.opB s c
  let top := (s.ctx c).carve
  if c ≠ 0 then .trap Cause.illegal (illegalInfo 0x0D e.parcel) none
  else if entry.toNat % 4 != 0 then .trap Cause.misaligned entry none
  else if img.toNat % 8 != 0 then .trap Cause.misaligned img none
  else if !s.spadOk img.toNat 256 then .trap Cause.nearBounds img none
  else if top.ssize - top.sused < k then .trap Cause.windowExhausted (reasonInfo 3 0) none
  else
    match s.freeHelper with
    | none => .done (e.toFd 0) s
    | some h =>
      if s.loadWaits c then .stay s
      else
        let ks := s.nearKeys img.toNat 256
        if s.poisonedAt ks then .trap Cause.poisoned e.pc none
        else
          let (bs, s1) := s.readKeys ⟨c.1, .s, true⟩ ks
          .done (e.toFd (BitVec.ofNat 64 h.1)) ((s1.startHelper h entry k bs).showHelper c h)

/-! ## JOIN (R316) -/

/-- The control context's slice after helpers have been collected (R287): it reaches up to the lowest
slice still held, or to the top of the carve-out.
DEDUCED, log entry 58. -/
def State.sliceTop (s : State) : Nat :=
  (allCtx.filter (fun h => h != 0 && (s.ctx h).cstate != .free && (s.ctx h).carve.ssize != 0)).foldl
    (fun t h => min t (s.ctx h).carve.sbase) 4096

/-- A helper collected: its writes and what it has been shown are visible to the joining context on each class
(R316) and its frames return. -/
def State.collect (s : State) (c h : Fin 11) : State :=
  let s1 := (s.reapBlocks).setCtx h Ctx.blank
  let s2 := s1.modUnseen (fun u => u.view (agentsOf c.1 allClasses (u.namesTo h.1 allClasses)))
  s2.modCtx c (fun x => { x with carve := { x.carve with ssize := s2.sliceTop - x.carve.sbase } })

def bodyJoin : Body := fun c e s =>
  let n := e.opA s c
  if c ≠ 0 then .trap Cause.illegal (illegalInfo 0x0D e.parcel) none
  else if h : 1 ≤ n.toNat ∧ n.toNat ≤ 10 then
    let k : Fin 11 := ⟨n.toNat, by omega⟩
    match (s.ctx k).cstate with
    | .free => .trap Cause.nearBounds n none
    | .ended => .done (e.toFd (s.ctx k).exitValue) (s.collect c k)
    | _ => .stay s
  else .trap Cause.nearBounds n none

/-! ## EXIT (R317) -/

/-- The lowest allocation a context holds: its first block (R438). -/
def State.leak (s : State) (c : Fin 11) : Option Nat :=
  (List.range 64).findSome? (fun b => match (s.matrix.block b).alloc with
    | some (d, first, _) => if d == c && !(s.matrix.block b).doomed then some first else none
    | none => none)

/-- A context's hamper entries discarded (R303): nothing they would have written is pending any more, and the
groups they had a part in are gone. -/
def State.discardHamper (s : State) (c : Fin 11) : State :=
  let h := (s.ctx c).hamper
  let gone := h.flatMap (fun e => e.dests ++ s.unarrived c e.claims)
  { s.modCtx c (fun x => { x with hamper := [], pending := gone.foldl (fun l r => l.erase r) x.pending }) with
    graph := { s.graph with streams := s.graph.streams.map (fun b =>
      if b.c == c then
        { b with buf := b.buf.filter (fun g => !h.any (fun e =>
            e.push == some (b.reg, g.idx) || e.claims.contains (b.reg, g.idx))) }
      else b) } }

/-- Whether everything a context has started is over (R317). -/
def State.allOver (s : State) (c : Fin 11) : Bool :=
  !(s.ctx c).anyBlocked && allClasses.all (s.quietOn c)
    && allRuns.all (fun r => (s.run r).c != c || (s.run r).state != 1)

/-- A context's runs retired and its streams freed with their incomplete blocks written; whether a write is
held (R239, R317). -/
def State.freeHeld (s : State) (c : Fin 11) : State × Bool :=
  let s1 := allRuns.foldl (fun (s : State) r =>
    if (s.run r).state != 0 && (s.run r).c == c then s.freeRun r else s) s
  (s1.graph.streams.filter (fun b => b.c == c)).foldl (fun (p : State × Bool) b =>
    if p.2 then p else p.1.freeStream b) (s1, false)

/-- A helper that ends by EXIT (R316, R317). -/
def State.endHelper (s : State) (c : Fin 11) (w0 : Word) : State :=
  let s1 := s.dropTickets c
  { s1 with flights := s1.flights.filter (fun f => f.c != c) }.modCtx c (fun x =>
    { x with cstate := .ended, exitValue := w0, hamper := [], bypass := [], owed := [], delivering := [], pending := [] })

def bodyExit : Body := fun c e s0 =>
  let s := if (s0.ctx c).inh then s0.discardHamper c else s0
  if !s.allOver c then .stay s
  else
    match s.leak c with
    | some b => .trap Cause.accLeak (BitVec.ofNat 64 b) none
    | none =>
      match (s.ctx c).held with
      | h :: _ => .trap Cause.beaconErr (beaconInfo 6 h.1) none
      | [] =>
        if c = 0 && allCtx.any (fun h => h != 0 && (s.ctx h).live) then .stay s
        else
          let (s1, heldUp) := s.freeHeld c
          if heldUp || !(s1.ctx c).faults.isEmpty then .stay s1
          else if c = 0 then .whole (s1.endPart none)
          else .whole (s1.endHelper c ((e.reg s c (.w (16 * e.depth))).setWidth 64))

/-! ## The meanings -/

/-- START (R315). -/
def execStart (w : Fields) (s : State) : Host.Outcome State Fault Refusal :=
  issue .start w bodyStart s

/-- JOIN (R316). -/
def execJoin (w : Fields) (s : State) : Host.Outcome State Fault Refusal :=
  issue .join w bodyJoin s

/-- EXIT (R317).
DEDUCED, log entry 59. -/
def execExit (w : Fields) (s : State) : Host.Outcome State Fault Refusal :=
  issue .exit w bodyExit s

end Sys2Proof.Machine
end

