-- ==== Sys2Proof/Machine/Paging.lean ====
section
/-! DEFINITION. What happens to accesses after issue (R124 to R131, R292), the fault queues (R127, R128), the
host's answers (R129), invalidation (R121, R122), pages that move (R132 to R134) and lost links (R135). -/

namespace Sys2Proof.Machine

/-! ## Landing (R124, R207, R292, R444) -/

/-- The first address an access names. -/
def State.firstByte (s : State) (f : Flight) : Word :=
  match f.redo with
  | some e => (match e.span s f.c with | some (_, r :: _) => BitVec.ofNat 64 r.1 | _ => 0)
  | none => 0

/-- A refusal from the gate that an access goes through (R123, R137): PAGE_PERM with its reason. -/
def State.refuseFlight (s : State) (f : Flight) (r : BitVec 4) : State :=
  if s.throughGate f && gateReason f.peer r then
    s.failFlight f Cause.pagePerm (some (xlatWord 2 r (s.firstByte f)))
  else s

/-- The `n`-th access in flight, if `ok` holds of it, is performed, or refused by the gate it goes through. -/
def State.completeFlight (s : State) (ok : Flight → Bool) (n : Nat) (refused : Option (BitVec 4)) : State :=
  match s.flights[n]? with
  | some f =>
    if ok f && s.mayLand f then
      match refused with
      | some r => s.refuseFlight f r
      | none => (s.perform f).portDone f.keys.head?
    else s
  | none => s

/-- VALUE_LANDS (R292): an access in flight, which has a value, lands. -/
def execValueLands (n : AtHome Nat) (s : State) : Host.Outcome State Fault Refusal :=
  powered s (s.completeFlight (·.hasValue) n.which n.refused)

/-- ACCESS_COMPLETES_AT_HOME (R124): an access in flight, a store, is performed or fails. -/
def execAccessCompletesAtHome (n : AtHome Nat) (s : State) : Host.Outcome State Fault Refusal :=
  powered s (s.completeFlight (fun f => !f.hasValue) n.which n.refused)

/-! ## The fault queues (R127, R128) -/

/-- A record's bits but for SEQ and TIME (R128). -/
def TokenRec.bits (t : TokenRec) : BitVec 512 :=
  match t.held with
  | .again bits | .fail bits _ _ => bits
  | .host => recHeader 0x01 t.asid t.vf t.lrn ||| at' 22 (if t.write then 1 else 0) ||| at' 23 (if t.fetch then 1 else 0)
    ||| at' 24 (if t.atomic then 1 else 0) ||| at' 25 (if t.out then 1 else 0)
    ||| at' 64 (t.va.toNat % 2 ^ 57) ||| at' 128 t.pc.toNat ||| at' 192 t.count ||| at' 208 t.level
    ||| at' 480 t.token.toNat

/-- The queue of a waiting record. -/
def PendingRec.vf : PendingRec → BitVec 6
  | .token vf _ => vf
  | .other vf _ => vf

/-- The bits of a waiting record but for SEQ and TIME. -/
def State.recBits (s : State) : PendingRec → BitVec 512
  | .other _ bits => bits
  | .token _ t => match s.tokens.find? (fun r => r.token == t) with | some r => r.bits | none => 0

/-- The key of a DPA as an address space resolves it, or the DPA itself. -/
def State.dpaKey (s : State) (asid : BitVec 8) (dpa : Nat) : Nat :=
  match s.resolve asid dpa with
  | .ok p => p.key
  | .error _ => dpa

/-- A record written at TAIL (R127, R128).
DEDUCED, log entry 102.
DESIGN CHOICE, log entry 139. -/
def State.writeQueue (s : State) (vf : BitVec 6) (bits : BitVec 512) : State :=
  let q := s.queueOf vf
  let rec' := setField (setField bits 48 16 q.seq.toNat) 256 64 s.now
  let k := s.dpaKey (bits.extractLsb' 8 8) q.base.toNat + 64 * q.tail.toNat
  (s.writeKeys ⟨11, .o, false⟩ (keysFrom k 64) (bytesOfNat 64 rec'.toNat)).modQueue vf (fun q =>
    { q with
      tail := BitVec.ofNat 16 ((q.tail.toNat + 1) % 2 ^ (q.logsize.toNat + 4))
      seq := q.seq + 1 })

/-- Whether a queue can take its oldest waiting record. -/
def State.recordDue (s : State) (vf : BitVec 6) : Bool :=
  !(s.queueOf vf).closed && s.pendingRecs.any (fun r => r.vf == vf)

/-- FQ_CTL_WRITE (R127): HEAD and EN as written, LOGSIZE unless above 12, OVF cleared by a one. -/
def execFqCtlWrite (vf : BitVec 6) (value : Word) (s : State) : Host.Outcome State Fault Refusal :=
  powered s (s.modQueue vf (fun q =>
    { q with
      head := value.extractLsb' 48 16
      logsize := if 12 < (value.extractLsb' 24 4).toNat then q.logsize else value.extractLsb' 24 4
      ovf := q.ovf && !value.getLsbD 2
      en := value.getLsbD 0 }))

/-! ## Running an access again (R129, R130) -/

/-- A held access runs again from its start, with the rights it was issued with (R129, R130). -/
def State.reissue (s : State) (f : Flight) : State :=
  match f.redo with
  | none => s.dropFlight f.id
  | some e =>
    let x := s.ctx f.c
    let inside : Word := if f.inHandler then 2 else 0
    let s0 := s.modCtx f.c (fun y => { y with trapVec := (y.trapVec &&& ~~~2) ||| inside })
    let back := fun (s : State) => s.modCtx f.c (fun y => { y with trapVec := (y.trapVec &&& ~~~2) ||| (x.trapVec &&& 2) })
    let res := match e.op with
      | .iload => e.loadImage s0 f.c
      | _ => e.access s0 f.c
    match res with
    | .fly g s1 =>
      let h := { g with
        id := f.id
        dest := f.dest
        inHandler := f.inHandler
        orphan := f.orphan }
      let s2 := back s1
      { s2 with flights := s2.flights.map (fun k => if k.id == f.id then h else k) }
    | .fault cause _ => (back s0).failFlight f cause none
    | .now _ s1 => (back s1).dropFlight f.id

/-- The byte at which an access met a page: its first byte there. -/
def Flight.missAt (f : Flight) : Word := match f.xl with | .held _ va => va | _ => 0

/-- The LAUNCH record of a completion record that cannot be written (R417, R440). -/
def State.launchRec (s : State) (o : Outing) (fault : BitVec 3) (reason : BitVec 4) : State :=
  s.postRec o.vf
    (recHeader 0x08 (o.packet.extractLsb' 8 8) o.vf 0x3FF ||| at' 120 reason.toNat ||| at' 124 fault.toNat
      ||| at' 128 o.ended ||| at' 152 o.status.toNat ||| at' 160 o.id.toNat
      ||| at' 192 (o.packet.extractLsb' 448 64).toNat)

/-- An outing's record is final: contexts that hold a ticket of it wake (R454). -/
def State.recordOuting (s : State) (i : Nat) : State :=
  let s1 := { s with sched := { s.sched with outings := s.sched.outings.zipIdx.map (fun (p : Outing × Nat) =>
    if p.2 = i then { p.1 with
      recorded := true
      token := none } else p.1) } }
  s.sched.tickets.toList.foldl (fun (s : State) t =>
    match t with
    | some k => if k.outing = i then s.modCtx k.owner (·.wake) else s
    | none => s) s1

/-- A record taken from those outstanding. -/
def State.closeToken (s : State) (t : BitVec 32) : State :=
  { s with
    tokens := s.tokens.filter (fun k => k.token != t)
    pendingRecs := s.pendingRecs.filter (fun r => match r with | .token _ k => k != t | .other _ _ => true) }

/-- The first request at the gate that a record holds, taken out of the line, with those before and after it. -/
def splitHeld (t : BitVec 32) : List GateReq → Option (List GateReq × GateReq × List GateReq)
  | [] => none
  | g :: gs =>
    if g.token == some t then some ([], g, gs)
    else (splitHeld t gs).map (fun p => (g :: p.1, p.2.1, p.2.2))

/-- The page of a held access walked again (R129): a new record, where it is still not present. -/
def State.walkAgain (s : State) (t : TokenRec) (h : HeldAccess) (inHandler : Bool) : Option (BitVec 32) × State :=
  let k := if t.out then .outWrite else h.kind
  match s.translatePage t.asid h.va.toNat 1 k inHandler h.pc with
  | (.absent va hold, s1) =>
    let (token, s2) := s1.holdPage t.asid va hold k h.pc h.who
    (some token, s2)
  | (_, s1) => (none, s1)

/-- One access of a record walks again (R129). One in flight and an outside request then run as far as they come; a
parked instruction, a stop, a group or a completion record goes on from there when its turn comes. -/
def State.replayOne (s : State) (t : TokenRec) (h : HeldAccess) : State :=
  match h.who with
  | .flight id =>
    (match s.flights.find? (fun f => f.id == id && (match f.xl with | .held k _ => k == t.token | _ => false)) with
     | some f => s.reissue f
     | none => s)
  | .park c =>
    (match (s.ctx c).park with
     | some p =>
       if p.token == t.token then
         let (again, s1) := s.walkAgain t h (h.fetch || (s.ctx c).inh)
         s1.modCtx c (fun x => { x with park := again.map (fun k => { p with token := k }) })
       else s
     | none => s)
  | .stop run stop =>
    if s.graph.inProgress.any (fun p => p.run == run && p.stop == stop && p.token == some t.token) then
      let (again, s1) := s.walkAgain t h false
      s1.modGraph (fun g => { g with inProgress := g.inProgress.map (fun p =>
        if p.run == run && p.stop == stop && p.token == some t.token then { p with token := again } else p) })
    else s
  | .group c reg idx =>
    let waits := fun (b : Stream) (k : StreamGroup) => b.c == c && b.reg == reg && k.idx == idx && k.token == some t.token
    if s.graph.streams.any (fun b => b.buf.any (waits b)) then
      let (again, s1) := s.walkAgain t h false
      s1.modGraph (fun g => { g with streams := g.streams.map (fun b =>
        { b with buf := b.buf.map (fun k => if waits b k then { k with token := again } else k) }) })
    else s
  | .request =>
    (match splitHeld t.token s.gate with
     | some (before, g, after) =>
       let (s1, left) := { s with gate := [] }.performReq { g with token := none }
       { s1 with gate := before ++ left.toList ++ after }
     | none => s)
  | .outing i =>
    (match s.sched.outings[i]? with
     | some o =>
       if o.token == some t.token then
         let (again, s1) := s.walkAgain t h false
         { s1 with sched := { s1.sched with outings := s1.sched.outings.zipIdx.map (fun p =>
             if p.2 = i then { p.1 with token := again } else p.1) } }
       else s
     | none => s)

/-- Every access of a record walks again, in the order in which they first arrived (R129).
DEDUCED, log entry 103. -/
def State.replay (s : State) (t : TokenRec) : State :=
  t.holders.foldl (fun (s : State) h => s.replayOne t h) (s.closeToken t.token)

/-- The stops and the groups of a graph that a record holds, failed (R124, R129, R221). -/
def Graph.failHeld (g : Graph) (t : TokenRec) (fault : BitVec 3) (reason : BitVec 4) : Graph :=
  { g with
    inProgress := g.inProgress.map (fun p =>
      if p.token == some t.token then { p with
        token := none
        fail := some (if fault = 1 then 4 else if fault = 2 then 3 else 5, if fault = 2 then reason else 0, p.heldAt) }
      else p)
    streams := g.streams.map (fun b => { b with buf := b.buf.map (fun k =>
      if k.token == some t.token then { k with
        token := none
        declined := k.declined ++ [(BitVec.ofNat 45 (t.va.toNat / 4096), fault, reason)] } else k) }) }

/-- A parked instruction that a record holds, failed. -/
def Ctx.failPark (x : Ctx) (t : BitVec 32) (fault : BitVec 3) (reason : BitVec 4) : Ctx :=
  match x.park with
  | some p => if p.token == t then { x with park := some { p with failed := some (fault, reason) } } else x
  | none => x

/-- What a saved party's accesses held by a record come to when it fails: they are not issued again (R130). -/
def Saved.failHeld (v : Saved) (t : TokenRec) (fault : BitVec 3) (reason : BitVec 4) : Saved :=
  { v with
    flights := v.flights.map (fun f => match f.xl with
      | .held k va => if k == t.token then { f with xl := .failed fault reason va } else f
      | _ => f)
    ctxs := v.ctxs.map (·.failPark t.token fault reason)
    graph := v.graph.failHeld t fault reason }

/-- A store whose outcome a lost link leaves unknown is over (R135). -/
def State.endStore (s : State) (f : Flight) (va : Word) : State :=
  { s with flights := s.flights.map (fun k => if k.id == f.id then { k with xl := .failed 3 10 va } else k) }

/-- One holder of a record fails (R124, R129); stops and groups fail together. -/
def State.failOne (s : State) (t : TokenRec) (fault : BitVec 3) (reason : BitVec 4) (h : HeldAccess) : State :=
  match h.who with
  | .flight id =>
    (match s.flights.find? (fun f => f.id == id && (match f.xl with | .held k _ => k == t.token | _ => false)) with
     | some f =>
       if fault = 3 && reason = 10 then s.endStore f f.missAt
       else s.failFlight f (xlatCause fault) (some (xlatWord fault reason f.missAt))
     | none => s)
  | .park c => s.modCtx c (·.failPark t.token fault reason)
  | .stop _ _ | .group _ _ _ => s
  | .request =>
    (match splitHeld t.token s.gate with
     | some (before, g, after) =>
       { s with gate := before ++ after }.reply g.req
         (if fault = 1 then .notPresent else if fault = 2 then .pagePerm reason else .remoteLost reason) []
     | none => s)
  | .outing i =>
    (match s.sched.outings[i]? with
     | some o => if o.token == some t.token then (s.launchRec o fault reason).recordOuting i else s
     | none => s)

/-- Every access of a record fails (R129, R130), with PAGE_NOT_PRESENT reason 0 where the host declines. -/
def State.failToken (s : State) (t : TokenRec) (fault : BitVec 3) (reason : BitVec 4) : State :=
  let s1 := ((s.closeToken t.token).modGraph (·.failHeld t fault reason)).failRuns
  let s2 : State := { s1 with sched := { s1.sched with saved := s1.sched.saved.map (·.failHeld t fault reason) } }
  t.holders.foldl (fun (s : State) h => s.failOne t fault reason h) s2

/-- A record that holds accesses has been written (R127): a NOT_PRESENT record waits for the host's answer, and
the access of another goes on or fails. -/
def State.tokenWritten (s : State) (t : BitVec 32) : State :=
  match s.tokens.find? (fun k => k.token == t) with
  | none => s
  | some r =>
    match r.held with
    | .host => { s with tokens := s.tokens.map (fun (k : TokenRec) =>
        if k.token == t then { k with writtenAt := some s.wall } else k) }
    | .again _ => s.replay r
    | .fail _ fault reason => s.failToken r fault reason

/-- FAULT_RECORD_WRITE (R127): the oldest waiting record of a VF is written once its queue has room; a record
behind it that now finds the queue full sets OVF. -/
def execFaultRecordWrite (vf : BitVec 6) (s : State) : Host.Outcome State Fault Refusal :=
  powered s (
    match s.pendingRecs.find? (fun r => r.vf == vf) with
    | none => s
    | some r =>
      if (s.queueOf vf).closed then s
      else
        let s1 : State := { s.writeQueue vf (s.recBits r) with pendingRecs := s.pendingRecs.erase r }
        let s2 : State := match r with
          | .token _ t => s1.tokenWritten t
          | .other _ _ => s1
        if s2.pendingRecs.any (fun k => k.vf == vf) then s2.noteWait vf else s2)

/-- A NOT_PRESENT record that is written and outstanding. -/
def State.outstanding (s : State) (vf : BitVec 6) (t : BitVec 32) : Option TokenRec :=
  s.tokens.find? (fun k => k.token == t && k.vf == vf && k.held == .host && k.writtenAt.isSome)

/-- FQ_RESP_REPLAY (R129). -/
def execFqRespReplay (vf : BitVec 6) (token : BitVec 32) (s : State) : Host.Outcome State Fault Refusal :=
  powered s (match s.outstanding vf token with | some t => s.replay t | none => s)

/-- FQ_RESP_DECLINE (R129). -/
def execFqRespDecline (vf : BitVec 6) (token : BitVec 32) (s : State) : Host.Outcome State Fault Refusal :=
  powered s (match s.outstanding vf token with | some t => s.failToken t 1 0 | none => s)

/-- Pre-emption of the rank's party requested: its contexts halt (R423, R429).
DEDUCED, log entry 93. -/
def State.preempt (s : State) : State :=
  if s.party.bound then { s with party := { s.party with preempting := true } } else s

/-- Whether the bound party waits on a record. -/
def State.partyWaits (s : State) (t : BitVec 32) : Bool :=
  s.flights.any (fun f => match f.xl with | .held k _ => k == t | _ => false)
    || s.ctxs.toList.any (fun x => match x.park with | some p => p.token == t | none => false)
    || s.graph.inProgress.any (·.token == some t)
    || s.graph.streams.any (fun b => b.buf.any (·.token == some t))

/-- NOT_PRESENT_TIMEOUT (R130): the scheduler deschedules the party of a record outstanding for 1 ms. -/
def execNotPresentTimeout (vf : BitVec 6) (token : BitVec 32) (s : State) : Host.Outcome State Fault Refusal :=
  powered s (
    match s.outstanding vf token with
    | some t =>
      if s.partyWaits t.token && (match t.writtenAt with | some w => decide (w + 1100000 ≤ s.wall) | none => false) then
        s.preempt
      else s
    | none => s)

/-! ## Invalidation (R121, R122, R132 to R134) -/

def invState (w : BitVec 128) : Nat := (w.extractLsb' 62 2).toNat

/-- The fields of XLT.INV (R121). -/
def invVa (w : BitVec 128) : Nat := (w.extractLsb' 64 57).toNat
def invCount (w : BitVec 128) : Nat := (w.extractLsb' 32 20).toNat
def invAsid (w : BitVec 128) : BitVec 8 := w.extractLsb' 24 8
def invMove (w : BitVec 128) : Bool := w.getLsbD 18
def invScope (w : BitVec 128) : Nat := (w.extractLsb' 16 2).toNat

/-- XLT.INV as a write leaves it (R121), with a STATE and a result. -/
def invWord (w : BitVec 128) (state res : Nat) : BitVec 128 :=
  setField (setField (w &&& 0x01FFFFFFFFFFFFFF000FFFFFFF070000) 62 2 state) 60 2 res

/-- Translations dropped from both buffers. -/
def State.dropTlb (s : State) (p : TlbEntry → Bool) : State :=
  { s with
    l1 := s.l1.filter (fun e => !p e)
    l2 := s.l2.filter (fun e => !p e) }

/-- The accesses of this rank in flight that may have used a translation of address spaces. -/
def State.usersOf (s : State) (p : BitVec 8 → Bool) : List Nat :=
  if p s.asid then ((s.flights.filter (fun f => !f.near && f.xl == .ready)).map (·.id)) else []

/-- Whether a translation covers some of the pages of a range. -/
def TlbEntry.covers (e : TlbEntry) (asid : BitVec 8) (va count : Nat) : Bool :=
  e.asid == asid && decide (e.va < va + 4096 * count) && decide (va < e.va + e.size)

/-- The first 4 KiB page of the mapping a page lies in: a larger page or a group counts once (R132). -/
def State.firstPage (s : State) (asid : BitVec 8) (page : Nat) : Nat :=
  match s.walk asid (4096 * page) with
  | .leaf e _ lvl =>
    (⟨e, 4096 * page - 4096 * page % leafSize lvl, leafSize lvl, 0⟩ : Leaf).firstPage (4096 * page)
  | _ => page

/-- Pages without repeats that follow each other. -/
def onceEach : List Nat → Option Nat → List Nat
  | [], _ => []
  | p :: ps, last => if last = some p then onceEach ps last else p :: onceEach ps (some p)

/-- The first virtual addresses of the leaves below a node; `n` is the level plus one. -/
def State.leavesFrom (s : State) (asid : BitVec 8) (va : Nat) : Nat → Nat → List Nat
  | 0, _ => []
  | n + 1, node =>
    match s.resolve asid node with
    | .error _ => []
    | .ok p => (List.range 512).flatMap (fun idx =>
        let e := BitVec.ofNat 128 (s.mem.getNat (p.key + 16 * idx) 16)
        match entryEnd s.caps e 0 n with
        | some (.leaf _ _ _) => [va + idx * leafSize n]
        | some _ => []
        | none => s.leavesFrom asid (va + idx * leafSize n) n (entPpn e * 4096))

/-- The pages a MOVE invalidation counts, with their address spaces, ascending (R121, R132): those of its range,
or every mapped page of the spaces it names. -/
def State.movedPages (s : State) (w : BitVec 128) (named : List (BitVec 8)) : List (BitVec 8 × Nat) :=
  if invScope w = 0 then
    (onceEach ((List.range (invCount w)).map (fun i => s.firstPage (invAsid w) (invVa w / 4096 + i))) none).map
      (fun p => (invAsid w, p))
  else
    named.flatMap (fun a =>
      (onceEach ((s.leavesFrom a 0 5 ((s.asRec a).extractLsb' 80 56).toNat).map (fun va => s.firstPage a (va / 4096)))
        none).map (fun p => (a, p)))

/-- The unanchored page that moved least recently. -/
def staleTracked : List Tracked → Option Tracked → Option Tracked
  | [], best => best
  | t :: ts, best =>
    if t.anchored.isSome then staleTracked ts best
    else
      match best with
      | none => staleTracked ts (some t)
      | some b => staleTracked ts (if t.times.headD 0 < b.times.headD 0 then some t else some b)

/-- A move of a page counted (R133, R134): the tracker and the result, 0, ANCHORED or FULL. -/
def State.countMove (s : State) (asid : BitVec 8) (page : Nat) : State × Nat :=
  let p := BitVec.ofNat 45 page
  match s.tracker.find? (fun t => t.asid == asid && t.page == p) with
  | some t =>
    if t.anchored.isSome then (s, 1)
    else
      let times := s.wall :: t.times.filter (fun x => decide (s.wall ≤ x + 11000000))
      let t1 := if 4 ≤ times.length then { t with
          times := []
          anchored := some (s.wall + 110000000)
          told := false }
        else { t with times := times }
      ({ s with tracker := s.tracker.map (fun u => if u == t then t1 else u) }, if t1.anchored.isSome then 1 else 0)
  | none =>
    let new : Tracked := ⟨asid, p, [s.wall], none, false⟩
    if s.tracker.length < 4096 then ({ s with tracker := s.tracker ++ [new] }, 0)
    else
      match staleTracked s.tracker none with
      | some u => ({ s with tracker := s.tracker.erase u ++ [new] }, 0)
      | none => (s, 2)

/-- Whether a command names an address space (R121). -/
def State.invNames (s : State) (w : BitVec 128) (a : BitVec 8) : Bool :=
  if invScope w = 2 then s.asVf a == s.asVf (invAsid w) else a == invAsid w

/-- Whether a command covers a translation (R121). -/
def State.invCovers (s : State) (w : BitVec 128) (e : TlbEntry) : Bool :=
  if invScope w = 0 then e.covers (invAsid w) (invVa w / 4096 * 4096) (invCount w) else s.invNames w e.asid

/-- Pages of a MOVE counted one by one (R133, R134): an anchored one decides RES before one the tracker has no
room for.
DESIGN CHOICE, log entry 122. -/
def State.countMoves (s : State) (pages : List (BitVec 8 × Nat)) : State × Nat :=
  pages.foldl (fun (p : State × Nat) page =>
    let (s', r) := p.1.countMove page.1 page.2
    (s', if p.2 = 1 || r = 1 then 1 else max p.2 r)) (s, 0)

/-- A write of XLT.INV (R121): ignored while a command is busy; one with SCOPE 3, or of no pages, is done at
once.
DEDUCED, log entry 105. -/
def State.invStart (s : State) (w : BitVec 128) : State :=
  if invState s.xltInv = 1 then s
  else if invScope w = 3 || (invScope w = 0 && invCount w = 0) then { s with xltInv := invWord w 2 0 }
  else
    let named := ((List.range 256).map (BitVec.ofNat 8)).filter (s.invNames w)
    let (s1, res) := if invMove w then s.countMoves (s.movedPages w named) else (s, 0)
    { s1.dropTlb (s.invCovers w) with
      xltInv := invWord w 1 res
      invWait := s.usersOf (s.invNames w) }

/-- A command of XLT.INV as it is written (R121). -/
def invCommand (asid : BitVec 8) (va : BitVec 57) (p : InvPages) (move : Bool) : BitVec 128 :=
  0#7 ++ va ++ 0#12 ++ p.count ++ asid ++ 0#5 ++ BitVec.ofBool move ++ p.scope ++ 0#16

/-- XLT_INV_RANGE (R121). -/
def execXltInvRange (asid : BitVec 8) (va : BitVec 57) (count : InvPages) (s : State) :
    Host.Outcome State Fault Refusal :=
  powered s (s.invStart (invCommand asid va count false))

/-- XLT_INV_ASID (R121). -/
def execXltInvAsid (value : BitVec 128) (s : State) : Host.Outcome State Fault Refusal :=
  powered s (s.invStart value)

/-- XLT_INV_VF (R121). -/
def execXltInvVf (value : BitVec 128) (s : State) : Host.Outcome State Fault Refusal :=
  powered s (s.invStart value)

/-- XLT_INV_MOVE (R121, R133). -/
def execXltInvMove (asid : BitVec 8) (va : BitVec 57) (count : InvPages) (s : State) :
    Host.Outcome State Fault Refusal :=
  powered s (s.invStart (invCommand asid va count true))

/-- Whether accesses that an invalidation waits for are over. -/
def State.usersGone (s : State) (ids : List Nat) : Bool :=
  s.flights.all (fun f => !ids.contains f.id || f.lost)

/-- Whether an access in flight may have used a translation of the pages from a page on. -/
def State.onPages (s : State) (f : Flight) (page count : Nat) : Bool :=
  match f.redo with
  | some e =>
    (match e.span s f.c with
     | some (_, rs) => rs.any (fun r => decide (r.1 < 4096 * (page + count)) && decide (4096 * page < r.1 + r.2))
     | none => true)
  | none => true

/-- Whether no access under way uses a translation of the named spaces that has been loaded since the command was
written (R122): none in flight on a page that the command covers, and no row transfer of a stop whose other side has
been translated. -/
def State.noNewUser (s : State) (named : BitVec 8 → Bool) (range : Option (Nat × Nat)) : Bool :=
  !named s.asid
    || (s.flights.all (fun f => f.near || f.xl != .ready || !(match range with
          | some (page, count) => s.onPages f page count
          | none => true))
      && (s.rows.queue ++ s.rows.running).all (fun k => match k.kind with
        | .con _ (.keys _ false) | .wb _ (.keys _ false) => false
        | _ => true))

/-- The pages that a command of SCOPE 0 covers: the first and their number. -/
def invRange (w : BitVec 128) : Option (Nat × Nat) :=
  if invScope w = 0 then some (invVa w / 4096, invCount w) else none

/-- Whether the busy command's work is done (R122). -/
def State.invOver (s : State) : Bool :=
  invState s.xltInv == 1 && s.usersGone s.invWait && s.noNewUser (s.invNames s.xltInv) (invRange s.xltInv)

/-- XLT_INV_COMPLETE (R122): the busy command is done once the accesses that used its entries are, and what has
been loaded since it started is dropped. -/
def execXltInvComplete (s : State) : Host.Outcome State Fault Refusal :=
  powered s (
    if s.invOver then
      { s.dropTlb (s.invCovers s.xltInv) with
        xltInv := setField s.xltInv 62 2 2
        invWait := [] }
    else s)

/-- ANCHOR_EXPIRY (R133): 100 ms after its anchoring a page's count starts again from zero. -/
def execAnchorExpiry (asid : BitVec 8) (page : BitVec 45) (s : State) : Host.Outcome State Fault Refusal :=
  powered s { s with tracker := s.tracker.filter (fun t =>
    !(t.asid == asid && t.page == page && (match t.anchored with | some k => decide (k ≤ s.wall) | none => false))) }

/-! ## Lost links (R135, R224, R251, R267) -/

/-- The OUTCOME_UNKNOWN record of a store (R128, R135). -/
def State.unknownRec (s : State) (f : Flight) (va : Word) : BitVec 512 :=
    (recHeader 0x05 s.asid s.vf s.lrn ||| at' 22 1 ||| at' 64 (va.toNat % 2 ^ 57) ||| at' 128 f.pc.toNat ||| at' 192 1
      ||| at' 320 f.dpa ||| at' 384 (match f.peer with | some p => (s.genOf p).toNat | none => 0))

/-- An access in flight to a peer whose link is lost: a load or an atomic fails, and the outcome of a store
is unknown (R135), the store being held until its record is written (R127).
DESIGN CHOICE, log entry 49. -/
def State.loseFlight (s : State) (f : Flight) : State :=
  let va := s.firstByte f
  if f.hasValue then s.failFlight f Cause.remoteLost (some (xlatWord 3 9 va))
  else
    match f.kind with
    | .store data =>
      let (i, s1) := s.choose 2
      let s2 := if i = 0 then s1.writeKeys f.agent f.keys data else s1
      let bits := s.unknownRec f va
      if s2.recordWaits s2.vf then
        let (token, s3) := s2.holdPage s2.asid va.toNat ⟨0, .fail bits 3 10⟩ .write f.pc (.flight f.id)
        { s3 with flights := s3.flights.map (fun k => if k.id == f.id then { k with xl := .held token va } else k) }
      else (s2.postRec s2.vf bits).endStore f va
    | _ => s

/-- Whether a message goes to a peer module. -/
def State.msgTo (s : State) (m : Msg) (p : Peer) : Bool :=
  match p with
  | .device g =>
    let d := match m.matched with
      | some q => some (s.devOf q.dev)
      | none => if m.anyone then none else some (s.devOf m.dev)
    d == some (g.setWidth 14) && d != some s.ownDev
  | .servex => false

/-- The local address of a chunk stop. -/
def State.chunkAt (s : State) (p : StopRun) : Word :=
  match s.chunkPlace p (chunkLen (s.graph.stop p.stop.toNat)) with
  | .inl a => BitVec.ofNat 64 a
  | .inr v => v

/-- Every step of a scope that this rank has entered fails (R267). -/
def State.failEntered (s : State) (b : Bool) (cause : BitVec 4) : State :=
  (s.scope b).queue.foldl (fun (s : State) _ =>
    match (s.scope b).queue.findIdx? (·.entered) with
    | some i => s.failStep b i cause
    | none => s) s

/-- LINK_GEN_ADVANCE (R135): the generation of a peer's link advances, and what is under way over it fails. -/
def execLinkGenAdvance (peer : Peer) (s : State) : Host.Outcome State Fault Refusal :=
  powered s (
    let s1 := { s with linkGens := (peer, s.genOf peer + 1) :: s.linkGens.filter (fun g => g.1 != peer) }
    let s2 := (s1.flights.filter (fun f => f.xl == .ready && f.peer == some peer)).foldl State.loseFlight s1
    let s3 := (s2.msgs.filter (fun m => s2.msgTo m peer)).foldl (fun (s : State) m =>
      match m.matched with
      | some q => s.msgLand m 6 q.dev q.lrn 0
      | none => s.msgLand m 6 m.dev m.lrn 0) s2
    match peer with
    | .servex => s3
    | .device g =>
      let s3 := { s3 with
        arrivals := s3.arrivals.filter (fun p => s.devOf p.dev == s.ownDev || s.devOf p.dev != g.setWidth 14) }
      let s4 := s3.graph.inProgress.foldl (fun (s : State) p =>
        let b := s.graph.stop p.stop.toNat
        if 4 ≤ stopKind b && stopKind b ≤ 6 && s.devOf (chunkDev b) == g.setWidth 14 && g.setWidth 14 != s.ownDev then
          s.endStop { p with fail := some (5, 0, s.chunkAt p) }
        else s) s3
      if decide (g.toNat < s4.gsize) && g != s4.gpos then s4.failEntered true 2 else s4)

/-! ## The sequencer watchdog (R441 to R444) -/

/-- The SEQ_RESET record (R440) of a command at a key. -/
def State.resetBits (s : State) (q : Fin 4) (lrn : BitVec 10) (pc : Word) (dpa : Nat) (part : Bool) : BitVec 512 :=
    (recHeader 0x07 s.asid s.vf lrn ||| at' 64 (if part then 1 else 0) ||| at' 96 q.1 ||| at' 128 pc.toNat
      ||| at' 192 (keyDpa dpa % 2 ^ 64))

/-- The SEQ_RESET record of a command of this rank's. -/
def State.resetRec (s : State) (q : Fin 4) (pc : Word) (dpa : Nat) (part : Bool) : State :=
  s.postRec s.vf (s.resetBits q s.lrn pc dpa part)

/-- A write whose transfer had begun: each word is old or new, as it happens (R443). -/
def State.partWrite (s : State) (r : Agent) (keys : List Nat) (data : List Byte) : State :=
  ((keys.map wordOf).eraseDups).foldl (fun (s : State) w =>
    let (i, s1) := s.choose 2
    if i = 0 then s1
    else
      let ps := (keys.zip data).filter (fun (p : Nat × Byte) => wordOf p.1 == w)
      s1.writeKeys r (ps.map (·.1)) (ps.map (·.2))) s

/-- A write that a reset fails: its transfer had not begun, or it had (R443). -/
def State.resetWrite (s : State) (r : Agent) (keys : List Nat) (data : List Byte) : State × Bool :=
  if data.isEmpty then (s, false)
  else
    let (i, s1) := s.choose 2
    if i = 0 then (s1, false) else (s1.partWrite r keys data, true)

/-- The sequencer of a quadrant fails an access that it had in its queue: not performed, or its write begun
(R443). -/
def State.resetFlight (s : State) (q : Fin 4) (f : Flight) : State :=
  let (i, s1) := s.choose 2
  let k := f.dpa
  match f.kind with
  | .load _ => (s1.resetRec q f.pc k false).failFlight f Cause.seqReset none
  | .store data =>
    let (s2, part) := s.resetWrite f.agent f.keys data
    (s2.resetRec q f.pc k part).failFlight f Cause.seqReset none
  | .atomic _ _ _ _ _ | .compare _ _ _ =>
    let s2 := if i = 0 then s1 else s1.perform { f with
      dest := none
      orphan := true }
    (s2.resetRec q f.pc k (i != 0)).failFlight f Cause.seqReset none
  | _ => s1

/-- What happens to something that may or may not be in the sequencer's queue. -/
def State.maybe (s : State) (go : State → State) : State :=
  let (i, s1) := s.choose 2
  if i = 0 then s1 else go s1

/-- The place of an element in the port areas of a quadrant, in its rank's lot or through its page tables: its address,
its key, and whether it is written. -/
def State.elemInPort (s : State) (q : Nat) (write : Bool) (x : ElemAt) : List (Nat × Nat × Bool) :=
  let at' := fun (a : Nat) (k : Option Nat) => match k with
    | some k => if portKey q k then [(a, k, write)] else []
    | none => []
  match x with
  | .near a => at' a (s.nearKey a)
  | .global a => at' a (s.peekKey s.asid a)
  | _ => []

/-- The places at which a stop that is not held may have a command in the port areas of a quadrant: the next element of a
copy or a fill, the other side of a row element that is under way, or the local bytes of a chunk stop (R443). -/
def State.stopInPort (s : State) (q : Nat) (p : StopRun) : List (Nat × Nat × Bool) :=
  let b := s.graph.stop p.stop.toNat
  if p.fail.isSome || p.token.isSome then []
  else if stopKind b < 2 then
    match s.elemPlaces (s.run p.run) b p.element with
    | .inl (src, dst) =>
      if dst.isRow || src.any (·.isRow) then
        if p.phase = 2 && s.rowsOf p then
          (match rowSide src dst with
           | (_, con, some x) => s.elemInPort q con x
           | _ => [])
        else []
      else src.toList.flatMap (s.elemInPort q false) ++ s.elemInPort q true dst
    | .inr _ => []
  else if stopKind b = 4 && p.phase = 1 then []
  else if 4 ≤ stopKind b && stopKind b ≤ 6 then
    match s.chunkPlace p (chunkLen b) with
    | .inl a => s.elemInPort q (decide (stopKind b ≠ 4)) (.near a)
    | .inr _ => []
  else []

/-- The write of a stop, which a reset fails (R443): of a copy's or a fill's next element, of a row element's bytes, or of
the oldest chunk that a chunk stop takes. -/
def State.resetElem (s : State) (p : StopRun) : State × Bool :=
  let b := s.graph.stop p.stop.toNat
  let c := (s.run p.run).c
  if 4 ≤ stopKind b then
    match s.graph.chunks.find? (s.takesChunk p), s.chunkPlace p (chunkLen b) with
    | some k, .inl a =>
      let n := min k.data.length (chunkLen b)
      let ks := s.nearKeys a n
      let (bs, s1) := s.combineChunk b (ks.map s.mem.byteAt) k.data
      s1.resetWrite ⟨c.1, .c, true⟩ ks bs
    | _, _ => (s, false)
  else if p.phase = 2 then
    match s.rows.running.find? (fun k => k.owner == .stop p.run p.stop) with
    | some k =>
      (match k.kind with
       | .con _ (.keys ks near) => s.resetWrite ⟨c.1, .r, near⟩ ks k.data
       | _ => (s, false))
    | none => (s, false)
  else
  match s.elemPlaces (s.run p.run) b p.element with
  | .inl (src, dst) =>
    match s.reach p c dst (stopSize b) .write, s.moveElem p c b src dst with
    | .keys ks _, .done s1 => s.resetWrite ⟨c.1, .g, dst.isNear⟩ ks (ks.map s1.mem.byteAt)
    | _, _ => (s, false)
  | .inr _ => (s, false)

/-- A stop with a command in the queue of a sequencer that is reset: at one of its places, it fails (R443). -/
def State.resetStop (s : State) (q : Fin 4) (p : StopRun) (places : List (Nat × Nat × Bool)) : State :=
  let (i, s1) := s.choose places.length
  let (a, k, write) := places.getD i (0, 0, false)
  let (s2, part) := if write then s1.resetElem p else (s1, false)
  let s3 := s2.resetRec q 0 k part
  let p1 := { p with fail := some (15, 0, BitVec.ofNat 64 a) }
  if p.phase = 2 then (s3.putStop p1).failRuns else s3.endStop p1

/-- A message whose side at this rank lies in the lot, with a command in the queue: it lands with code 7; of a RECV's
bytes some words may be in place (R443). -/
def State.resetMsg (s : State) (q : Fin 4) (m : Msg) : State :=
  let data := match m.kind, m.matched with
    | .recv, some p => p.data.take m.len
    | _, _ => []
  let (s1, part) := s.resetWrite ⟨m.c.1, .c, true⟩ (s.nearKeys m.laddr.toNat data.length) data
  (s1.resetRec q 0 ((s.nearKey m.laddr.toNat).getD 0) part).msgLand m 7 m.dev m.lrn 0

/-- A step in progress of a scope that a reset may fail: one that reads its source in the lot, or writes its
destination there; what it has written is poisoned with the rest of it (R269, R443). -/
def State.resetStep (s : State) (q : Fin 4) (b : Bool) : State :=
  match (s.scope b).queue.zipIdx.find? (fun p => p.1.entered && p.1.inside) with
  | none => s
  | some (r, i) =>
    match r.kind with
    | .coll run _ =>
      (match (s.run run).coll with
       | none => s
       | some cr =>
         let plan := s.collPlan cr.op cr.ty cr.desc cr.counts
         match (s.bufferKeys (if r.srcFree then plan.dst else plan.src)).find? (portKey q.1) with
         | none => s
         | some k =>
           s.maybe (fun s =>
             let (j, s1) := s.choose 2
             (s1.resetRec q cr.pc k (r.srcFree && j != 0)).failStep b i 1))
    | _ => s

/-- Groups pushed to a stream whose write the sequencer may have in its queue: lost, with SEQ_RESET, some of their words
perhaps in place (R238, R443). -/
def State.groupsInPort (s : State) (q : Nat) (b : Stream) : Option Nat :=
  if b.out && 0 < s.writable b then
    match b.groupElems ((b.buf.head?.map (·.idx)).getD 0) with
    | e :: _ =>
      let a := (b.elem e).1.toNat
      (if b.near then s.nearKey a else s.peekKey s.asid a).filter (portKey q)
    | [] => none
  else none

/-- The groups lost. -/
def State.resetGroups (s : State) (q : Fin 4) (b : Stream) : State :=
  match s.groupsInPort q.1 b with
  | none => s
  | some key =>
    s.maybe (fun s =>
      let k := s.writable b
      let (s1, part) := match s.groupBytes b k false with
        | .inr w => w.2.resetWrite ⟨b.c.1, .g, b.near⟩ w.1.keys w.1.bytes
        | .inl _ => (s, false)
      (s1.resetRec q ((b.buf.head?.map (·.pc)).getD b.pc) key part).dropGroups b k Cause.seqReset none)

/-- A command of an outside request in the queue fails: what it was to write may have begun (R443). -/
def State.resetReq (s : State) (q : Fin 4) (g : GateReq) : State :=
  let data := match g.what with
    | .read => []
    | .write bs => bs
    | .atomic a => (outApply a (natOfBytes (g.keys.map s.mem.byteAt))).getD []
  let (s1, part) := s.resetWrite ⟨11, .o, false⟩ g.keys data
  ((s1.postRec g.req.vf (s1.resetBits q 0x3FF 0 (g.keys.headD 0) part)).reply g.req .seqReset [])

/-- The commands of outside requests that a sequencer has in its queue. -/
def State.reqsInPort (s : State) (q : Nat) : List GateReq :=
  s.gate.filter (fun g => g.inQueue && (g.keys.head?.map (portKey q)).getD false)

/-- Whether a sequencer may hold a port-area command of this rank's or of an outside request (R442). -/
def State.portQueued (s : State) (q : Fin 4) : Bool :=
  !(s.reqsInPort q.1).isEmpty
    || s.flights.any (fun f => f.xl == .ready && (f.keys.head?.map (portKey q.1)).getD false)
    || s.graph.inProgress.any (fun p => !(s.stopInPort q.1 p).isEmpty)
    || s.graph.streams.any (fun b => (s.groupsInPort q.1 b).isSome)
    || (quadrantOf s.party.site == q.1
      && (s.msgs.any (fun m => m.kind != .mcmd && decide (0x8000000 ≤ m.laddr.toNat))
        || [false, true].any (fun b => (s.scope b).queue.any (fun r => r.entered && r.inside
          && (match r.kind with | .coll _ _ => true | _ => false)))))

/-- Whether a watchdog is on, and its sequencer holds a command and has completed none for LIMIT (R442). -/
def State.wdogDue (s : State) (q : Fin 4) : Bool :=
  let k := s.seq q
  !k.resetting && k.wdog.getLsbD 48 && decide (k.lastDone + (k.wdog.extractLsb' 0 20).toNat * 1100 ≤ s.wall)
    && s.portQueued q

/-- SEQ_WDOG_RESET (R442, R443): a hung sequencer is reset, and the port-area commands in its queue fail;
which of those under way were in the queue is not specified.
DEDUCED, log entry 137. -/
def execSeqWdogReset (q : Fin 4) (s : State) : Host.Outcome State Fault Refusal :=
  powered s (
    if !s.wdogDue q then s
    else
      let s1 := s.modSeq q (fun k =>
        { wdog := setField k.wdog 32 16 ((k.wdog.extractLsb' 32 16).toNat + 1), resetting := true, resetStart := s.now,
          lastDone := s.wall })
      let s2 := (s1.flights.filter (fun f => f.xl == .ready && ((f.keys.head?.map (portKey q.1)).getD false))).foldl
        (fun (s : State) f => s.maybe (fun s => s.resetFlight q f)) s1
      let s3 := s2.graph.inProgress.foldl (fun (s : State) p =>
        match s.stopInPort q.1 p with
        | [] => s
        | places => s.maybe (fun s => s.resetStop q p places)) s2
      let s3 := s3.graph.streams.foldl (fun (s : State) b => s.resetGroups q b) s3
      let lost := s3.reqsInPort q.1
      let s3 := lost.foldl (fun (s : State) g => s.resetReq q g) { s3 with gate := s3.gate.filter (fun g => !lost.contains g) }
      if quadrantOf s.party.site ≠ q.1 then s3
      else
        let s4 := s3.msgs.foldl (fun (s : State) m =>
          if m.kind != .mcmd && decide (0x8000000 ≤ m.laddr.toNat) then
            s.maybe (fun s => s.resetMsg q m)
          else s) s3
        (s4.resetStep q false).resetStep q true)

/-- SEQ_RESET_END (R442). -/
def execSeqResetEnd (q : Fin 4) (s : State) : Host.Outcome State Fault Refusal :=
  powered s (if (s.seq q).resetting then s.modSeq q (fun k => { k with resetting := false, lastDone := s.wall }) else s)

/-- SEQ_RESET_HOLD_TIMEOUT (R444): the `n`-th request, held by a reset for 2 ms since its arrival. -/
def execSeqResetHoldTimeout (n : Nat) (s : State) : Host.Outcome State Fault Refusal :=
  powered s (
    match s.gate[n]? with
    | some g =>
      if !g.admitted && s.waitsReset g && decide (g.arrived + 2200000 ≤ s.wall) then
        { s with gate := s.gate.eraseIdx n }.reply g.req .seqReset []
      else s
    | none => s)

end Sys2Proof.Machine
end

