-- ==== Sys2Proof/Machine/Launch.lean ====
section
/-! DEFINITION. Launch packets, outings and tickets (R415 to R423), dispatch (R424 to R427, R430, R431, R475),
zeroing (R138), pre-emption (R173, R243, R270, R305, R391, R413, R429) and the forecast (R432). -/

namespace Sys2Proof.Machine

/-! ## Launch packets (R415, R416) -/

def pkVf (p : BitVec 512) : BitVec 6 := p.extractLsb' 16 6
def pkAsid (p : BitVec 512) : BitVec 8 := p.extractLsb' 8 8
def pkWeight (p : BitVec 512) : Nat := (p.extractLsb' 33 8).toNat
def pkPrio (p : BitVec 512) : Nat := (p.extractLsb' 31 2).toNat
def pkRanks (p : BitVec 512) : Nat := (p.extractLsb' 41 10).toNat
def pkCarve (p : BitVec 512) : Nat := (p.extractLsb' 51 10).toNat
def pkLot (p : BitVec 512) : Nat := (p.extractLsb' 61 18).toNat
def pkRows (p : BitVec 512) : Nat := (p.extractLsb' 79 14).toNat
def pkGrpid (p : BitVec 512) : Nat := (p.extractLsb' 93 16).toNat
def pkGpos (p : BitVec 512) : Nat := (p.extractLsb' 109 13).toNat
def pkGsize (p : BitVec 512) : Nat := (p.extractLsb' 122 14).toNat
def pkCount (p : BitVec 512) : Nat := (p.extractLsb' 136 24).toNat
def pkOuting (p : BitVec 512) : BitVec 32 := p.extractLsb' 160 32
def pkEntry (p : BitVec 512) : Word := p.extractLsb' 256 64
def pkRegimg (p : BitVec 512) : Word := p.extractLsb' 320 64
def pkParam (p : BitVec 512) : Word := p.extractLsb' 384 64
def pkCompl (p : BitVec 512) : Word := p.extractLsb' 448 64

/-- Whether dependence `k` is given, and the outing it names. -/
def pkDepV (p : BitVec 512) (k : Nat) : Bool := p.getLsbD (29 + k)
def pkDep (p : BitVec 512) (k : Nat) : BitVec 32 := p.extractLsb' (192 + 32 * k) 32

/-- The reason a packet is rejected for, 0 for none (R416). -/
def launchReason (p : BitVec 512) : Nat :=
  if 1048576 < pkCount p then 1
  else if pkRanks p = 0 || 1013 < pkRanks p then 2
  else if 512 < pkCarve p || 131072 < pkLot p || pkLot p % 4 != 0 || 8192 < pkRows p then 3
  else if pkGsize p = 0 || pkGsize p ≤ pkGpos p || (pkGrpid p != 0 && pkGsize p == 1) then 4
  else if p.extractLsb' 22 7 != 0 || p.extractLsb' 0 8 != 0 || (pkEntry p).toNat % 4 != 0
      || (pkCompl p).toNat % 32 != 0 then 5
  else 0

/-- Whether an outing of a VF under an id is still queued or running. -/
def State.outingLive (s : State) (vf : BitVec 6) (id : BitVec 32) : Bool :=
  s.sched.outings.any (fun o => o.vf == vf && o.id == id && o.state != .done)

/-- The reason the management core refuses a packet for, 0 for none (R416). -/
def State.refusal (s : State) (p : BitVec 512) : Nat :=
  if !(s.asRec (pkAsid p)).getLsbD 0 || s.asVf (pkAsid p) != pkVf p then 1
  else if s.outingLive (pkVf p) (pkOuting p) then 2
  else if (pkDepV p 0 && pkDep p 0 == pkOuting p) || (pkDepV p 1 && pkDep p 1 == pkOuting p) then 3
  else if 129024 < pkLot p && s.sched.saveHost == 0 then 4
  else 0

/-! ## Signed images (R84, R460) -/

/-- A field of an image's file: `n` bits from a bit of the entry at a byte. -/
def imageBits (i : LoiImage) (entry bit n : Nat) : Nat :=
  natOfBytes ((i.file.drop (entry + bit / 8)).take ((bit % 8 + n + 7) / 8)) / 2 ^ (bit % 8) % 2 ^ n

/-- The header's SIGNED and SIGOFF (R78), the bytes that the digest covers, and the signature block (R84). -/
def imageSigned (i : LoiImage) : Bool := imageBits i 0 50 1 == 1
def imageSigOff (i : LoiImage) : Nat := imageBits i 0 384 32
def imageCovered (i : LoiImage) : List Byte := i.file.take (imageSigOff i)
def imageBlock (i : LoiImage) : BitVec 1024 := BitVec.ofNat 1024 (natOfBytes ((i.file.drop (imageSigOff i)).take 128))

/-- Whether every entry of a table meets a test: the table's offset, its entries and their size. -/
def tableAll (off count size : Nat) (ok : Nat → Bool) : Bool :=
  (List.range count).all (fun k => ok (off + size * k))

/-- Whether an image has the format that a loader takes (R78 to R82, R84): MAGIC and VER, no reserved field set and no
reserved type. -/
def imageSound (i : LoiImage) : Bool :=
  imageBits i 0 0 32 == 0x00494F4C && imageBits i 0 32 16 == 1 && imageBits i 0 51 13 == 0 && imageBits i 0 176 16 == 0
    && imageBits i 0 448 64 == 0
    && tableAll (imageBits i 0 128 32) (imageBits i 0 160 16) 32 (fun e => imageBits i e 59 5 == 0)
    && tableAll (imageBits i 0 192 32) (imageBits i 0 224 32) 24 (fun e => imageBits i e 56 8 == 0)
    && tableAll (imageBits i 0 256 32) (imageBits i 0 288 32) 24 (fun e => imageBits i e 96 32 == 0
      && imageBits i e 56 8 == 0 && 1 ≤ imageBits i e 48 8 && imageBits i e 48 8 ≤ 5)
    && (!imageSigned i || imageBits i (imageSigOff i) 832 192 == 0)

/-- The parts of a signature block (R84). -/
def loiKeyId (b : BitVec 1024) : Word := b.extractLsb' 768 64
def loiSig (b : BitVec 1024) : BitVec 512 := b.extractLsb' 0 512

/-- The keys of the trusted slots that an identifier names: fused and not revoked (R460). -/
def State.trustedKeys (s : State) (id : Word) : List (BitVec 256) :=
  s.house.keys.zipIdx.filterMap (fun k =>
    match k.1 with
    | some (i, key) => if i == id && k.2 < 8 && !s.house.secPolicy.getLsbD (8 + k.2) then some key else none
    | none => none)

/-- Whether the loader takes an image (R78, R460): a sound one, where none need be signed; else one whose signature of
the digest of its covered bytes verifies under a trusted key that its KEYID names, whatever PUBKEY holds.
DEDUCED, log entry 125. -/
def State.imageTaken (s : State) (i : LoiImage) : Bool :=
  imageSound i && (!s.house.secPolicy.getLsbD 0
    || (imageSigned i && (s.trustedKeys (loiKeyId (imageBlock i))).any (fun key =>
      Config.verify key (sha512 (imageCovered i)) (loiSig (imageBlock i)))))

/-- Whether a packet of a program may start: its image lies in its address space, where the loader has put one that it
took, as it has in the program's own (R460).
DEDUCED, log entry 125. -/
def State.imageLoaded (s : State) (asid : BitVec 8) : Bool :=
  !s.house.secPolicy.getLsbD 0 || asid == s.asid || s.sched.loaded.contains asid

/-! ## Outings (R417, R420, R421) -/

def State.modSched (s : State) (f : Scheduler → Scheduler) : State := { s with sched := f s.sched }

def State.putOuting (s : State) (i : Nat) (o : Outing) : State :=
  s.modSched (fun k => { k with outings := setNth i o k.outings })

/-- The first 4,096 entries of a VF, and every entry of the others (R421). -/
def trimRecent (vf : BitVec 6) : Nat → List (BitVec 6 × BitVec 32 × BitVec 8) → List (BitVec 6 × BitVec 32 × BitVec 8)
  | _, [] => []
  | 0, x :: xs => if x.1 == vf then trimRecent vf 0 xs else x :: trimRecent vf 0 xs
  | n + 1, x :: xs => if x.1 == vf then x :: trimRecent vf n xs else x :: trimRecent vf (n + 1) xs

/-- An outing completes with a STATUS and a REASON (R417). -/
def State.complete (s : State) (i : Nat) (status : BitVec 8) (reason : BitVec 16) : State :=
  match s.sched.outings[i]? with
  | none => s
  | some o =>
    (s.putOuting i { o with
      state := .done
      status := status
      reason := reason
      time := s.now }).modSched (fun k =>
        { k with recent := trimRecent o.vf 4096 ((o.vf, o.id, status) :: k.recent) })

/-- How a dependence stands (R421): none while the outing it names is queued or running; otherwise whether
it is satisfied. -/
def State.depOf (s : State) (vf : BitVec 6) (id : BitVec 32) : Option Bool :=
  if s.outingLive vf id then none
  else
    match s.sched.recent.find? (fun r => r.1 == vf && r.2.1 == id) with
    | some r => some (decide (r.2.2.toNat ≤ 1))
    | none => some true

/-- What an outing's dependences come to: still open, ready, or the number of one that failed. -/
inductive DepEnd where
  | wait
  | ready
  | failed (k : Nat)
  deriving DecidableEq, Repr

/-- How one of an outing's dependences stands: one that has been satisfied stays so, whatever its id names later. -/
def State.depAt (s : State) (o : Outing) (k : Nat) : Option Bool :=
  if !pkDepV o.packet k || (if k = 0 then o.met.1 else o.met.2) then some true else s.depOf o.vf (pkDep o.packet k)

def State.depsOf (s : State) (o : Outing) : DepEnd :=
  if s.depAt o 0 == some false then .failed 0
  else if s.depAt o 1 == some false then .failed 1
  else if s.depAt o 0 == some true && s.depAt o 1 == some true then .ready else .wait

/-- The dependences that are satisfied by now noted. -/
def State.noteMet (s : State) : State :=
  s.modSched (fun k => { k with outings := k.outings.map (fun o =>
    if o.state == .waiting then { o with met := (s.depAt o 0 == some true, s.depAt o 1 == some true) } else o) })

/-- The first outing that waits and whose dependences are settled. -/
def State.settledOuting (s : State) : Option (Outing × Nat) :=
  s.sched.outings.zipIdx.find? (fun (p : Outing × Nat) => p.1.state == .waiting && s.depsOf p.1 != .wait)

/-- Outings whose dependences are settled enter their queue or complete with DEPFAIL (R421). -/
def State.settleDeps (s0 : State) : Nat → State
  | 0 => s0
  | n + 1 =>
    let s := s0.noteMet
    match s.settledOuting with
    | none => s
    | some (o, i) =>
      match s.depsOf o with
      | .ready =>
        (s.putOuting i { o with
          state := .ready
          agedAt := s.wall
          readyAt := s.wall }).settleDeps n
      | .failed k => (s.complete i 5 (BitVec.ofNat 16 k)).settleDeps n
      | .wait => s

/-- An outing as a packet names it at a time.
DEDUCED, log entry 92. -/
def Outing.ofPacket (p : BitVec 512) (now : Nat) (state : OutingState) (status : BitVec 8) (reason : Nat) : Outing :=
  { vf := pkVf p, id := pkOuting p, packet := p, state := state, met := (false, false), cls := pkPrio p, agedAt := 0,
    readyAt := 0, begun := 0, done := [], ended := 0, failed := 0, first := 0, reason := BitVec.ofNat 16 reason,
    status := status, time := now, recorded := false, token := none }

def State.addOuting (s : State) (o : Outing) : State := s.modSched (fun k => { k with outings := k.outings ++ [o] })

/-- A packet that passes R416's table comes before the management core: refused, refused for its image, empty, or an
outing.
DESIGN CHOICE, log entry 133. -/
def State.submit (s : State) (p : BitVec 512) (image : Bool) : State :=
  let i := s.sched.outings.length
  if s.refusal p ≠ 0 then s.addOuting (.ofPacket p s.now .done 4 (s.refusal p))
  else if !image then s.bump.addOuting (.ofPacket p s.now .done 4 (Config.freeWord s.tick).toNat)
  else if pkCount p = 0 then ((s.addOuting (.ofPacket p s.now .waiting 0 0)).complete i 1 0).settleDeps (i + 1)
  else (s.addOuting (.ofPacket p s.now .waiting 0 0)).settleDeps (i + 1)

/-- An address space into which the loader has put an image. -/
def State.noteImage (s : State) (asid : BitVec 8) : State :=
  if s.sched.loaded.contains asid then s else s.modSched (fun k => { k with loaded := asid :: k.loaded })

/-- LAUNCH_PACKET (R416, R460): a packet for an image arrives over Servex; one whose image the loader does not take
is refused, with a REASON that no rule gives.
DESIGN CHOICE, log entry 133. -/
def execLaunchPacket (bits : LaunchArrival) (s : State) : Host.Outcome State Fault Refusal :=
  let p := bits.bits
  powered s (
    if launchReason p ≠ 0 then s.addOuting (.ofPacket p s.now .done 3 (launchReason p))
    else
      let taken := s.imageTaken bits.image
      let s1 := s.submit p taken
      if taken && s.refusal p == 0 then s1.noteImage (pkAsid p) else s1)

/-- An outing's status word: bits [63:0] of its completion record (R417).
DEDUCED, log entry 96. -/
def Outing.word (o : Outing) : Word :=
  BitVec.ofNat 64 (1 + o.status.toNat * 2 ^ 40 + o.reason.toNat * 2 ^ 48)

/-- The completion record (R417). -/
def Outing.recordBits (o : Outing) : Nat :=
  o.word.toNat + o.first * 2 ^ 64 + o.ended * 2 ^ 96 + o.failed * 2 ^ 128 + o.id.toNat * 2 ^ 160
    + o.time % 2 ^ 64 * 2 ^ 192

/-- The completion record of an outing that is done, written at COMPL, held, or replaced by a LAUNCH record
(R417).
DEDUCED, log entry 95. -/
def State.writeCompletion (s : State) (i : Nat) (o : Outing) : State :=
  match s.translate (pkAsid o.packet) (pkCompl o.packet) 32 .outWrite false 0 with
  | (.ok ks _ _, s1) =>
    (s1.writeKeys ⟨11, .o, false⟩ ks (bytesOfNat 32 o.recordBits)).recordOuting i
  | (.absent va h, s1) =>
    let (token, s2) := s1.holdPage (pkAsid o.packet) va h .outWrite 0 (.outing i)
    s2.putOuting i { o with token := some token }
  | (.fail f r _, s1) => (s1.launchRec o f r).recordOuting i

/-- Whether this rank runs a part of an outing. -/
def State.runsOuting (s : State) (o : Outing) : Bool :=
  (s.party.bound || s.party.ending.isSome) && s.vf == o.vf && pkOuting s.party.packet == o.id

/-- Whether a part of an outing is saved off this rank (R429). -/
def State.savedOuting (s : State) (o : Outing) : Bool :=
  s.sched.saved.any (fun v => pkVf v.party.packet == o.vf && pkOuting v.party.packet == o.id)

/-- The parts of an outing that ran on other ranks have ended: how many failed, which first and why is
theirs (R420). The first is none that ended here, and as many as failed lie from it on.
DESIGN CHOICE, log entry 94. -/
def State.endElsewhere (s : State) (o : Outing) : Outing × State :=
  let left := pkCount o.packet - o.ended
  let (k, s1) := s.choose (left + 1)
  if k = 0 then ({ o with ended := pkCount o.packet }, s1)
  else
    let (n, s2) := s1.choose (left + 1 - k)
    let f := ((List.range (pkCount o.packet)).filter (fun i => !o.done.contains i)).getD n 0
    let (c, s3) := s2.choose 30
    ({ o with
        ended := pkCount o.packet
        failed := o.failed + k
        first := if o.failed = 0 then f else min o.first f
        reason := if o.failed = 0 || f < o.first then BitVec.ofNat 16 (c + 1) else o.reason }, s3)

/-- Whether an outing in its queue or running may complete now: no part of it is bound here or saved. -/
def State.canComplete (s : State) (o : Outing) : Bool :=
  (o.state == .ready || o.state == .running) && !s.runsOuting o && !s.savedOuting o

/-- An outing completes, OK or FAILED, and those that depend on it are looked at again (R420, R421). -/
def State.finishOuting (s : State) (i : Nat) (o : Outing) : State :=
  let (o1, s1) := if o.ended < pkCount o.packet then s.endElsewhere o else (o, s)
  let n := s1.sched.outings.length
  if o1.failed = 0 then ((s1.putOuting i o1).complete i 0 0).settleDeps n
  else ((s1.putOuting i o1).complete i 2 o1.reason).settleDeps n

/-- The outing of an id whose completion or record is next: one that is done and not recorded, else one
that may complete. -/
def State.nextRecord (s : State) (vf : BitVec 6) (id : BitVec 32) : Option (Outing × Nat) :=
  let os := s.sched.outings.zipIdx.filter (fun (p : Outing × Nat) => p.1.vf == vf && p.1.id == id)
  match os.find? (fun (p : Outing × Nat) => p.1.state == .done && !p.1.recorded && p.1.token.isNone) with
  | some p => some p
  | none => os.find? (fun (p : Outing × Nat) => s.canComplete p.1)

/-- OUTING_COMPLETE (R417): an outing whose parts have all ended completes, and its record is written last. -/
def execOutingComplete (vf : BitVec 6) (outing : BitVec 32) (s : State) : Host.Outcome State Fault Refusal :=
  powered s (
    match s.nextRecord vf outing with
    | none => s
    | some (o, i) =>
      let s1 := if o.state == .done then s else s.finishOuting i o
      match s1.sched.outings[i]? with
      | some o1 => s1.writeCompletion i o1
      | none => s1)

/-! ## LAUNCH, OWAIT and OPOLL (R418, R419) -/

/-- LAUNCH_RANGE's TRAP.INFO (R419). -/
def launchInfo (r : Nat) (a : Word) : Word := reasonInfo r (a &&& 0xFFFFFFFF)

/-- The lowest free ticket. -/
def State.freeTicket (s : State) : Option Nat :=
  (List.range 32).find? (fun t => (s.sched.tickets.toList.getD t none).isNone)

/-- The class of the rank's party: its outing's, as ageing has left it (R422). -/
def State.partyCls (s : State) : Nat :=
  match s.sched.outings.find? (fun o => o.packet == s.party.packet && o.state == .running) with
  | some o => o.cls
  | none => pkPrio s.party.packet

/-- A packet with its class made no more urgent than one (R419). -/
def pkLimit (p : BitVec 512) (cls : Nat) : BitVec 512 := if pkPrio p < cls then setField p 31 2 cls else p

def bodyLaunch : Body := fun c e s =>
  let a := e.opA s c
  match s.freeTicket with
  | none => .stay s
  | some t =>
    if s.loadWaits c then .stay s
    else if a.toNat % 64 != 0 then .trap Cause.misaligned a none
    else if !s.spadOk a.toNat 64 then .trap Cause.nearBounds a none
    else
      let ks := s.nearKeys a.toNat 64
      if s.poisonedAt ks then e.badDescriptor s c
      else
        let (bs, s1) := s.readKeys ⟨c.1, .s, true⟩ ks
        let p := BitVec.ofNat 512 (natOfBytes bs)
        if launchReason p ≠ 0 then .trap Cause.launchRange (launchInfo (launchReason p) a) none
        else if pkVf p != s.vf then .trap Cause.launchRange (launchInfo 6 a) none
        else
          let k : Ticket := ⟨c, s.sched.outings.length⟩
          .done (e.toFd (BitVec.ofNat 64 t))
            ((s1.modSched (fun q => { q with tickets := setAt q.tickets t (some k) })).submit
              (pkLimit p s.partyCls) (s.imageLoaded (pkAsid p)))

/-- The ticket an operand names, of the issuing context, and its outing; the NEAR_BOUNDS value otherwise. -/
def Entry.ticketOf (e : Entry) (s : State) (c : Fin 11) : (Nat × Outing) ⊕ Word :=
  let v := e.opA s c
  if 31 < v.toNat then .inr v
  else
    match s.sched.tickets.toList.getD v.toNat none with
    | some k =>
      if k.owner != c then .inr v
      else
        match s.sched.outings[k.outing]? with
        | some o => .inl (v.toNat, o)
        | none => .inr v
    | none => .inr v

/-- What a context sees once an outing of its is done: the writes of ranks elsewhere, acquired (R419). -/
def State.sawOuting (s : State) (c : Fin 11) : State :=
  s.modUnseen (fun u => if 11 ≤ u.writer then u.view (agentsOf c.1 allClasses [false]) else u)

def State.freeTicketOf (s : State) (t : Nat) : State :=
  s.modSched (fun q => { q with tickets := setAt q.tickets t none })

def bodyOwait : Body := fun c e s =>
  match e.ticketOf s c with
  | .inr v => .trap Cause.nearBounds v none
  | .inl (t, o) =>
    if o.recorded then .done (e.toFd o.word) ((s.freeTicketOf t).sawOuting c) else .stay s

def bodyOpoll : Body := fun c e s =>
  match e.ticketOf s c with
  | .inr v => .trap Cause.nearBounds v none
  | .inl (t, o) =>
    if o.recorded then .done (e.truth true) ((s.freeTicketOf t).sawOuting c) else .done (e.truth false) s

/-! ## The queue and the quantum (R422, R423) -/

/-- QUEUE_AGING (R422): an outing that has waited 8 ms in its class moves one class up. -/
def execQueueAging (vf : BitVec 6) (outing : BitVec 32) (s : State) : Host.Outcome State Fault Refusal :=
  powered s (s.modSched (fun k => { k with outings := k.outings.map (fun o =>
    if o.vf == vf && o.id == outing && o.state == .ready && 0 < o.cls
        && decide (o.agedAt + 8800000 ≤ s.wall) then
      { o with
        cls := o.cls - 1
        agedAt := s.wall }
    else o) }))

/-- Whether an outing of a class or a more urgent one waits for sites. -/
def State.outingWaits (s : State) (cls : Nat) : Bool :=
  s.sched.outings.any (fun o => (o.state == .ready || o.state == .running) && decide (o.begun < pkCount o.packet)
    && decide (o.cls ≤ cls))

/-- QUANTUM_EXPIRY (R423): after a quantum the party may be pre-empted for a ready party of its class or a
more urgent one. -/
def execQuantumExpiry (s : State) : Host.Outcome State Fault Refusal :=
  powered s (
    if s.party.bound && decide (s.party.boundAt + s.sched.quantum.toNat * 1100 ≤ s.wall)
        && s.outingWaits s.partyCls then s.preempt
    else s)

/-- SCHED_QUANTUM_WRITE (R423): microseconds, the nearest of 100 and 100,000 outside them. -/
def execSchedQuantumWrite (value : Word) (s : State) : Host.Outcome State Fault Refusal :=
  powered s (s.modSched (fun k =>
    { k with quantum := BitVec.ofNat 20 (min 100000 (max 100 (value.extractLsb' 0 20).toNat)) }))

/-- FCAST_WRITE (R432). -/
def execFcastWrite (island : Fin 24) (value : Word) (s : State) : Host.Outcome State Fault Refusal :=
  powered s (s.modSched (fun k => { k with fcast := k.fcast.set island.1 (value &&& 0x0000FFFF00FFFFFF) island.2 }))

/-! ## The slot table (R424, R426, R431) -/

def recState (r : BitVec 256) : Nat := (r.extractLsb' 0 2).toNat
def recSeq (r : BitVec 256) : Nat := (r.extractLsb' 96 16).toNat
def recLrn (r : BitVec 256) : BitVec 10 := r.extractLsb' 112 10
def recRowBase (r : BitVec 256) : Nat := (r.extractLsb' 150 14).toNat
def recLotBase (r : BitVec 256) : Nat := (r.extractLsb' 164 28).toNat
def recInst (r : BitVec 256) : Nat := (r.extractLsb' 204 20).toNat
def recPnum (r : BitVec 256) : BitVec 32 := r.extractLsb' 224 32

/-- The record of a slot; zero where none has been written. -/
def State.slotRecord (s : State) (site : BitVec 10) (slot : Fin 12) : BitVec 256 :=
  match s.sched.slotTable.find? (fun e => e.1 == (site.toNat, slot.1)) with
  | some e => e.2
  | none => 0

/-- Whether a layer of this rank's column has had a debt of 8 that has not returned to 0 (R431).
DEDUCED, log entry 126. -/
def State.indebted (s : State) : Bool := s.rows.layers.toList.any (·.deep)

/-- Whether a record of a site may name a number of an address space (R427): none other holds it, neither a rank bound
at another site nor a party saved off this rank under another number. -/
def State.mayName (s : State) (asid : BitVec 8) (site : BitVec 10) (r : BitVec 256) : Bool :=
  s.rankMap.all (fun e => !(e.1 == asid && e.2.1 == recLrn r) || e.2.2 == some site || e.2.2.isNone)
    && s.sched.saved.all (fun v => !(pkAsid v.party.packet == asid && recLrn v.party.record == recLrn r)
      || recPnum v.party.record == recPnum r)

/-- What a record of another site says of its party's rank (R108, R424, R427): running there, saved, or, free, no
longer held, as the record that it replaces named it; a ready one leaves the map as it is, and so does one that names a
number which another rank holds. -/
def State.mapRecord (s : State) (asid : BitVec 8) (site : BitVec 10) (old r : BitVec 256) : State :=
  let others := s.rankMap.filter (fun e => !(e.1 == asid && e.2.1 == recLrn r))
  match recState r with
  | 0 =>
    let gone := if recState old = 0 then recLrn r else recLrn old
    { s with rankMap := s.rankMap.filter (fun e => e != (asid, gone, some site)) }
  | 2 => if s.mayName asid site r then { s with rankMap := (asid, recLrn r, some site) :: others } else s
  | 3 => if s.mayName asid site r then { s with rankMap := (asid, recLrn r, none) :: others } else s
  | _ => s

/-- A record of the slot table written. -/
def State.putRecord (s : State) (site : BitVec 10) (slot : Fin 12) (r : BitVec 256) : State :=
  s.modSched (fun k => { k with
    slotTable := ((site.toNat, slot.1), r) :: k.slotTable.filter (fun e => e.1 != (site.toNat, slot.1)) })

/-- What a record written for this rank's own site says: free, in place of its running one, that its party of several
ranks has ended (R426), which halts what still runs of its part (R420), frees the slot and gives up its number (R427),
once the outside requests that the gate admitted are over (R465). -/
def State.ownRecord (s : State) (slot : Fin 12) (old r : BitVec 256) : State :=
  if recState old == 2 && recState r == 0 && slot == s.party.slot && decide (1 < s.party.size) then
    let s1 := if s.party.bound then s.haltPart else s
    if s1.party.ending.isSome then { s1 with party := { s1.party with freeing := some r } } else s1.freeRecord r
  else s.putRecord s.party.site slot r

/-- SLOT_RECORD_WRITE (R420, R424, R426, R427, R431): a record of a party of an address space is written, not of a
fused site, and none is set to STATE 1 on a site whose debt of 8 has not returned to 0; one of a site that is not the rank's tells
what runs there.
DEDUCED, log entry 126. -/
def execSlotRecordWrite (site : BitVec 10) (slot : Fin 12) (bits : SlotWrite) (s : State) :
    Host.Outcome State Fault Refusal :=
  powered s (
    if s.isFused site || (recState bits.bits == 1 && site == s.party.site && s.indebted) then s
    else
      let old := s.slotRecord site slot
      let r := bits.bits &&& ~~~(BitVec.ofNat 256 ((2 ^ 93 - 1) * 8))
      if site == s.party.site then s.ownRecord slot old r
      else (s.putRecord site slot r).mapRecord bits.asid site old r)

/-! ## Zeroing (R138) -/

/-- A range without another: the pieces on either side. -/
def cutRange (lo hi : Nat) (r : Nat × Nat) : List (Nat × Nat) :=
  [(r.1, min r.2 lo), (max r.1 hi, r.2)].filter (fun p => decide (p.1 < p.2))

/-- The parts of a range that its new owner did not own before. -/
def foreignParts (owner : BitVec 6 × BitVec 8) (r : Nat × Nat) (owners : List (Nat × Nat × (BitVec 6 × BitVec 8))) :
    List (Nat × Nat) :=
  owners.foldl (fun ps o => if o.2.2 == owner then ps.flatMap (cutRange o.1 o.2.1) else ps)
    (if r.1 < r.2 then [r] else [])

/-- Poison marks of words in a range of keys dropped. -/
def State.unmarkRange (s : State) (lo hi : Nat) : State :=
  { s with poison := s.poison.filter (fun w => !(decide (lo ≤ 8 * w) && decide (8 * w < hi))) }

/-- A range of keys zeroed, its poison marks with it. -/
def State.clearRange (s : State) (r : Nat × Nat) : State :=
  { s with mem := s.mem.clear r.1 r.2 }.unmarkRange r.1 r.2

/-- A range passes to an owner: what was not its own is zeroed. -/
def State.ownRange (s : State) (owner : BitVec 6 × BitVec 8) (r : Nat × Nat) : State :=
  let s1 := (foreignParts owner r s.sched.owners).foldl State.clearRange s
  let others := s.sched.owners.flatMap (fun o => (cutRange r.1 r.2 (o.1, o.2.1)).map (fun p => (p.1, p.2, o.2.2)))
  s1.modSched (fun k => { k with owners := if r.1 < r.2 then (r.1, r.2, owner) :: others else others })

/-- The key ranges of a party's row window on a site: one in each bank. -/
def windowRanges (site : BitVec 10) (r : BitVec 256) (rows : Nat) : List (Nat × Nat) :=
  (List.range 16).map (fun b => (rowKey site b (recRowBase r) 0, rowKey site b (recRowBase r + rows) 0))

/-- The private memory of a rank: its scratchpad, and its stage slots. -/
def privateRanges (site : BitVec 10) : List (Nat × Nat) :=
  [(siteKey site spadOff, siteKey site (spadOff + 0x80000)), (slotKey 0 0, slotKey 64 0)]

/-- The key ranges of a party's lot and row window at a site. -/
def sharedRanges (site : BitVec 10) (p : BitVec 512) (r : BitVec 256) : List (Nat × Nat) :=
  (siteKey site (recLotBase r), siteKey site (recLotBase r + 1024 * pkLot p)) :: windowRanges site r (pkRows p)

/-- The lot and the window of a party at a site are its owner's (R138). -/
def State.ownFor (s : State) (site : BitVec 10) (p : BitVec 512) (r : BitVec 256) : State :=
  (sharedRanges site p r).foldl (fun (s : State) k => s.ownRange (pkVf p, pkAsid p) k) s

/-- A newly bound party's resources (R138): every poison mark of its private memory, its lot and its window goes, and a
saved party keeps its own (R269). -/
def State.zeroFor (s : State) (site : BitVec 10) (p : BitVec 512) (r : BitVec 256) : State :=
  let gone := (windowRanges site r (pkRows p)).flatMap (fun k => foreignParts (pkVf p, pkAsid p) k s.sched.owners)
  let s3 := (privateRanges site).foldl State.clearRange (s.ownFor site p r)
  let s4 := (sharedRanges site p r).foldl (fun (s : State) k => s.unmarkRange k.1 k.2) s3
  { s4 with
    matrix := Matrix.blank
    counters := Vector.replicate 8 0
    rows := { s4.rows with
      faulty := s4.rows.faulty.filter (fun e => !gone.any (fun k =>
        decide (k.1 ≤ rowKey site e.1.1 e.1.2 0) && decide (rowKey site e.1.1 e.1.2 0 < k.2)))
      cellLog := []
      cellTotal := 0
      xferLog := []
      xferTotal := 0
      logSeq := 0 } }

/-! ## Dispatch (R425, R427, R430, R475) -/

/-- Whether everything an earlier party's units began is over. -/
def State.rankQuiet (s : State) : Bool :=
  s.rows.queue.isEmpty && s.rows.running.isEmpty && s.matrix.queue.isEmpty && s.matrix.planeQueue.isEmpty
    && s.flights.all (fun f => !(f.xl == .ready))
    && s.graph.inProgress.all (fun p => decide (2 ≤ stopKind (s.graph.stop p.stop.toNat)) || p.token.isSome)
    && s.party.ending.isNone

/-- Whether a site may start a ready record: none of its records runs, and none is ahead (R425); nor does a saved
party of another number use the site's host save area where the record names it (R446). -/
def State.siteIdle (s : State) (site : BitVec 10) (slot : Fin 12) : Bool :=
  let r := s.slotRecord site slot
  recState r == 1 && s.sched.slotTable.all (fun e =>
    e.1.1 != site.toNat || (recState e.2 != 2 && (recState e.2 != 1 || e.1.2 == slot.1 || decide (recSeq r ≤ recSeq e.2))
      && !(recState e.2 == 3 && r.getLsbD 2 && e.2.getLsbD 2 && recPnum e.2 != recPnum r)))

/-- Whether every other rank of a party may start with this one (R425, R426): its site holds a ready record of the
party's number for it, and is idle. -/
def State.partyReady (s : State) (d : BindInfo) (r : BitVec 256) : Bool :=
  d.lrns.all (fun l => l == (recLrn r, d.site) || (List.finRange 12).any (fun k =>
    let q := s.slotRecord l.2 k
    recPnum q == recPnum r && recLrn q == l.1 && s.siteIdle l.2 k))

/-- Every bank written back and closed at once, as a save leaves them (R173). -/
def State.closeBanks (s : State) : State := (List.range 16).foldl State.closeRow s

/-- A new column's own values, where the rank's part comes to another site (R173): they are not the old
one's.
DESIGN CHOICE, log entry 70. -/
def State.freshColumn (s : State) : State :=
  let (n, s0) := s.choose 2
  let (k, s1) := s0.choose 0x10000
  (List.range 4).foldl (fun (s : State) l =>
    let (d, s0) := s.choose 8
    let (b, s1) := s0.choose 2
    s1.bump.modRows (·.modLayer l (fun _ => { RowLayer.blank with
      debt := d
      deep := b == 1 && d != 0
      refs := (Config.freeWord s1.tick).setWidth 32
      dueAt := s.now + 4290 }))) (s1.modRows (fun r =>
      { r with
        narrow := n == 1
        retrains := BitVec.ofNat 16 k
        faulty := []
        trainDue := false
        trainDueAt := s.now + 110000000
        trainEnd := none
        activations := []
        banks := Vector.replicate 16 RowBank.blank }))

/-- Ready to run: the control context with its slice of the carve-out (R287, R289). -/
def Ctx.control (entry : Word) (carve : Nat) : Ctx :=
  { Ctx.blank with
    cstate := .ready
    pc := entry
    carve := ⟨0, 0, carve, 4096 - carve⟩ }

/-- The control context's registers from the packet's image (R475): none where REGIMG is 0; held on a page
that is not present; an image that cannot be read fails the run. It is read on path S.
DEDUCED, log entry 101.
DESIGN CHOICE, log entry 124. -/
def State.readImage (s : State) : State :=
  let p := s.party.packet
  let entry := pkEntry p
  let started := fun (s : State) => { s with party := { s.party with starting := false } }
  if pkRegimg p = 0 then started s
  else
    match s.translate s.asid (pkRegimg p) 4416 .read false entry with
    | (.ok ks _ _, s1) =>
      if s1.poisonedAt ks then (started s1).endContext 0 Cause.poisoned entry entry none
      else
        let (bs, s2) := s1.readKeys ⟨0, .s, false⟩ ks
        (started s2).modCtx 0 (·.longImage bs)
    | (.absent va h, s1) =>
      let (token, s2) := s1.holdPage s.asid va h .read entry (.park 0)
      s2.modCtx 0 (fun x => { x with park := some ⟨token, BitVec.ofNat 45 (va / 4096), none⟩ })
    | (.fail f r va, s1) =>
      (started s1).endContext 0 (xlatCause f) entry entry (some (xlatWord f r (BitVec.ofNat 64 va)))

/-- A start whose image was held goes on: read again after a replay, failed after a decline (R475).
DEDUCED, log entry 100. -/
def State.continueStart (s : State) : State :=
  if !s.party.starting then s
  else
    match (s.ctx 0).park with
    | none => s.readImage
    | some k =>
      match k.failed with
      | some (f, r) =>
        { s with party := { s.party with starting := false } }.endContext 0 (xlatCause f)
          (pkEntry s.party.packet) (pkEntry s.party.packet) (some (xlatWord f r (BitVec.ofNat 64 (4096 * k.page.toNat))))
      | none => s

/-- The rank map with a party's ranks (R427). -/
def State.mapRanks (s : State) (asid : BitVec 8) (lrns : List (BitVec 10 × BitVec 10)) : State :=
  { s with rankMap := lrns.map (fun l => (asid, l.1, some l.2))
      ++ s.rankMap.filter (fun e => !(e.1 == asid && lrns.any (fun l => l.1 == e.2.1))) }

/-- Whether the ranks handed to a dispatch are the party's, this rank among them (R244, R414, R427). -/
def soundBind (d : BindInfo) (r : BitVec 256) : Bool :=
  d.size == pkRanks d.packet && d.lrns.length == d.size && (d.lrns.map (·.1)).Nodup && (d.lrns.map (·.2)).Nodup
    && d.lrns.contains (recLrn r, d.site)
    && d.member.toNat == pkGpos d.packet * d.size + d.lrns.countP (fun l => decide (l.1.toNat < (recLrn r).toNat))

/-- Whether a rank's number is one that firmware gives at a first bind (R12, R427): its site's home rank where no
other party holds that, else the lowest that no other holds, the party's own apart. -/
def State.givesLrn (s : State) (asid : BitVec 8) (lrns : List (BitVec 10 × BitVec 10)) (l : BitVec 10 × BitVec 10) :
    Bool :=
  let home := s.homeLrn l.2
  !s.isFused l.2 && l.1.toNat ≤ 1012 && !s.lrnHeld asid l.1
    && (l.1.toNat == home
      || ((s.lrnHeld asid (BitVec.ofNat 10 home) || lrns.any (fun k => k.1.toNat == home))
        && (List.range l.1.toNat).all (fun n =>
          s.lrnHeld asid (BitVec.ofNat 10 n) || lrns.any (fun k => k.1.toNat == n))))

/-! ## Near sections (R65, R73, R82, R87) -/

/-- Whether a near section lies where the linker places one (R87). -/
def nearFits (p : BitVec 512) (n : NearSection) : Bool :=
  let a := n.addr.toNat
  let z := a + n.data.length
  (decide (z ≤ 0x80000 - 128 * pkCarve p) || (decide (0x8000000 ≤ a) && decide (z ≤ 0x8000000 + 1024 * pkLot p)))
    && n.rankrel.all (fun r => decide (r.1 + 4 ≤ n.data.length))

/-- The rank offset that RANKREL writes for a near address (R82). -/
def rankRel (lotBase : Nat) (a : BitVec 32) : Nat :=
  if a.toNat < 0x8000000 then spadOff + a.toNat else lotBase + (a.toNat - 0x8000000)

/-- A near section's bytes in a rank's own copy, with its RANKREL fields written (R65, R82). -/
def nearBytes (n : NearSection) (lotBase : Nat) : List Byte :=
  n.rankrel.foldl (fun bs r => bs.take r.1 ++ bytesOfNat 4 (rankRel lotBase r.2) ++ bs.drop (r.1 + 4)) n.data

/-- A rank's own copies of an image's near sections put in place (R65, R73, R87). -/
def State.placeNear (s : State) (d : BindInfo) (r : BitVec 256) : State :=
  d.near.foldl (fun (s : State) n =>
    let a := n.addr.toNat
    let key := siteKey d.site (if a < 0x8000000 then spadOff + a else recLotBase r + (a - 0x8000000))
    { s with mem := s.mem.putKeys (keysFrom key n.data.length) (nearBytes n (recLotBase r)) }) s

/-- Whether a party's lot and row window lie within a site's port area and rows (R424), clear of those of the parties
saved there (R430). -/
def State.siteFits (s : State) (site : BitVec 10) (p : BitVec 512) (r : BitVec 256) : Bool :=
  recLotBase r + 1024 * pkLot p ≤ spadOff && recLotBase r % 4096 == 0 && recRowBase r + pkRows p ≤ 8192
    && s.sched.saved.all (fun v => v.party.site != site || recPnum v.party.record == recPnum r
      || (sharedRanges site v.party.packet v.party.record).all (fun a =>
        (sharedRanges site p r).all (fun b => decide (min a.2 b.2 ≤ max a.1 b.1))))

/-- Whether an outing's instances may still be bound. -/
def Outing.binds (o : Outing) : Bool :=
  (o.state == .ready || o.state == .running) && decide (o.begun < pkCount o.packet)

/-- Whether an outing binds before another of its VF (R422): a more urgent class, or the same and ready earlier. -/
def Outing.ahead (x o : Outing × Nat) : Bool :=
  x.1.vf == o.1.vf && x.2 != o.2 && x.1.binds && (decide (x.1.cls < o.1.cls) || (x.1.cls == o.1.cls
    && (decide (x.1.readyAt < o.1.readyAt) || (x.1.readyAt == o.1.readyAt && decide (x.2 < o.2)))))

/-- Whether an outing's instances can bind wherever one of another can: they need no more of anything. -/
def Outing.needsNoMore (x o : Outing) : Bool :=
  pkAsid x.packet == pkAsid o.packet && decide (pkRanks x.packet ≤ pkRanks o.packet)
    && decide (pkLot x.packet ≤ pkLot o.packet) && decide (pkRows x.packet ≤ pkRows o.packet)
    && decide (pkWeight x.packet ≤ pkWeight o.packet)

/-- An instance of an outing is bound: so are those below it, and those of the outings ahead of it that could have bound
in its stead have been, on other ranks (R422).
DEDUCED, log entry 91. -/
def State.noteBound (s : State) (p : BitVec 512) (inst : Nat) : State :=
  match s.sched.outings.zipIdx.find? (fun x => x.1.packet == p && x.1.binds) with
  | none => s
  | some o => s.modSched (fun k => { k with outings := k.outings.zipIdx.map (fun x =>
      if x.2 = o.2 then { x.1 with
        state := .running
        begun := inst + 1 }
      else if Outing.ahead x o && x.1.needsNoMore o.1 then { x.1 with
        state := .running
        begun := pkCount x.1.packet }
      else x.1) })

/-- Whether a party's first bind may happen: an outing of the packet has not bound this instance or one above it (R422),
its lot and window fit (R424), its ranks' numbers are those firmware gives (R427), and its near sections lie where the
linker places them (R87).
DEDUCED, log entry 91. -/
def State.mayBind (s : State) (d : BindInfo) (r : BitVec 256) : Bool :=
  d.lrns.all (s.givesLrn (pkAsid d.packet) d.lrns) && d.near.all (nearFits d.packet)
    && recInst r < pkCount d.packet && s.siteFits d.site d.packet r
    && s.sched.outings.any (fun o => o.packet == d.packet && o.binds && decide (o.begun ≤ recInst r))

/-- A party's first bind on this rank (R65, R138, R245, R289, R386, R425).
DESIGN CHOICE, log entry 30.
DESIGN CHOICE, log entry 144. -/
def State.bindNew (s : State) (d : BindInfo) (r : BitVec 256) : State :=
  let s1 := if d.site == s.party.site then s else s.freshColumn
  let s2 := (s1.zeroFor d.site d.packet r).placeNear d r
  let s3 := ((s2.noteBound d.packet (recInst r)).modSched (fun k => { k with
    tickets := Vector.replicate 32 none })).mapRanks (pkAsid d.packet) d.lrns
  let s4 := { s3 with
    unseen := []
    flights := []
    graph := Graph.blank
    msgs := []
    arrivals := []
    scopes := Vector.replicate 2 ⟨[], [], none⟩
    rows := { s3.rows with
      banks := s3.rows.banks.map (fun (b : RowBank) => { RowBank.blank with
        preDone := b.preDone
        nbrEnd := b.nbrEnd })
      distCount := 0
      evictCount := 0 }
    ctxs := (Vector.replicate 11 Ctx.blank).set 0 (Ctx.control (pkEntry d.packet) (pkCarve d.packet))
    party :=
      { bound := true, site := d.site, slot := d.slot, packet := d.packet, record := setField r 0 2 2,
        member := d.member, size := d.size, lrns := d.lrns, key := d.key, timeout := 50000, moved := 0,
        boundAt := s.wall, preempting := false, starting := true, ending := none, freeing := none } }
  (s4.setSlotState 2).readImage

/-! ## Pre-emption and resumption (R173, R243, R305, R429, R430) -/

/-- PREEMPT_REQUEST (R429): the party's contexts halt. -/
def execPreemptRequest (s : State) : Host.Outcome State Fault Refusal := powered s s.preempt

/-- Whether the drains that follow a halt are over (R429). -/
def State.halted (s : State) : Bool :=
  s.party.bound && s.party.preempting && s.rows.running.isEmpty && s.matrix.queue.isEmpty
    && s.matrix.planeQueue.isEmpty && s.flights.all (fun f => f.isHeld || f.lost)
    && s.graph.inProgress.all (fun p => p.token.isSome
        || (!s.stopReady p && (2 ≤ stopKind (s.graph.stop p.stop.toNat) || p.phase == 0 || p.phase == 4)))
    && s.graph.streams.all (fun b => !b.out || s.writable b == 0 || b.buf.any (fun g => g.token.isSome))

/-- The cells of ranges, each at its place in a save area (R445). -/
def Memory.save (m : Memory) (ranges : List (Nat × Nat)) : List Host.Cell :=
  let at0 : List Nat := [0, 0x80000]
  (ranges.zip at0).flatMap (fun (p : (Nat × Nat) × Nat) =>
    (m.cells.filter (fun c => decide (p.1.1 ≤ c.1) && decide (c.1 < p.1.2))).map (fun c => (c.1 - p.1.1 + p.2, c.2)))

/-- A saved place as a key of a site. -/
def savedKey (site : BitVec 10) (k : Nat) : Nat :=
  if k < 0x80000 then siteKey site (spadOff + k) else slotKey 0 (k - 0x80000)

/-- A context as it is saved (R291, R305, R320): results in flight are written and the bypass is empty; an ACQ that
waits has not issued, a TLBINV neither, and an IDLE resumes after itself (R203, R429, R454). -/
def State.saveCtx (s : State) (c : Fin 11) : State :=
  let s1 := if s.inQueue c then s.withdraw c else s
  s1.modCtx c (fun x => { x.settleAll.dropBypass with
    busy := []
    tlbWait := none
    idle := x.idle.map (fun i => if i.until' = 0 then i else { i with woken := true })
    cstate := if x.live then .ready else x.cstate })

/-- An in-stream without the groups it has read ahead (R243). -/
def Stream.rewind (b : Stream) : Stream :=
  if b.out then b
  else { b with
    buf := b.buf.filter (fun g => decide (g.idx < b.claimed))
    next := min b.next b.claimed }

/-- A step saved with the words written while this rank has been inside it, as words of the site (R260). -/
def State.keepWritten (s : State) (r : StepRun) : StepRun :=
  if r.entered && r.inside then { r with
    wrote := (s.writtenIn r).map (fun w => w - siteKey s.party.site 0 / 8)
    since := 0 }
  else r

/-- PARTY_SAVE_COMPLETE (R429): the halted party's state is saved and its record turns to STATE 3. -/
def execPartySaveComplete (s : State) : Host.Outcome State Fault Refusal :=
  powered s (
    if !s.halted then s
    else
      let s1 := allCtx.foldl State.saveCtx s
      let ranges := privateRanges s.party.site
      let words := s1.poison.filter (fun w => ranges.any (fun r => decide (r.1 ≤ 8 * w) && decide (8 * w < r.2)))
      let place := fun (w : Nat) =>
        if 8 * w < slotKey 0 0 then w - siteKey s.party.site spadOff / 8 else w - slotKey 0 0 / 8 + 0x80000 / 8
      let sv : Saved :=
        { party := { s1.party with
            bound := false
            preempting := false }
          ctxs := s1.ctxs, flights := s1.flights, rows := s1.rows
          graph := { s1.graph with
            streams := s1.graph.streams.map Stream.rewind }
          msgs := s1.msgs, arrivals := s1.arrivals
          scopes := s1.scopes.map (fun k => { k with queue := k.queue.map s1.keepWritten })
          matrix := s1.matrix, counters := s1.counters, tickets := s1.sched.tickets
          mem := s1.mem.save ranges, poison := words.map place, savedAt := s.wall }
      let s2 := ((s1.closeBanks).modRows (fun r => { r with
        layers := r.layers.map (fun l => { l with stalled := [] }) })).setSlotState 3
      { s2 with
        ctxs := Vector.replicate 11 Ctx.blank
        flights := []
        unseen := []
        graph := Graph.blank
        msgs := []
        arrivals := []
        scopes := Vector.replicate 2 ⟨[], [], none⟩
        rows := { s2.rows with queue := [] }
        rankMap := s2.rankMap.map (fun e =>
          if e.1 == s.asid && s.party.lrns.any (fun l => l.1 == e.2.1) then (e.1, e.2.1, none) else e)
        party := { s2.party with
          bound := false
          preempting := false
          starting := false }
        sched := { s2.sched with
          tickets := Vector.replicate 32 none
          saved := s2.sched.saved ++ [sv] } })

/-- A key of a party's own site after a move to another (R430). -/
def movedKey (old new : BitVec 10) (k : Nat) : Nat :=
  if siteKey old 0 ≤ k && k < siteKey old (2 ^ 28) then k - siteKey old 0 + siteKey new 0 else k

/-- A key range copied to another place. -/
def Memory.copyRange (m : Memory) (lo hi target : Nat) : Memory :=
  let cells := m.cells.filter (fun c => decide (lo ≤ c.1) && decide (c.1 < hi))
  cells.foldl (fun (m : Memory) c => m.set (c.1 - lo + target) c.2) (m.clear target (target + (hi - lo)))

/-- A key range copied to another place, its poison marks with it (R269). -/
def State.moveRange (s : State) (x : (Nat × Nat) × (Nat × Nat)) : State :=
  let words := (s.poison.filter (fun w => decide (x.1.1 ≤ 8 * w) && decide (8 * w < x.1.2))).map (fun w =>
    (8 * w - x.1.1 + x.2.1) / 8)
  ({ s with mem := s.mem.copyRange x.1.1 x.1.2 x.2.1 }.unmarkRange x.2.1 x.2.2).mark words

/-- The lot and the row window copied to a new column, whose ranges they pass to (R138, R173, R430). -/
def State.moveLot (s : State) (p : Party) (site : BitVec 10) (r : BitVec 256) : State :=
  ((sharedRanges p.site p.packet p.record).zip (sharedRanges site p.packet r)).foldl State.moveRange
    (s.ownFor site p.packet r)

/-- The RACTs that open a saved party's rows again, with full timing windows, before its queue goes on (R173). -/
def reopening (rows : RowPath) (now nextId : Nat) : List RowCmd :=
  (rows.banks.toList.zipIdx.filterMap (fun p => p.1.row.map (fun row => (p.2, row)))).map (fun p =>
    { id := nextId + p.1, owner := .sequencer, kind := .act p.1 p.2, issued := now, startedAt := none, doneAt := 0,
      data := [], poisoned := false, row := 0, beatAt := 0, tries := 0, beat := 0, beatTries := 0, inHandler := false })

/-- A saved party's row path on the column it resumes on: its rows to be opened again and then its queue, its views,
flags, counts and logs, the column's own debt, mode and training (R173).
DESIGN CHOICE, log entry 144. -/
def RowPath.resumed (now saved : RowPath) (acts : List RowCmd) : RowPath :=
  { now with
    queue := acts ++ saved.queue
    banks := (List.range 16).foldl (fun v b => setAt v b { now.bank b with
      view := (saved.bank b).view
      evicted := (saved.bank b).evicted
      row := none }) now.banks
    distCount := saved.distCount
    evictCount := saved.evictCount
    cellLog := saved.cellLog
    cellTotal := saved.cellTotal
    xferLog := saved.xferLog
    xferTotal := saved.xferTotal
    logSeq := saved.logSeq }

/-- A graph whose stops and groups no record holds: they are issued again (R130). -/
def Graph.freed (g : Graph) : Graph :=
  { g with
    inProgress := g.inProgress.map (fun p => { p with token := none })
    streams := g.streams.map (fun b => { b with buf := b.buf.map (fun k => { k with token := none }) }) }

/-- A scope whose steps' timeouts end later by the time in which their party was not bound (R267). -/
def Scope.later (k : Scope) (n : Nat) : Scope :=
  { k with queue := k.queue.map (fun q => { q with deadline := q.deadline + n }) }

/-- A saved party resumes, on its site or another (R130, R267, R429, R430): a step's timeout counts on from where it
stood, and what a record held is issued again unless the record has failed it; a start that was held goes on (R475).
DEDUCED, log entry 98.
DEDUCED, log entry 99. -/
def State.resume (s : State) (d : BindInfo) (r : BitVec 256) (sv : Saved) : State :=
  let old := sv.party.site
  let moved := d.site != old
  let s0 := s.closeBanks
  let s1 := if d.site == s.party.site then s0 else s0.freshColumn
  let s2 := if moved then s1.moveLot sv.party d.site r else s1
  let s3 := { s2 with mem := (privateRanges d.site).foldl (fun (m : Memory) (k : Nat × Nat) => m.clear k.1 k.2) s2.mem }
  let s4 := { s3 with
    mem := sv.mem.foldl (fun (m : Memory) (c : Host.Cell) => m.set (savedKey d.site c.1) c.2) s3.mem
    poison := s3.poison.filter (fun w => !(privateRanges d.site).any (fun k => decide (k.1 ≤ 8 * w) && decide (8 * w < k.2)))
      ++ sv.poison.map (fun w => savedKey d.site (8 * w) / 8)
    l1 := if moved then [] else s3.l1
    icache := if moved then [] else s3.icache
    ilines := if moved then [] else s3.ilines
    ctxs := sv.ctxs.map (fun (x : Ctx) => { x with
      park := x.park.filter (fun k => k.failed.isSome)
      held := x.held.map (fun (h : Word × Nat × Bool) => (h.1, movedKey old d.site h.2.1, h.2.2)) })
    beacons := s3.beacons.map (fun (q : Nat × List (Fin 11 × BitVec 10 × Bool)) => (movedKey old d.site q.1, q.2))
    flights := sv.flights
    unseen := []
    graph := sv.graph.freed
    msgs := sv.msgs
    arrivals := sv.arrivals
    scopes := sv.scopes.map (fun (k : Scope) => k.later (s.wall - sv.savedAt))
    matrix := sv.matrix
    counters := sv.counters
    rows := s3.rows.resumed sv.rows (reopening sv.rows s.now s.nextId)
    nextId := s.nextId + 16
    party := { sv.party with
      bound := true
      site := d.site
      slot := d.slot
      record := setField r 0 2 2
      lrns := d.lrns
      moved := if moved then
          wordField 0 1 ||| wordField 16 (min ((sv.party.moved.extractLsb' 16 16).toNat + 1) 0xFFFF)
        else sv.party.moved
      boundAt := s.wall
      preempting := false }
    sched := { s3.sched with
      tickets := sv.tickets
      saved := s3.sched.saved.erase sv } }
  let s5 := (s4.mapRanks (pkAsid d.packet) d.lrns).setSlotState 2
  (s5.flights.filter Flight.isHeld).foldl State.reissue s5

/-- The saved party that a record names: the same number and packet. -/
def State.savedFor (s : State) (d : BindInfo) (r : BitVec 256) : Option Saved :=
  s.sched.saved.find? (fun sv => recPnum sv.party.record == recPnum r && sv.party.packet == d.packet)

/-- Whether a saved party may resume as a record says (R12, R424, R427, R430): this rank and its lot are the same, every
rank keeps its number, and the site holds the lot's range and the window. -/
def State.mayResume (s : State) (d : BindInfo) (r : BitVec 256) (sv : Saved) : Bool :=
  recLrn sv.party.record == recLrn r && recLotBase sv.party.record == recLotBase r
    && sv.party.lrns.all (fun l => d.lrns.any (fun k => k.1 == l.1 && !s.isFused k.2))
    && s.siteFits d.site d.packet r

/-- DISPATCH_START (R425, R426, R430): a ready record's party starts where the sites of all its ranks are ready and
idle: resumed where it was saved, else bound for the first time. -/
def execDispatchStart (d : BindInfo) (s : State) : Host.Outcome State Fault Refusal :=
  powered s (
    let r := s.slotRecord d.site d.slot
    if s.party.bound || (s.house.bootStat.extractLsb' 4 4) != 8 || s.isFused d.site || !s.siteIdle d.site d.slot
        || !s.rankQuiet || !soundBind d r || !s.partyReady d r then s
    else
      match s.savedFor d r with
      | some sv => if s.mayResume d r sv then s.resume d r sv else s
      | none => if s.mayBind d r then s.bindNew d r else s)

/-! ## The meanings -/

/-- LAUNCH (R419). -/
def execLaunch (w : Fields) (s : State) : Host.Outcome State Fault Refusal :=
  issue .launch w bodyLaunch s

/-- OWAIT (R419). -/
def execOwait (w : Fields) (s : State) : Host.Outcome State Fault Refusal :=
  issue .owait w bodyOwait s

/-- OPOLL (R419). -/
def execOpoll (w : Fields) (s : State) : Host.Outcome State Fault Refusal :=
  issue .opoll w bodyOpoll s

end Sys2Proof.Machine
end

