-- ==== Sys2Proof/Machine/System.lean ====
section
/-! DEFINITION. System registers (R449, R451), the return from a handler (R435), TLBINV, the event counters and
IDLE (R452 to R454), and the writes of registers as events. -/

namespace Sys2Proof.Machine

/-! ## Reading (R449) -/

def Ctx.modeWord (x : Ctx) : Word := wordField 0 (if x.deferMode then 1 else 0) ||| wordField 8 (if x.tmode then 1 else 0)

/-- `CTX.HAMPER` (R304). -/
def Ctx.hamperWord (x : Ctx) : Word :=
  let v := x.hamper.countP (fun h => isVector h.w)
  wordField 0 (x.hamper.length - v) ||| wordField 8 v ||| wordField 16 (if x.inh then 1 else 0)
    ||| wordField 32 x.peak

/-- `CTX.CARVE` (R287). -/
def Ctx.carveWord (x : Ctx) : Word :=
  wordField 0 x.carve.sbase ||| wordField 16 x.carve.ssize ||| wordField 32 x.carve.sused ||| wordField 52 x.carve.oused

/-- `CTX.LOOP` (R313).
DEDUCED, log entry 60. -/
def Ctx.loopWord (x : Ctx) : Word :=
  wordField 0 x.loop.pos ||| wordField 5 (x.loop.slots.length - 1) ||| wordField 15 (if x.loop.active then 1 else 0)
    ||| wordField 16 x.loop.iter ||| wordField 40 x.loop.count

/-- `CORE.PHYS` (R428): x, y and the quadrant of the site. -/
def State.physWord (s : State) : Word :=
  wordField 0 (siteX s.party.site).toNat ||| wordField 5 (siteY s.party.site).toNat
    ||| wordField 10 (quadrantOf s.party.site)

/-- `ROW.MODE` and `ROW.DEBT` (R169). -/
def State.rowModeWord (s : State) : Word :=
  wordField 0 (if s.rows.narrow then 1 else 0) ||| wordField 1 (if s.rows.trainDue then 1 else 0)
    ||| wordField 2 (if s.rows.trainEnd.isSome then 1 else 0)

def State.debtWord (s : State) : Word :=
  (List.range 4).foldl (fun w l => w ||| wordField (4 * l) (s.rows.layer l).debt) 0

/-- A log register (R169). -/
def logWord (log : List Word) (total : BitVec 32) : Word := wordField 0 log.length ||| wordField 32 total.toNat

/-- A system register as CSRR reads it; none where the number is unassigned (R449). -/
def State.csr (s : State) (c : Fin 11) (n : Nat) : Option Word :=
  let x := s.ctx c
  match n with
  | 0x000 => some x.modeWord
  | 0x001 => some x.fpctl
  | 0x002 => some x.hamperWord
  | 0x003 => some x.carveWord
  | 0x004 => some x.ovfl
  | 0x005 => some x.loopWord
  | 0x006 => some (BitVec.ofNat 64 c.1)
  | 0x010 => some x.trapVec
  | 0x011 => some x.trapCause
  | 0x012 => some x.trapPc
  | 0x013 => some x.trapInfo
  | 0x014 => some x.trapXlat
  | 0x015 => some x.trapRcause
  | 0x016 => some x.trapRinfo
  | 0x020 => some x.planeCfg
  | 0x100 => some (s.lrn.setWidth 64)
  | 0x101 => some s.physWord
  | 0x102 => some s.party.moved
  | 0x103 => some (BitVec.ofNat 64 s.now)
  | 0x110 => some ((s.party.record.extractLsb' 204 20 ++ s.party.record.extractLsb' 224 32 : BitVec 52).setWidth 64)
  | 0x111 => some ((s.party.packet.extractLsb' 160 32 ++ s.party.packet.extractLsb' 41 10 : BitVec 42).setWidth 64)
  | 0x112 => some (pkParam s.party.packet)
  | 0x113 => some (s.party.member.setWidth 64)
  | 0x114 => some (wordField 0 s.gpos.toNat ||| wordField 32 s.gsize)
  | 0x120 => some (s.party.timeout.setWidth 64)
  | 0x130 => some s.rowModeWord
  | 0x131 => some s.debtWord
  | 0x132 => some (logWord s.rows.cellLog s.rows.cellTotal)
  | 0x133 => some (logWord s.rows.xferLog s.rows.xferTotal)
  | k =>
    if 0x140 ≤ k && k ≤ 0x147 then some ((s.counters.toList.getD (k - 0x140) 0).setWidth 64)
    else if 0x200 ≤ k && k ≤ 0x23F then some (unreserved (s.fmtWord s.asid (BitVec.ofNat 6 (k - 0x200))))
    else none

/-! ## Writing (R451) -/

/-- Registers with a writable field. -/
def csrWritable (n : Nat) : Bool :=
  [0x000, 0x001, 0x002, 0x004, 0x010, 0x012, 0x020, 0x102, 0x120, 0x132, 0x133].contains n

/-- The value a CSR write gives RW fields. -/
def csrValue (k : CsrKind) (old b : Word) : Word :=
  match k with
  | .w => b
  | .s => old ||| b
  | .c => old &&& ~~~b

/-- Whether a write acts on W1C and WO fields. -/
def CsrKind.acts : CsrKind → Bool
  | .c => false
  | _ => true

/-- RW fields replaced. -/
def mix (rw old v : Word) : Word := (old &&& ~~~rw) ||| (v &&& rw)

/-- Whether a write of `CTX.FPCTL` writes SEED (R103).
DEDUCED, log entry 62. -/
def writesSeed (k : CsrKind) (b : Word) : Bool := match k with | .w => true | _ => b.extractLsb' 32 32 != 0

/-- `CTX.FPCTL` written (R103): 6 and 7 in RM store 0, and a write of SEED reseeds the generators. -/
def Ctx.writeFpctl (x : Ctx) (k : CsrKind) (b : Word) : Ctx :=
  let v := csrValue k x.fpctl b
  let rm : Word := if 6 ≤ (v.extractLsb' 0 3).toNat then 0 else v &&& 7
  let low := (v &&& 8) ||| rm
  if writesSeed k b then
    { x with
      fpctl := (v &&& 0xFFFFFFFF00000000) ||| low
      gens := seedGens (v.extractLsb' 32 32) }
  else { x with fpctl := (x.fpctl &&& 0xFFFFFFFF00000000) ||| low }

/-- W1C bits after a write. -/
def clearOnes (k : CsrKind) (mask old b : Word) : Word := if CsrKind.acts k then old &&& ~~~(b &&& mask) else old

/-- A row log emptied, where CLR is written (R169). -/
def State.clearLog (s : State) (xfer : Bool) (k : CsrKind) (b : Word) : State :=
  if CsrKind.acts k && b.getLsbD 5 then
    s.modRows (fun r =>
      if xfer then { r with
        xferLog := []
        xferTotal := 0 }
      else { r with
        cellLog := []
        cellTotal := 0 })
  else s

/-- `COLL.TIMEOUT` written: at least 10 (R245). -/
def State.writeTimeout (s : State) (k : CsrKind) (b : Word) : State :=
  let v := (csrValue k (s.party.timeout.setWidth 64) b).setWidth 32
  { s with party := { s.party with timeout := if v.toNat < 10 then 10 else v } }

/-- A system register written under its own rule (R103, R245, R288, R293, R304, R408, R428, R433, R451). -/
def State.csrWrite (s : State) (c : Fin 11) (n : Nat) (k : CsrKind) (b : Word) : State :=
  let x := s.ctx c
  match n with
  | 0x000 => s.setCtx c { x with deferMode := (csrValue k x.modeWord b).getLsbD 0 }
  | 0x001 => s.setCtx c (x.writeFpctl k b)
  | 0x002 => s.setCtx c { x with peak := x.hamper.length }
  | 0x004 =>
    if x.carve.oused ≠ 0 then s
    else s.setCtx c { x with ovfl := mix 0xFFF3FFFFFFFFFFFF x.ovfl (csrValue k x.ovfl b) }
  | 0x010 => s.setCtx c { x with trapVec := mix 0x81FFFFFFFFFFFFFD x.trapVec (csrValue k x.trapVec b) }
  | 0x012 => s.setCtx c { x with trapPc := mix 0x01FFFFFFFFFFFFFC x.trapPc (csrValue k x.trapPc b) }
  | 0x020 => s.setCtx c { x with planeCfg := clearOnes k 0x100 (mix 7 x.planeCfg (csrValue k x.planeCfg b)) b }
  | 0x102 => { s with party := { s.party with moved := clearOnes k 1 s.party.moved b } }
  | 0x120 => s.writeTimeout k b
  | 0x132 => s.clearLog false k b
  | 0x133 => s.clearLog true k b
  | _ => s

/-- The ILLEGAL_INSTR reason a CSR write raises, if it does (R303, R451). -/
def State.csrRefused (s : State) (c : Fin 11) (n : Nat) (k : CsrKind) (b : Word) : Option (BitVec 8) :=
  let x := s.ctx c
  if !csrWritable n then some 0x0F
  else if x.inh && n == 0 && (csrValue k x.modeWord b).getLsbD 0 then some 0x0D
  else if x.inh && n == 1 && writesSeed k b && !x.hamper.isEmpty then some 0x0D
  else none

/-- CSRR (R451). -/
def bodyCsrr : Body := fun c e s =>
  let n := e.opA s c
  match (if 0xFFF < n.toNat then none else s.csr c n.toNat) with
  | none => .trap Cause.illegal (illegalInfo 0x0F e.parcel) none
  | some v => .done (e.toFd v) s

/-- CSRW, CSRS and CSRC (R451). -/
def csrBody (k : CsrKind) : Body := fun c e s =>
  let n := e.opA s c
  match (if 0xFFF < n.toNat then none else s.csr c n.toNat) with
  | none => .trap Cause.illegal (illegalInfo 0x0F e.parcel) none
  | some old =>
    match s.csrRefused c n.toNat k (e.opB s c) with
    | some r => .trap Cause.illegal (illegalInfo r e.parcel) none
    | none => .done (e.toFd old) (s.csrWrite c n.toNat k (e.opB s c))

def bodyCsrw : Body := csrBody .w
def bodyCsrs : Body := csrBody .s
def bodyCsrc : Body := csrBody .c

/-! ## TRAPRET, TLBINV, EVRD, EVCLR and IDLE (R435, R452 to R454) -/

/-- What a context has issued in its handler counts, once it has left it, as issued before any later trap entry
(R436). -/
def State.leaveHandler (s : State) (c : Fin 11) : State :=
  let row := fun (k : RowCmd) => match k.owner with
    | .ctx d _ => if d == c then { k with inHandler := false } else k
    | _ => k
  let t : State := { s with
    flights := s.flights.map (fun f => if f.c == c then { f with inHandler := false } else f)
    msgs := s.msgs.map (fun m => if m.c == c then { m with inHandler := false } else m)
    rows := { s.rows with queue := s.rows.queue.map row, running := s.rows.running.map row }
    graph := { s.graph with streams := s.graph.streams.map (fun b =>
      if b.c == c then { b with buf := b.buf.map (fun g => { g with inHandler := false }) } else b) }
    matrix := { s.matrix with
      queue := s.matrix.queue.map (fun q => if q.owner.isOf c then { q with inHandler := false } else q)
      planeQueue := s.matrix.planeQueue.map (fun q => if q.owner.isOf c then { q with inHandler := false } else q) } }
  t.modCtx c (fun x => { x with faults := x.faults.map (fun f => { f with inHandler := false }) })

def bodyTrapret : Body := fun c e s =>
  if !(s.ctx c).inh then .trap Cause.illegal (illegalInfo 0x0D e.parcel) none
  else .jump [] ((s.leaveHandler c).modCtx c Ctx.trapReturn) (s.ctx c).trapPc

/-- Whether an invalidation is busy: XLT.INV's, or another context's (R452). -/
def State.invBusy (s : State) (c : Fin 11) : Bool :=
  invState s.xltInv == 1 || allCtx.any (fun d => d != c && (s.ctx d).tlbWait.isSome)

def bodyTlbinv : Body := fun c e s =>
  let all := e.w.os.getLsbD 0
  let va := e.opA s c
  let n := e.opB s c
  let hit : TlbEntry → Bool := fun t => if all then t.asid == s.asid else t.covers s.asid va.toNat n.toNat
  match (s.ctx c).tlbWait with
  | some ids =>
    if s.usersGone ids && s.noNewUser (fun a => a == s.asid) (if all then none else some (va.toNat / 4096, n.toNat)) then
      .done [] ((s.dropTlb hit).modCtx c (fun x => { x with tlbWait := none })) else .stay s
  | none =>
    if !all && va.toNat % 4096 != 0 then .trap Cause.misaligned va none
    else if !all && va.extractLsb' 57 7 != 0 then .trap Cause.nearBounds va none
    else if !all && (n = 0 || 1048575 < n.toNat) then .trap Cause.nearBounds n none
    else if s.invBusy c then .stay s
    else
      let s1 := s.dropTlb hit
      .stay (s1.modCtx c (fun x => { x with tlbWait := some (s1.usersOf (fun a => a == s.asid)) }))

/-- Counters chosen by a mask cleared (R453). -/
def State.clearCounters (s : State) (mask : Nat) : State :=
  { s with counters := (List.range 8).foldl (fun v n => if mask.testBit n then setAt v n 0 else v) s.counters }

def bodyEvrd : Body := fun c e s =>
  let n := e.opA s c
  if 7 < n.toNat then .trap Cause.nearBounds n none
  else
    .done (e.toFd ((s.counters.toList.getD n.toNat 0).setWidth 64))
      (if e.w.os.getLsbD 0 then s.clearCounters (2 ^ n.toNat) else s)

def bodyEvclr : Body := fun c e s =>
  let m := e.opA s c
  if m.extractLsb' 8 56 != 0 then .trap Cause.nearBounds m none else .done [] (s.clearCounters m.toNat)

/-- IDLE (R454): a wake event gives 1, the count 0. -/
def bodyIdle : Body := fun c e s =>
  let go := fun (v : Word) => Act.done (e.toFd v) (s.modCtx c (fun x => { x with idle := none }))
  match (s.ctx c).idle with
  | none =>
    let n := (e.opA s c).toNat % 2 ^ 32
    if n = 0 then .done (e.toFd 0) s
    else .stay (s.modCtx c (fun x => { x with idle := some ⟨s.now + n, false⟩ }))
  | some i => if i.until' = 0 then go 0 else if i.woken then go 1 else .stay s

/-! ## Writes as events -/

/-- A CSR write that is allowed takes effect.
DEDUCED, log entry 107.
DEDUCED, log entry 112. -/
def State.csrEvent (s : State) (c : Fin 11) (n : Nat) (k : CsrKind) (b : Word) : State :=
  if (s.ctx c).live && (s.csrRefused c n k b).isNone then s.csrWrite c n k b else s

/-- FPCTL_WRITE (R103). -/
def execFpctlWrite (c : Fin 11) (k : CsrKind) (b : Word) (s : State) : Host.Outcome State Fault Refusal :=
  powered s (s.csrEvent c 0x001 k b)

/-- CTX_MODE_WRITE (R293): once the context has drained. -/
def execCtxModeWrite (c : Fin 11) (k : CsrKind) (b : Word) (s : State) : Host.Outcome State Fault Refusal :=
  powered s (if s.drained c then s.csrEvent c 0x000 k b else s)

/-- OVFL_WRITE (R288). -/
def execOvflWrite (c : Fin 11) (k : CsrKind) (b : Word) (s : State) : Host.Outcome State Fault Refusal :=
  powered s (s.csrEvent c 0x004 k b)

/-- HAMPER_PEAK_WRITE (R304). -/
def execHamperPeakWrite (c : Fin 11) (k : CsrKind) (b : Word) (s : State) : Host.Outcome State Fault Refusal :=
  powered s (s.csrEvent c 0x002 k b)

/-- COLL_TIMEOUT_WRITE (R245). -/
def execCollTimeoutWrite (k : CsrKind) (b : Word) (s : State) : Host.Outcome State Fault Refusal :=
  powered s (s.writeTimeout k b)

/-- ROW_LOG_CLEAR (R169). -/
def execRowLogClear (xfer : Bool) (k : CsrKind) (b : Word) (s : State) : Host.Outcome State Fault Refusal :=
  powered s (s.clearLog xfer k b)

/-- CORE_MOVED_CLEAR (R428). -/
def execCoreMovedClear (k : CsrKind) (b : Word) (s : State) : Host.Outcome State Fault Refusal :=
  powered s { s with party := { s.party with moved := clearOnes k 1 s.party.moved b } }

/-- PLANE_CFG_WRITE (R408). -/
def execPlaneCfgWrite (c : Fin 11) (k : CsrKind) (b : Word) (s : State) : Host.Outcome State Fault Refusal :=
  powered s (s.csrEvent c 0x020 k b)

/-- SEQ.WDOG written: a LIMIT below 100 stores 100, RESETS stays (R441). -/
def wdogWrite (old v : Word) : Word :=
  let l := (v.extractLsb' 0 20).toNat
  (old &&& 0x0000FFFF00000000) ||| (v &&& 0x0001000000000000) ||| wordField 0 (if l < 100 then 100 else l)

/-- Whether a party of an address space is bound here.
DEDUCED, log entry 106. -/
def State.asBound (s : State) (asid : BitVec 8) : Bool := s.party.bound && s.asid == asid

/-- REGISTER_WRITE (R8, R91, R111, R127, R433, R441, R446, R451, R460): any other register. -/
def execRegisterWrite (r : CfgReg) (b : BitVec 256) (s : State) : Host.Outcome State Fault Refusal :=
  powered s (
    let w : Word := b.setWidth 64
    match r with
    | .xltAs asid =>
      if s.asBound asid then s
      else
        let kept := b &&& ~~~(BitVec.ofNat 256 (255 * 2 ^ 248 + (2 ^ 64 - 1) * 2 ^ 16 + 2 ^ 14 + 127 * 2))
        { s with xltAs := s.xltAs.set asid.toNat kept asid.isLt }
    | .fqBase vf => s.modQueue vf (fun q => { q with base := w &&& ~~~63 })
    | .seqWdog q => s.modSeq q (fun k => { k with wdog := wdogWrite k.wdog w })
    | .saveHost =>
      if s.party.bound then s else s.modSched (fun k => { k with saveHost := w &&& 0x0000FFFFFFE00000 })
    | .secPolicy => { s with house := { s.house with secPolicy := (s.house.secPolicy &&& ~~~1) ||| (w &&& 1) } }
    | .fmtFd asid n =>
      if s.asBound asid then s
      else
        match s.resolve asid ((s.asRec asid).extractLsb' 192 56).toNat with
        | .ok p => s.writeKeys ⟨11, .o, false⟩ (keysFrom (p.key + 8 * n.toNat) 8) (bytesOfNat 8 (unreserved w).toNat)
        | .error _ => s
    | .ctxReg c n k => s.csrEvent c n.toNat k w)

/-! ## The meanings -/

/-- CSRR (R451). -/
def execCsrr (w : Fields) (s : State) : Host.Outcome State Fault Refusal :=
  issue .csrr w bodyCsrr s

/-- CSRW (R451). -/
def execCsrw (w : Fields) (s : State) : Host.Outcome State Fault Refusal :=
  issue .csrw w bodyCsrw s

/-- CSRS (R451). -/
def execCsrs (w : Fields) (s : State) : Host.Outcome State Fault Refusal :=
  issue .csrs w bodyCsrs s

/-- CSRC (R451). -/
def execCsrc (w : Fields) (s : State) : Host.Outcome State Fault Refusal :=
  issue .csrc w bodyCsrc s

/-- TRAPRET (R435). -/
def execTrapret (w : Fields) (s : State) : Host.Outcome State Fault Refusal :=
  issue .trapret w bodyTrapret s

/-- TLBINV (R452). -/
def execTlbinv (w : Fields) (s : State) : Host.Outcome State Fault Refusal :=
  issue .tlbinv w bodyTlbinv s

/-- EVRD (R453). -/
def execEvrd (w : Fields) (s : State) : Host.Outcome State Fault Refusal :=
  issue .evrd w bodyEvrd s

/-- EVCLR (R453). -/
def execEvclr (w : Fields) (s : State) : Host.Outcome State Fault Refusal :=
  issue .evclr w bodyEvclr s

/-- IDLE (R454). -/
def execIdle (w : Fields) (s : State) : Host.Outcome State Fault Refusal :=
  issue .idle w bodyIdle s

end Sys2Proof.Machine
end

