-- ==== Sys2Proof/Machine/ShortForms.lean ====
section
/-! DEFINITION. The S forms (R45 to R49): each is the instruction its table entry names, with the fields its
parcel expands to. -/

namespace Sys2Proof.Machine

/-- NOP_SHORT (R46, R49): NOP's S form. -/
def execNopShort (f : SFields) (s : State) : Host.Outcome State Fault Refusal :=
  issue .nop (f.expand .nop) bodyNop s

/-- ADD_I64_SHORT (R46, R49): ADD's S form. -/
def execAddI64Short (f : SFields) (s : State) : Host.Outcome State Fault Refusal :=
  issue .add (f.expand .addI64) bodyAdd s

/-- SUB_I64_SHORT (R46, R49): SUB's S form. -/
def execSubI64Short (f : SFields) (s : State) : Host.Outcome State Fault Refusal :=
  issue .sub (f.expand .subI64) bodySub s

/-- MUL_I64_SHORT (R46, R49): MUL's S form. -/
def execMulI64Short (f : SFields) (s : State) : Host.Outcome State Fault Refusal :=
  issue .mul (f.expand .mulI64) bodyMul s

/-- AND_I64_SHORT (R46, R49): AND's S form. -/
def execAndI64Short (f : SFields) (s : State) : Host.Outcome State Fault Refusal :=
  issue .and (f.expand .andI64) bodyAnd s

/-- OR_I64_SHORT (R46, R49): OR's S form. -/
def execOrI64Short (f : SFields) (s : State) : Host.Outcome State Fault Refusal :=
  issue .or (f.expand .orI64) bodyOr s

/-- XOR_I64_SHORT (R46, R49): XOR's S form. -/
def execXorI64Short (f : SFields) (s : State) : Host.Outcome State Fault Refusal :=
  issue .xor (f.expand .xorI64) bodyXor s

/-- SHL_I64_SHORT (R46, R49): SHL's S form. -/
def execShlI64Short (f : SFields) (s : State) : Host.Outcome State Fault Refusal :=
  issue .shl (f.expand .shlI64) bodyShl s

/-- SHR_I64_SHORT (R46, R49): SHR's S form. -/
def execShrI64Short (f : SFields) (s : State) : Host.Outcome State Fault Refusal :=
  issue .shr (f.expand .shrI64) bodyShr s

/-- SAR_I64_SHORT (R46, R49): SAR's S form. -/
def execSarI64Short (f : SFields) (s : State) : Host.Outcome State Fault Refusal :=
  issue .sar (f.expand .sarI64) bodySar s

/-- MIN_I64_SHORT (R46, R49): MIN's S form. -/
def execMinI64Short (f : SFields) (s : State) : Host.Outcome State Fault Refusal :=
  issue .min (f.expand .minI64) bodyMin s

/-- MAX_I64_SHORT (R46, R49): MAX's S form. -/
def execMaxI64Short (f : SFields) (s : State) : Host.Outcome State Fault Refusal :=
  issue .max (f.expand .maxI64) bodyMax s

/-- MOV_I64_SHORT (R46, R49): MOV's S form. -/
def execMovI64Short (f : SFields) (s : State) : Host.Outcome State Fault Refusal :=
  issue .mov (f.expand .movI64) bodyMov s

/-- CMP_I64_EQ_SHORT (R46, R49): CMP's S form. -/
def execCmpI64EqShort (f : SFields) (s : State) : Host.Outcome State Fault Refusal :=
  issue .cmp (f.expand .cmpI64Eq) bodyCmp s

/-- CMP_I64_NE_SHORT (R46, R49): CMP's S form. -/
def execCmpI64NeShort (f : SFields) (s : State) : Host.Outcome State Fault Refusal :=
  issue .cmp (f.expand .cmpI64Ne) bodyCmp s

/-- CMP_I64_LT_SHORT (R46, R49): CMP's S form. -/
def execCmpI64LtShort (f : SFields) (s : State) : Host.Outcome State Fault Refusal :=
  issue .cmp (f.expand .cmpI64Lt) bodyCmp s

/-- CMP_I64_GE_SHORT (R46, R49): CMP's S form. -/
def execCmpI64GeShort (f : SFields) (s : State) : Host.Outcome State Fault Refusal :=
  issue .cmp (f.expand .cmpI64Ge) bodyCmp s

/-- CMP_I64_LTU_SHORT (R46, R49): CMP's S form. -/
def execCmpI64LtuShort (f : SFields) (s : State) : Host.Outcome State Fault Refusal :=
  issue .cmp (f.expand .cmpI64Ltu) bodyCmp s

/-- CMP_I64_GEU_SHORT (R46, R49): CMP's S form. -/
def execCmpI64GeuShort (f : SFields) (s : State) : Host.Outcome State Fault Refusal :=
  issue .cmp (f.expand .cmpI64Geu) bodyCmp s

/-- LD_I64_SHORT (R46, R49): LD's S form. -/
def execLdI64Short (f : SFields) (s : State) : Host.Outcome State Fault Refusal :=
  issue .ld (f.expand .ldI64) bodyLd s

/-- LD_I32_SHORT (R46, R49): LD's S form. -/
def execLdI32Short (f : SFields) (s : State) : Host.Outcome State Fault Refusal :=
  issue .ld (f.expand .ldI32) bodyLd s

/-- ST_I64_SHORT (R46, R49): ST's S form. -/
def execStI64Short (f : SFields) (s : State) : Host.Outcome State Fault Refusal :=
  issue .st (f.expand .stI64) bodySt s

/-- ST_I32_SHORT (R46, R49): ST's S form. -/
def execStI32Short (f : SFields) (s : State) : Host.Outcome State Fault Refusal :=
  issue .st (f.expand .stI32) bodySt s

/-- LDV_SHORT (R46, R49): LDV's S form. -/
def execLdvShort (f : SFields) (s : State) : Host.Outcome State Fault Refusal :=
  issue .ldv (f.expand .ldv) bodyLdv s

/-- STV_SHORT (R46, R49): STV's S form. -/
def execStvShort (f : SFields) (s : State) : Host.Outcome State Fault Refusal :=
  issue .stv (f.expand .stv) bodyStv s

/-- FADD_F32_RNE_SHORT (R46, R49): FADD's S form. -/
def execFaddF32RneShort (f : SFields) (s : State) : Host.Outcome State Fault Refusal :=
  issue .fadd (f.expand .faddF32Rne) bodyFadd s

/-- FSUB_F32_RNE_SHORT (R46, R49): FSUB's S form. -/
def execFsubF32RneShort (f : SFields) (s : State) : Host.Outcome State Fault Refusal :=
  issue .fsub (f.expand .fsubF32Rne) bodyFsub s

/-- FMUL_F32_RNE_SHORT (R46, R49): FMUL's S form. -/
def execFmulF32RneShort (f : SFields) (s : State) : Host.Outcome State Fault Refusal :=
  issue .fmul (f.expand .fmulF32Rne) bodyFmul s

/-- FFMA_F32_RNE_SHORT (R46, R49): FFMA's S form. -/
def execFfmaF32RneShort (f : SFields) (s : State) : Host.Outcome State Fault Refusal :=
  issue .ffma (f.expand .ffmaF32Rne) bodyFfma s

/-- VADD_F32_RNE_SHORT (R46, R49): VADD's S form. -/
def execVaddF32RneShort (f : SFields) (s : State) : Host.Outcome State Fault Refusal :=
  issue .vadd (f.expand .vaddF32Rne) bodyVadd s

/-- VSUB_F32_RNE_SHORT (R46, R49): VSUB's S form. -/
def execVsubF32RneShort (f : SFields) (s : State) : Host.Outcome State Fault Refusal :=
  issue .vsub (f.expand .vsubF32Rne) bodyVsub s

/-- VMUL_F32_RNE_SHORT (R46, R49): VMUL's S form. -/
def execVmulF32RneShort (f : SFields) (s : State) : Host.Outcome State Fault Refusal :=
  issue .vmul (f.expand .vmulF32Rne) bodyVmul s

/-- VFMA_F32_RNE_SHORT (R46, R49): VFMA's S form. -/
def execVfmaF32RneShort (f : SFields) (s : State) : Host.Outcome State Fault Refusal :=
  issue .vfma (f.expand .vfmaF32Rne) bodyVfma s

/-- VMIN_F32_SHORT (R46, R49): VMIN's S form. -/
def execVminF32Short (f : SFields) (s : State) : Host.Outcome State Fault Refusal :=
  issue .vmin (f.expand .vminF32) bodyVmin s

/-- VMAX_F32_SHORT (R46, R49): VMAX's S form. -/
def execVmaxF32Short (f : SFields) (s : State) : Host.Outcome State Fault Refusal :=
  issue .vmax (f.expand .vmaxF32) bodyVmax s

/-- VADD_I32_SHORT (R46, R49): VADD's S form. -/
def execVaddI32Short (f : SFields) (s : State) : Host.Outcome State Fault Refusal :=
  issue .vadd (f.expand .vaddI32) bodyVadd s

/-- VSUB_I32_SHORT (R46, R49): VSUB's S form. -/
def execVsubI32Short (f : SFields) (s : State) : Host.Outcome State Fault Refusal :=
  issue .vsub (f.expand .vsubI32) bodyVsub s

/-- VAND_SHORT (R46, R49): VAND's S form. -/
def execVandShort (f : SFields) (s : State) : Host.Outcome State Fault Refusal :=
  issue .vand (f.expand .vand) bodyVand s

/-- VOR_SHORT (R46, R49): VOR's S form. -/
def execVorShort (f : SFields) (s : State) : Host.Outcome State Fault Refusal :=
  issue .vor (f.expand .vor) bodyVor s

/-- VXOR_SHORT (R46, R49): VXOR's S form. -/
def execVxorShort (f : SFields) (s : State) : Host.Outcome State Fault Refusal :=
  issue .vxor (f.expand .vxor) bodyVxor s

/-- BR_SHORT (R46, R49): BR's S form. -/
def execBrShort (f : SFields) (s : State) : Host.Outcome State Fault Refusal :=
  issue .br (f.expand .br) bodyBr s

/-- RET_SHORT (R46, R49): RET's S form. -/
def execRetShort (f : SFields) (s : State) : Host.Outcome State Fault Refusal :=
  issue .ret (f.expand .ret) bodyRet s

/-- EXIT_SHORT (R46, R49): EXIT's S form. -/
def execExitShort (f : SFields) (s : State) : Host.Outcome State Fault Refusal :=
  issue .exit (f.expand .exit) bodyExit s

/-- YIELD_SHORT (R46, R49, R309): as HNT.YD. -/
def execYieldShort (f : SFields) (s : State) : Host.Outcome State Fault Refusal :=
  let w := f.expand .yield
  issue .yield { w with hints := { w.hints with yd := true } } bodyNop s

/-- MCOMMIT_SHORT (R46, R49): MCOMMIT's S form. -/
def execMcommitShort (f : SFields) (s : State) : Host.Outcome State Fault Refusal :=
  issue .mcommit (f.expand .mcommit) bodyMcommit s

/-- MWAIT_SHORT (R46, R49): MWAIT's S form. -/
def execMwaitShort (f : SFields) (s : State) : Host.Outcome State Fault Refusal :=
  issue .mwait (f.expand .mwait) bodyMwait s

/-- MPOLL_SHORT (R46, R49): MPOLL's S form. -/
def execMpollShort (f : SFields) (s : State) : Host.Outcome State Fault Refusal :=
  issue .mpoll (f.expand .mpoll) bodyMpoll s

end Sys2Proof.Machine
end

