-- ==== Sys2Proof/Machine/House.lean ====
section
/-! DEFINITION. Bring-up, attestation and heat (R455 to R463). -/

namespace Sys2Proof.Machine

def State.modHouse (s : State) (f : Housekeeping → Housekeeping) : State := { s with house := f s.house }

/-! ## Heat (R462, R463) -/

/-- The island a sensor lies in (R462). -/
def islandOf (n : Fin 96) : Nat :=
  if n.1 < 64 then n.1 / 4 else if n.1 < 80 then 16 + (n.1 - 64) / 4 else 20 + (n.1 - 80) / 4

/-- The compute island of a site, of an 8 × 8 block of sites, and the island of a quadrant's stack (R18). -/
def siteIsland (site : BitVec 10) : Nat := (siteX site).toNat / 8 + 4 * ((siteY site).toNat / 8)
def stackIsland (q : Nat) : Nat := 16 + q

/-- Whether the clock of the rank's core, or of its column's stack, is stretched to half rate (R463): cycle counts
do not change. -/
def State.coreStretched (s : State) : Bool := s.house.stretched.contains (siteIsland s.party.site)
def State.stackStretched (s : State) : Bool :=
  s.house.stretched.contains (stackIsland (quadrantOf s.party.site))

/-- The parts of a `THERM.n` (R462): its trips, its advise count and its last sample. -/
def thermShut (w : Word) : Nat := (w.extractLsb' 48 8).toNat
def thermThrot (w : Word) : Nat := (w.extractLsb' 40 8).toNat
def thermAdv (w : Word) : Nat := (w.extractLsb' 32 8).toNat
def thermAdvcnt (w : Word) : Nat := (w.extractLsb' 8 16).toNat
def thermTemp (w : Word) : Nat := (w.extractLsb' 0 8).toNat

/-- `THERM.n` after a sample, counted where it crosses ADV from below (R463). -/
def thermSampled (w : Word) (temp : BitVec 8) (crossing : Bool) : Word :=
  setField (setField w 0 8 temp.toNat) 8 16
    (if crossing then min (thermAdvcnt w + 1) 0xFFFF else thermAdvcnt w)

/-- Whether every sensor of an island last sampled at least 5 °C below its THROT (R463). -/
def islandCool (therm : Vector Word 96) (island : Nat) : Bool :=
  (List.finRange 96).all (fun n => islandOf n != island
    || decide (thermTemp therm[n] + 5 ≤ thermThrot therm[n]))

/-- A sensor sampled: when all have been, the next sampling is 100 µs after this one was due (R462). -/
def Housekeeping.sample (h : Housekeeping) (n : Fin 96) : Housekeeping :=
  let done := n.1 :: h.sampled
  if done.length < 96 then { h with sampled := done } else { h with sampled := [], sampleAt := h.sampleAt + 110000 }

/-- Whether a sensor's next sample is due (R462). -/
def State.sampleDue (s : State) (n : Fin 96) : Bool :=
  decide (s.house.sampleAt ≤ s.wall) && !s.house.sampled.contains n.1

/-- THERM_SAMPLE (R462, R463): a sensor is sampled every 100 µs, and every trip the sample reaches acts. -/
def execThermSample (n : Fin 96) (temp : BitVec 8) (s : State) : Host.Outcome State Fault Refusal :=
  powered s (if !s.sampleDue n then s else s.modHouse (fun h0 =>
    let h := h0.sample n
    let w := h.therm[n]
    let hot := decide (thermAdv w ≤ temp.toNat)
    let therm := h.therm.set n (thermSampled w temp (hot && !h.above.contains n.1))
    let above := h.above.filter (· != n.1)
    let others := h.stretched.filter (· != islandOf n)
    { h with
      therm := therm
      above := if hot then n.1 :: above else above
      stretched :=
        if thermThrot w ≤ temp.toNat then islandOf n :: others
        else if islandCool therm (islandOf n) then others else h.stretched
      powered := decide (temp.toNat < thermShut w) }))

/-- THERM_WRITE (R462): new trips, if they keep their order. -/
def execThermWrite (n : Fin 96) (value : Word) (s : State) : Host.Outcome State Fault Refusal :=
  powered s (s.modHouse (fun h =>
    let shut := min (thermShut value) 125
    if thermAdv value ≤ thermThrot value && thermThrot value ≤ shut then
      { h with therm := h.therm.set n (setField (setField (setField h.therm[n] 32 8 (thermAdv value))
        40 8 (thermThrot value)) 48 8 shut) }
    else h))

/-! ## Starts (R455 to R458) -/

/-- Whether a failed start ended less than one second ago (R456). -/
def State.failedLately (s : State) : Bool :=
  match s.house.failEnd with
  | some t => decide (s.wall < t + 1100000000)
  | none => false

/-- The memory a cold start zeroes (R455): what lies on this module. -/
def Memory.zeroModule (m : Memory) : Memory := (m.clear (2 * 2 ^ 52) (3 * 2 ^ 52)).clear (2 ^ 56) (2 ^ 58)

/-- Whether a word lies on this module. -/
def onModule (w : Nat) : Bool :=
  (decide (2 * 2 ^ 52 ≤ 8 * w) && decide (8 * w < 3 * 2 ^ 52)) || (decide (2 ^ 56 ≤ 8 * w) && decide (8 * w < 2 ^ 58))

/-- Where the discovery flood starts (R458): the first live corner, or else the live site with the lowest 32y + x. -/
def floodOrigin (fused : List (BitVec 5 × BitVec 5)) : BitVec 5 × BitVec 5 :=
  let sites := (List.range 1024).map (fun k => (BitVec.ofNat 5 (k % 32), BitVec.ofNat 5 (k / 32)))
  (([(0, 0), (31, 0), (0, 31), (31, 31)] ++ sites).find? (fun x => !fused.contains x)).getD (0, 0)

/-- Whether the flood comes to every live site within 1 ms (R458). -/
def floodReaches (b : BootRun) : Bool :=
  b.unreached.all (fun x => b.fused.contains x || x == floodOrigin b.fused)

/-- Whether the boot ROM accepts the firmware (R460): its signature verifies under a key in a slot that is not
revoked. -/
def firmwareSound (b : BootRun) : Bool :=
  (b.keys.take 8).zipIdx.any (fun k => match k.1 with
    | some (_, key) => !Config.revokedSlots.getLsbD k.2 && Config.verify key (sha512 b.firmware) b.fwSig
    | none => false)

/-- The step of R455 at which a start fails, if it does; a warm one skips the flood. -/
def bootFailure (b : BootRun) (warm : Bool) : Option Nat :=
  [1, 2, 3, 4, 5, 6, 7].find? (fun k => b.failsAt == some (BitVec.ofNat 4 k)
    || (k == 5 && !warm && !floodReaches b) || (k == 6 && !firmwareSound b))

/-- Whether a start comes past a step. -/
def bootPasses (b : BootRun) (warm : Bool) (step : Nat) : Bool :=
  match bootFailure b warm with
  | some k => decide (step < k)
  | none => true

/-- Whether a start comes to a step. -/
def bootReaches (b : BootRun) (warm : Bool) (step : Nat) : Bool :=
  match bootFailure b warm with
  | some k => decide (step ≤ k)
  | none => true

/-- `BOOT.STAT` of a start that has ended (R456).
DEDUCED, log entry 109.
DEDUCED, log entry 110. -/
def bootStatOf (starts : Nat) (b : BootRun) (forced warm : Bool) : Word :=
  let fail := bootFailure b warm
  setField (setField (setField (setField (setField (setField 0 32 32 starts) 8 4 (fail.getD 0))
    4 4 (fail.getD 8)) 3 1 forced.toNat) 2 1 fail.isSome.toNat) 0 1 warm.toNat

/-- A row path after a start: no debt, no narrow mode, its first retraining 100 ms off, and
the errors of the rows that are kept (R163, R164, R170, R455). -/
def RowPath.started (now wall : Nat) (faulty : List ((Nat × Nat) × CellErr)) : RowPath :=
  { RowPath.blank with
    layers := Vector.replicate 4 { RowLayer.blank with dueAt := now + 4290 }
    trainDueAt := wall + 110000000
    windowEnd := wall + 70400000
    faulty := faulty }

/-- A digest's bytes as one number, the first lowest. -/
def word512 (bs : List Byte) : BitVec 512 := BitVec.ofNat 512 (natOfBytes bs)

/-- The blocks and planes of an engine, with nothing else of it (R455). -/
def Matrix.kept (m : Matrix) : Matrix :=
  { Matrix.blank with
    acc := m.acc
    planeMem := m.planeMem
    known := m.known }

/-- Housekeeping after a start. -/
def Housekeeping.started (h : Housekeeping) (wall : Nat) (b : BootRun) (forced warm : Bool) : Housekeeping :=
  let starts := if h.powered then (h.bootStat.extractLsb' 32 32).toNat + 1 else 1
  let fused := if bootPasses b warm 2 then b.fused else h.fused
  { State.reset.house with
    bootStat := bootStatOf starts b forced warm
    trained := if warm then h.trained else bootPasses b warm 4 || (!bootReaches b warm 3 && h.powered && h.trained)
    mapped := if warm then h.mapped else if bootPasses b warm 5 then some fused
      else if !bootReaches b warm 5 && h.powered then h.mapped else none
    origin := if !warm && bootReaches b warm 5 then floodOrigin fused else h.origin
    fused := fused
    keys := if bootPasses b warm 2 then b.keys.take 8 else h.keys
    firmware := if bootPasses b warm 6 then word512 (sha512 b.firmware) else h.firmware
    failEnd := if (bootFailure b warm).isSome then some wall else none
    secPolicy := 1 ||| (Config.revokedSlots.setWidth 64 <<< 8)
    therm := if h.powered then h.therm.map (fun w => setField State.reset.house.therm[(0 : Fin 96)] 0 8 (thermTemp w))
      else State.reset.house.therm
    above := if h.powered then h.above else []
    sampleAt := wall + 110000
    stretched := if h.powered then h.stretched else []
    powered := true }

/-- A start (R455): everything of the module begins again; memory, blocks and planes are zeroed by a cold one that comes
through, and kept by a warm one; what the agenda lays down goes on.
DEDUCED, log entry 108. -/
def State.start (s : State) (b : BootRun) (forced warm : Bool) : State :=
  let zero := !warm && bootPasses b warm 7
  let lost := !s.house.powered
  let mem := if zero || lost then s.mem.zeroModule else s.mem
  let poison := if zero || lost then s.poison.filter (fun w => !onModule w) else s.poison
  { State.reset with
    now := s.now
    slow := s.slow
    tick := s.tick
    agenda := s.agenda
    caps := s.caps
    mem := mem
    matrix := if zero || lost then Matrix.blank else s.matrix.kept
    poison := poison
    nextId := s.nextId
    linkGens := s.linkGens
    replies := s.replies
    rows := RowPath.started s.now s.wall (if zero || lost then [] else s.rows.faulty)
    sched := { State.reset.sched with owners := if warm then s.sched.owners else [] }
    house := s.house.started s.wall b forced warm }

/-- COLD_START (R455, R456): a power-on or a board reset, which runs without power. -/
def execColdStart (b : BootRun) (s : State) : Host.Outcome State Fault Refusal :=
  .next (s.start b s.failedLately false)

/-- BOOT_CTL_WARM (R455 to R457): a write of `BOOT.CTL`; a warm start runs cold after a failed one and
where nothing is saved. -/
def execBootCtlWarm (value : Word) (b : BootRun) (s : State) : Host.Outcome State Fault Refusal :=
  powered s (
    if !value.getLsbD 0 then s
    else if s.failedLately then s.start b true false
    else s.start b false (s.house.trained && s.house.mapped.isSome))

/-! ## The capability list (R459) -/

/-- The capabilities of a module, each an ID with its DATA (R459). -/
def capFeatures (c : Caps) : List (Nat × Nat) :=
  [(c.expc, 1), (c.fixed, 2), (c.stoch, 3), (c.narrow, 4)].filterMap (fun f => if f.1 then some (f.2, 0) else none)
    ++ [(5, c.ports.toNat)]

/-- Where the list lies in configuration space.
DESIGN CHOICE, log entry 136. -/
def capBase : Nat := 0x200

/-- The entries of the capability list, one after another from `capBase` (R459). -/
def capEntries (c : Caps) : List Word :=
  let fs := capFeatures c
  fs.zipIdx.map (fun f => BitVec.ofNat 64 (f.1.1 + 0x100
    + (if f.2 + 1 = fs.length then 0 else capBase / 8 + f.2 + 1) * 2 ^ 16 + f.1.2 * 2 ^ 32))

/-- A word of configuration space from offset 0x100 on: `CAP.PTR` and the entries of the list (R459). -/
def State.capWord (s : State) (offset : Nat) : Word :=
  if offset = 0x100 then BitVec.ofNat 64 (capBase / 8)
  else if offset < capBase then 0
  else (capEntries s.caps).getD ((offset - capBase) / 8) 0

/-! ## Attestation (R461) -/

/-- SEC_ATTEST_REQUEST (R461): a nonce and an aligned host address; the newer request replaces an older, and its report
is written within 2 ms. -/
def execSecAttestRequest (nonce : BitVec 256) (addr : Word) (s : State) : Host.Outcome State Fault Refusal :=
  powered s (
    if addr.extractLsb' 52 12 == 1 && addr.extractLsb' 0 6 == 0 then
      s.modHouse (fun h => { h with attest := some (nonce, addr, s.wall + 2200000) })
    else s)

/-- Bytes 0 to 191 of a report as one number (R461).
DEDUCED, log entry 111. -/
def State.reportBody (s : State) (nonce : BitVec 256) : Nat :=
  let starts := s.house.bootStat.extractLsb' 32 32
  nonce.toNat + s.house.firmware.toNat * 2 ^ 256
    + (Config.mapDigest s.house.fused (s.house.mapped.getD [])).toNat * 2 ^ 768 + starts.toNat * 2 ^ 1280

/-- ATTEST_REPORT_WRITE (R461): the report is written for the request that stands. -/
def execAttestReportWrite (s : State) : Host.Outcome State Fault Refusal :=
  powered s (
    match s.house.attest with
    | some (nonce, addr, _) =>
      let body := s.reportBody nonce
      let report := bytesOfNat 256 (body + (Config.sign body).toNat * 2 ^ 1536)
      (s.writeKeys ⟨11, .o, false⟩ (keysFrom addr.toNat 256) report).modHouse (fun h => { h with attest := none })
    | none => s)

end Sys2Proof.Machine
end

