-- ==== Sys2Proof/Machine/Dispatch.lean ====
section
/-! DEFINITION. One arm for each constructor of `Instr`. -/

namespace Sys2Proof.Machine

def exec (i : Instr) (s : State) : Host.Outcome State Fault Refusal :=
  match i with
  | .nop w => Sys2Proof.Machine.execNop w s
  | .br w => Sys2Proof.Machine.execBr w s
  | .jmp w => Sys2Proof.Machine.execJmp w s
  | .call w => Sys2Proof.Machine.execCall w s
  | .callr w => Sys2Proof.Machine.execCallr w s
  | .ret w => Sys2Proof.Machine.execRet w s
  | .jp w => Sys2Proof.Machine.execJp w s
  | .waitp w => Sys2Proof.Machine.execWaitp w s
  | .loop w => Sys2Proof.Machine.execLoop w s
  | .linc w => Sys2Proof.Machine.execLinc w s
  | .start w => Sys2Proof.Machine.execStart w s
  | .join w => Sys2Proof.Machine.execJoin w s
  | .exit w => Sys2Proof.Machine.execExit w s
  | .yield w => Sys2Proof.Machine.execYield w s
  | .trap w => Sys2Proof.Machine.execTrap w s
  | .defer w => Sys2Proof.Machine.execDefer w s
  | .park w => Sys2Proof.Machine.execPark w s
  | .add w => Sys2Proof.Machine.execAdd w s
  | .sub w => Sys2Proof.Machine.execSub w s
  | .mul w => Sys2Proof.Machine.execMul w s
  | .mulh w => Sys2Proof.Machine.execMulh w s
  | .mulhu w => Sys2Proof.Machine.execMulhu w s
  | .div w => Sys2Proof.Machine.execDiv w s
  | .divu w => Sys2Proof.Machine.execDivu w s
  | .rem w => Sys2Proof.Machine.execRem w s
  | .remu w => Sys2Proof.Machine.execRemu w s
  | .and w => Sys2Proof.Machine.execAnd w s
  | .or w => Sys2Proof.Machine.execOr w s
  | .xor w => Sys2Proof.Machine.execXor w s
  | .andn w => Sys2Proof.Machine.execAndn w s
  | .shl w => Sys2Proof.Machine.execShl w s
  | .shr w => Sys2Proof.Machine.execShr w s
  | .sar w => Sys2Proof.Machine.execSar w s
  | .rot w => Sys2Proof.Machine.execRot w s
  | .min w => Sys2Proof.Machine.execMin w s
  | .max w => Sys2Proof.Machine.execMax w s
  | .minu w => Sys2Proof.Machine.execMinu w s
  | .maxu w => Sys2Proof.Machine.execMaxu w s
  | .clz w => Sys2Proof.Machine.execClz w s
  | .ctz w => Sys2Proof.Machine.execCtz w s
  | .popc w => Sys2Proof.Machine.execPopc w s
  | .bext w => Sys2Proof.Machine.execBext w s
  | .bins w => Sys2Proof.Machine.execBins w s
  | .sext w => Sys2Proof.Machine.execSext w s
  | .zext w => Sys2Proof.Machine.execZext w s
  | .mov w => Sys2Proof.Machine.execMov w s
  | .movl w => Sys2Proof.Machine.execMovl w s
  | .sel w => Sys2Proof.Machine.execSel w s
  | .cmp w => Sys2Proof.Machine.execCmp w s
  | .pset w => Sys2Proof.Machine.execPset w s
  | .pmov w => Sys2Proof.Machine.execPmov w s
  | .addr w => Sys2Proof.Machine.execAddr w s
  | .fadd w => Sys2Proof.Machine.execFadd w s
  | .fsub w => Sys2Proof.Machine.execFsub w s
  | .fmul w => Sys2Proof.Machine.execFmul w s
  | .ffma w => Sys2Proof.Machine.execFfma w s
  | .fdiv w => Sys2Proof.Machine.execFdiv w s
  | .fsqrt w => Sys2Proof.Machine.execFsqrt w s
  | .fmin w => Sys2Proof.Machine.execFmin w s
  | .fmax w => Sys2Proof.Machine.execFmax w s
  | .fabs w => Sys2Proof.Machine.execFabs w s
  | .fneg w => Sys2Proof.Machine.execFneg w s
  | .fcmp w => Sys2Proof.Machine.execFcmp w s
  | .fcvt w => Sys2Proof.Machine.execFcvt w s
  | .fclass w => Sys2Proof.Machine.execFclass w s
  | .ld w => Sys2Proof.Machine.execLd w s
  | .st w => Sys2Proof.Machine.execSt w s
  | .ldv w => Sys2Proof.Machine.execLdv w s
  | .stv w => Sys2Proof.Machine.execStv w s
  | .ldx w => Sys2Proof.Machine.execLdx w s
  | .stx w => Sys2Proof.Machine.execStx w s
  | .atom w => Sys2Proof.Machine.execAtom w s
  | .cas w => Sys2Proof.Machine.execCas w s
  | .pref w => Sys2Proof.Machine.execPref w s
  | .bbind w => Sys2Proof.Machine.execBbind w s
  | .acq w => Sys2Proof.Machine.execAcq w s
  | .rel w => Sys2Proof.Machine.execRel w s
  | .btry w => Sys2Proof.Machine.execBtry w s
  | .fence w => Sys2Proof.Machine.execFence w s
  | .lbfence w => Sys2Proof.Machine.execLbfence w s
  | .isync w => Sys2Proof.Machine.execIsync w s
  | .ract w => Sys2Proof.Machine.execRact w s
  | .rcon w => Sys2Proof.Machine.execRcon w s
  | .rwb w => Sys2Proof.Machine.execRwb w s
  | .rpre w => Sys2Proof.Machine.execRpre w s
  | .rstat w => Sys2Proof.Machine.execRstat w s
  | .rref w => Sys2Proof.Machine.execRref w s
  | .sbind w => Sys2Proof.Machine.execSbind w s
  | .sfree w => Sys2Proof.Machine.execSfree w s
  | .sdrain w => Sys2Proof.Machine.execSdrain w s
  | .sstat w => Sys2Proof.Machine.execSstat w s
  | .iload w => Sys2Proof.Machine.execIload w s
  | .irun w => Sys2Proof.Machine.execIrun w s
  | .iwait w => Sys2Proof.Machine.execIwait w s
  | .ipoll w => Sys2Proof.Machine.execIpoll w s
  | .idrop w => Sys2Proof.Machine.execIdrop w s
  | .send w => Sys2Proof.Machine.execSend w s
  | .recv w => Sys2Proof.Machine.execRecv w s
  | .put w => Sys2Proof.Machine.execPut w s
  | .get w => Sys2Proof.Machine.execGet w s
  | .coll w => Sys2Proof.Machine.execColl w s
  | .bar w => Sys2Proof.Machine.execBar w s
  | .barc w => Sys2Proof.Machine.execBarc w s
  | .vadd w => Sys2Proof.Machine.execVadd w s
  | .vsub w => Sys2Proof.Machine.execVsub w s
  | .vmul w => Sys2Proof.Machine.execVmul w s
  | .vfma w => Sys2Proof.Machine.execVfma w s
  | .vfms w => Sys2Proof.Machine.execVfms w s
  | .vrcp w => Sys2Proof.Machine.execVrcp w s
  | .vrsq w => Sys2Proof.Machine.execVrsq w s
  | .vsqrt w => Sys2Proof.Machine.execVsqrt w s
  | .vexp2 w => Sys2Proof.Machine.execVexp2 w s
  | .vlog2 w => Sys2Proof.Machine.execVlog2 w s
  | .vtanh w => Sys2Proof.Machine.execVtanh w s
  | .vmin w => Sys2Proof.Machine.execVmin w s
  | .vmax w => Sys2Proof.Machine.execVmax w s
  | .vabs w => Sys2Proof.Machine.execVabs w s
  | .vneg w => Sys2Proof.Machine.execVneg w s
  | .vand w => Sys2Proof.Machine.execVand w s
  | .vor w => Sys2Proof.Machine.execVor w s
  | .vxor w => Sys2Proof.Machine.execVxor w s
  | .vshl w => Sys2Proof.Machine.execVshl w s
  | .vshr w => Sys2Proof.Machine.execVshr w s
  | .vsar w => Sys2Proof.Machine.execVsar w s
  | .vcmp w => Sys2Proof.Machine.execVcmp w s
  | .vsel w => Sys2Proof.Machine.execVsel w s
  | .vbcast w => Sys2Proof.Machine.execVbcast w s
  | .vext w => Sys2Proof.Machine.execVext w s
  | .vins w => Sys2Proof.Machine.execVins w s
  | .vshuf w => Sys2Proof.Machine.execVshuf w s
  | .vperm w => Sys2Proof.Machine.execVperm w s
  | .vrot w => Sys2Proof.Machine.execVrot w s
  | .vred w => Sys2Proof.Machine.execVred w s
  | .vscan w => Sys2Proof.Machine.execVscan w s
  | .vcvt w => Sys2Proof.Machine.execVcvt w s
  | .vcvto w => Sys2Proof.Machine.execVcvto w s
  | .vpack w => Sys2Proof.Machine.execVpack w s
  | .vunpk w => Sys2Proof.Machine.execVunpk w s
  | .vdot w => Sys2Proof.Machine.execVdot w s
  | .vtag w => Sys2Proof.Machine.execVtag w s
  | .vargm w => Sys2Proof.Machine.execVargm w s
  | .viota w => Sys2Proof.Machine.execViota w s
  | .vmsk w => Sys2Proof.Machine.execVmsk w s
  | .vcnt w => Sys2Proof.Machine.execVcnt w s
  | .vclamp w => Sys2Proof.Machine.execVclamp w s
  | .vqnt w => Sys2Proof.Machine.execVqnt w s
  | .mmas w => Sys2Proof.Machine.execMmas w s
  | .mmav w => Sys2Proof.Machine.execMmav w s
  | .mmar w => Sys2Proof.Machine.execMmar w s
  | .mcommit w => Sys2Proof.Machine.execMcommit w s
  | .mwait w => Sys2Proof.Machine.execMwait w s
  | .mpoll w => Sys2Proof.Machine.execMpoll w s
  | .mcmd w => Sys2Proof.Machine.execMcmd w s
  | .mcap w => Sys2Proof.Machine.execMcap w s
  | .aballoc w => Sys2Proof.Machine.execAballoc w s
  | .abfree w => Sys2Proof.Machine.execAbfree w s
  | .abzero w => Sys2Proof.Machine.execAbzero w s
  | .abread w => Sys2Proof.Machine.execAbread w s
  | .abwrite w => Sys2Proof.Machine.execAbwrite w s
  | .mtq w => Sys2Proof.Machine.execMtq w s
  | .mstat w => Sys2Proof.Machine.execMstat w s
  | .wload w => Sys2Proof.Machine.execWload w s
  | .wswap w => Sys2Proof.Machine.execWswap w s
  | .wpass w => Sys2Proof.Machine.execWpass w s
  | .wres w => Sys2Proof.Machine.execWres w s
  | .wchk w => Sys2Proof.Machine.execWchk w s
  | .wgacc w => Sys2Proof.Machine.execWgacc w s
  | .wcfg w => Sys2Proof.Machine.execWcfg w s
  | .wstat w => Sys2Proof.Machine.execWstat w s
  | .launch w => Sys2Proof.Machine.execLaunch w s
  | .owait w => Sys2Proof.Machine.execOwait w s
  | .opoll w => Sys2Proof.Machine.execOpoll w s
  | .csrr w => Sys2Proof.Machine.execCsrr w s
  | .csrw w => Sys2Proof.Machine.execCsrw w s
  | .csrs w => Sys2Proof.Machine.execCsrs w s
  | .csrc w => Sys2Proof.Machine.execCsrc w s
  | .trapret w => Sys2Proof.Machine.execTrapret w s
  | .tlbinv w => Sys2Proof.Machine.execTlbinv w s
  | .evrd w => Sys2Proof.Machine.execEvrd w s
  | .evclr w => Sys2Proof.Machine.execEvclr w s
  | .idle w => Sys2Proof.Machine.execIdle w s
  | .nopShort f => Sys2Proof.Machine.execNopShort f s
  | .addI64Short f => Sys2Proof.Machine.execAddI64Short f s
  | .subI64Short f => Sys2Proof.Machine.execSubI64Short f s
  | .mulI64Short f => Sys2Proof.Machine.execMulI64Short f s
  | .andI64Short f => Sys2Proof.Machine.execAndI64Short f s
  | .orI64Short f => Sys2Proof.Machine.execOrI64Short f s
  | .xorI64Short f => Sys2Proof.Machine.execXorI64Short f s
  | .shlI64Short f => Sys2Proof.Machine.execShlI64Short f s
  | .shrI64Short f => Sys2Proof.Machine.execShrI64Short f s
  | .sarI64Short f => Sys2Proof.Machine.execSarI64Short f s
  | .minI64Short f => Sys2Proof.Machine.execMinI64Short f s
  | .maxI64Short f => Sys2Proof.Machine.execMaxI64Short f s
  | .movI64Short f => Sys2Proof.Machine.execMovI64Short f s
  | .cmpI64EqShort f => Sys2Proof.Machine.execCmpI64EqShort f s
  | .cmpI64NeShort f => Sys2Proof.Machine.execCmpI64NeShort f s
  | .cmpI64LtShort f => Sys2Proof.Machine.execCmpI64LtShort f s
  | .cmpI64GeShort f => Sys2Proof.Machine.execCmpI64GeShort f s
  | .cmpI64LtuShort f => Sys2Proof.Machine.execCmpI64LtuShort f s
  | .cmpI64GeuShort f => Sys2Proof.Machine.execCmpI64GeuShort f s
  | .ldI64Short f => Sys2Proof.Machine.execLdI64Short f s
  | .ldI32Short f => Sys2Proof.Machine.execLdI32Short f s
  | .stI64Short f => Sys2Proof.Machine.execStI64Short f s
  | .stI32Short f => Sys2Proof.Machine.execStI32Short f s
  | .ldvShort f => Sys2Proof.Machine.execLdvShort f s
  | .stvShort f => Sys2Proof.Machine.execStvShort f s
  | .faddF32RneShort f => Sys2Proof.Machine.execFaddF32RneShort f s
  | .fsubF32RneShort f => Sys2Proof.Machine.execFsubF32RneShort f s
  | .fmulF32RneShort f => Sys2Proof.Machine.execFmulF32RneShort f s
  | .ffmaF32RneShort f => Sys2Proof.Machine.execFfmaF32RneShort f s
  | .vaddF32RneShort f => Sys2Proof.Machine.execVaddF32RneShort f s
  | .vsubF32RneShort f => Sys2Proof.Machine.execVsubF32RneShort f s
  | .vmulF32RneShort f => Sys2Proof.Machine.execVmulF32RneShort f s
  | .vfmaF32RneShort f => Sys2Proof.Machine.execVfmaF32RneShort f s
  | .vminF32Short f => Sys2Proof.Machine.execVminF32Short f s
  | .vmaxF32Short f => Sys2Proof.Machine.execVmaxF32Short f s
  | .vaddI32Short f => Sys2Proof.Machine.execVaddI32Short f s
  | .vsubI32Short f => Sys2Proof.Machine.execVsubI32Short f s
  | .vandShort f => Sys2Proof.Machine.execVandShort f s
  | .vorShort f => Sys2Proof.Machine.execVorShort f s
  | .vxorShort f => Sys2Proof.Machine.execVxorShort f s
  | .brShort f => Sys2Proof.Machine.execBrShort f s
  | .retShort f => Sys2Proof.Machine.execRetShort f s
  | .exitShort f => Sys2Proof.Machine.execExitShort f s
  | .yieldShort f => Sys2Proof.Machine.execYieldShort f s
  | .mcommitShort f => Sys2Proof.Machine.execMcommitShort f s
  | .mwaitShort f => Sys2Proof.Machine.execMwaitShort f s
  | .mpollShort f => Sys2Proof.Machine.execMpollShort f s
  | .icacheFill c addr => Sys2Proof.Machine.execIcacheFill c addr s
  | .hamperEntryExecute c => Sys2Proof.Machine.execHamperEntryExecute c s
  | .takeTrap c => Sys2Proof.Machine.execTakeTrap c s
  | .hintStallExpiry c => Sys2Proof.Machine.execHintStallExpiry c s
  | .idleCountExpiry c => Sys2Proof.Machine.execIdleCountExpiry c s
  | .valueLands n => Sys2Proof.Machine.execValueLands n s
  | .faultRecordWrite vf => Sys2Proof.Machine.execFaultRecordWrite vf s
  | .fqRespReplay vf token => Sys2Proof.Machine.execFqRespReplay vf token s
  | .fqRespDecline vf token => Sys2Proof.Machine.execFqRespDecline vf token s
  | .fqCtlWrite vf value => Sys2Proof.Machine.execFqCtlWrite vf value s
  | .notPresentTimeout vf token => Sys2Proof.Machine.execNotPresentTimeout vf token s
  | .xltInvRange asid va count => Sys2Proof.Machine.execXltInvRange asid va count s
  | .xltInvAsid value => Sys2Proof.Machine.execXltInvAsid value s
  | .xltInvVf value => Sys2Proof.Machine.execXltInvVf value s
  | .xltInvMove asid va count => Sys2Proof.Machine.execXltInvMove asid va count s
  | .xltInvComplete => Sys2Proof.Machine.execXltInvComplete s
  | .anchorExpiry asid page => Sys2Proof.Machine.execAnchorExpiry asid page s
  | .linkGenAdvance peer => Sys2Proof.Machine.execLinkGenAdvance peer s
  | .outsideRead r => Sys2Proof.Machine.execOutsideRead r s
  | .outsideWrite r data => Sys2Proof.Machine.execOutsideWrite r data s
  | .gateTimeout n own => Sys2Proof.Machine.execGateTimeout n own s
  | .rowCommandStart => Sys2Proof.Machine.execRowCommandStart s
  | .transferAttemptEnd bad => Sys2Proof.Machine.execTransferAttemptEnd bad s
  | .rowTransferComplete errs => Sys2Proof.Machine.execRowTransferComplete errs s
  | .refreshDue layer => Sys2Proof.Machine.execRefreshDue layer s
  | .refreshComplete layer => Sys2Proof.Machine.execRefreshComplete layer s
  | .forcedBurst layer => Sys2Proof.Machine.execForcedBurst layer s
  | .activationWindowEnd => Sys2Proof.Machine.execActivationWindowEnd s
  | .retrainDue => Sys2Proof.Machine.execRetrainDue s
  | .retrainStart => Sys2Proof.Machine.execRetrainStart s
  | .retrainEnd => Sys2Proof.Machine.execRetrainEnd s
  | .seqWdogReset q => Sys2Proof.Machine.execSeqWdogReset q s
  | .seqResetEnd q => Sys2Proof.Machine.execSeqResetEnd q s
  | .seqResetHoldTimeout n => Sys2Proof.Machine.execSeqResetHoldTimeout n s
  | .engineOpStart => Sys2Proof.Machine.execEngineOpStart s
  | .engineOpComplete => Sys2Proof.Machine.execEngineOpComplete s
  | .mcmdArrive m => Sys2Proof.Machine.execMcmdArrive m s
  | .mcmdTimeout n => Sys2Proof.Machine.execMcmdTimeout n s
  | .mcmdStatusLand n r => Sys2Proof.Machine.execMcmdStatusLand n r s
  | .planeOpStart n => Sys2Proof.Machine.execPlaneOpStart n s
  | .planeOpComplete n bad => Sys2Proof.Machine.execPlaneOpComplete n bad s
  | .stopLaunch => Sys2Proof.Machine.execStopLaunch s
  | .stopComplete n => Sys2Proof.Machine.execStopComplete n s
  | .streamGroupArrive n => Sys2Proof.Machine.execStreamGroupArrive n s
  | .streamGroupWrite n => Sys2Proof.Machine.execStreamGroupWrite n s
  | .messageMatch n p => Sys2Proof.Machine.execMessageMatch n p s
  | .messageLand n p => Sys2Proof.Machine.execMessageLand n p s
  | .messageTimeout n => Sys2Proof.Machine.execMessageTimeout n s
  | .chunkArrive k => Sys2Proof.Machine.execChunkArrive k s
  | .stepEntry scope => Sys2Proof.Machine.execStepEntry scope s
  | .stepProgress scope p => Sys2Proof.Machine.execStepProgress scope p s
  | .stepTimeout scope => Sys2Proof.Machine.execStepTimeout scope s
  | .beaconGrant dpa => Sys2Proof.Machine.execBeaconGrant dpa s
  | .launchPacket bits => Sys2Proof.Machine.execLaunchPacket bits s
  | .slotRecordWrite site slot bits => Sys2Proof.Machine.execSlotRecordWrite site slot bits s
  | .dispatchStart d => Sys2Proof.Machine.execDispatchStart d s
  | .preemptRequest => Sys2Proof.Machine.execPreemptRequest s
  | .partySaveComplete => Sys2Proof.Machine.execPartySaveComplete s
  | .quantumExpiry => Sys2Proof.Machine.execQuantumExpiry s
  | .queueAging vf outing => Sys2Proof.Machine.execQueueAging vf outing s
  | .outingComplete vf outing => Sys2Proof.Machine.execOutingComplete vf outing s
  | .fcastWrite island value => Sys2Proof.Machine.execFcastWrite island value s
  | .schedQuantumWrite value => Sys2Proof.Machine.execSchedQuantumWrite value s
  | .thermSample n temp => Sys2Proof.Machine.execThermSample n temp s
  | .thermWrite n value => Sys2Proof.Machine.execThermWrite n value s
  | .coldStart b => Sys2Proof.Machine.execColdStart b s
  | .bootCtlWarm value b => Sys2Proof.Machine.execBootCtlWarm value b s
  | .secAttestRequest nonce addr => Sys2Proof.Machine.execSecAttestRequest nonce addr s
  | .attestReportWrite => Sys2Proof.Machine.execAttestReportWrite s
  | .fpctlWrite c k b => Sys2Proof.Machine.execFpctlWrite c k b s
  | .ctxModeWrite c k b => Sys2Proof.Machine.execCtxModeWrite c k b s
  | .ovflWrite c k b => Sys2Proof.Machine.execOvflWrite c k b s
  | .hamperPeakWrite c k b => Sys2Proof.Machine.execHamperPeakWrite c k b s
  | .collTimeoutWrite k b => Sys2Proof.Machine.execCollTimeoutWrite k b s
  | .rowLogClear xfer k b => Sys2Proof.Machine.execRowLogClear xfer k b s
  | .coreMovedClear k b => Sys2Proof.Machine.execCoreMovedClear k b s
  | .planeCfgWrite c k b => Sys2Proof.Machine.execPlaneCfgWrite c k b s
  | .registerWrite r b => Sys2Proof.Machine.execRegisterWrite r b s
  | .accessCompletesAtHome n => Sys2Proof.Machine.execAccessCompletesAtHome n s
  | .debtRepaymentStart layer => Sys2Proof.Machine.execDebtRepaymentStart layer s

end Sys2Proof.Machine
end

