-- ==== Sys2Proof/Machine/Place.lean ====
section
/-! DEFINITION. Placing an instruction for the next step. A program comes to run only through a launch and
a dispatch (R415, R425); this stands for both: context 0 is bound and ready, one 1 GiB page maps its code
from host memory (R112), and nothing else is ready before it. -/

namespace Sys2Proof.Machine

/-- The host address of a page-table node as a DPA of region 1 (R107). -/
def hostDpa (a : Nat) : Nat := 2 ^ 52 + a

/-- A node entry (R113), and a leaf that reads, writes and executes with A and D set (R114). -/
def nodeEntry (dpa : Nat) : Nat := 1 + dpa / 4096 * 2 ^ 64
def leafEntry (dpa : Nat) : Nat := 0xDF + dpa / 4096 * 2 ^ 64

/-- The table: three nodes that lead virtual address 0 to host address 0. -/
def placedTable (m : Memory) : Memory :=
  ((m.setNat (hostDpa 0x2000) 16 (nodeEntry (hostDpa 0x4000))).setNat (hostDpa 0x4000) 16
    (nodeEntry (hostDpa 0x6000))).setNat (hostDpa 0x6000) 16 (leafEntry (hostDpa 0))

/-- Context 0 with nothing before its next instruction. -/
def Ctx.placed (x : Ctx) : Ctx :=
  { x with cstate := .ready, pc := 0, hamper := [], faults := [], park := none, idle := none,
           startAt := 0, loop := LoopState.empty }

/-- The state with bytes at virtual address 0 of context 0's address space, which is next to issue.
DESIGN CHOICE, log entry 44.
DESIGN CHOICE, log entry 116. -/
def State.placed (s : State) (bytes : List Byte) : State :=
  let s1 := { s with
    agenda := []
    turn := false
    cur := 10
    icache := []
    ilines := []
    l1 := []
    l2 := []
    unseen := []
    poison := []
    mem := (placedTable s.mem).setBytes (hostDpa 0) bytes
    xltAs := setAt s.xltAs s.asid.toNat (BitVec.ofNat 256 (hostDpa 0x2000 * 2 ^ 80))
    party := { s.party with
      bound := true
      preempting := false
      starting := false }
    house := { s.house with powered := true } }
  s1.setCtx 0 (s1.ctx 0).placed

end Sys2Proof.Machine
end

