-- ==== Sys2Proof/Machine/Turn.lean ====
section
/-! DEFINITION. What a step does next: an entry of the agenda, an event of the part that is due, the issue of
a ready context, or the passing of time; and what follows every step. -/

namespace Sys2Proof.Machine

/-- The index of the first element that meets a test. -/
def firstIdx {α : Type} (p : α → Bool) : List α → Option Nat
  | [] => none
  | x :: xs => if p x then some 0 else (firstIdx p xs).map (· + 1)

/-- An event of the part with a state it takes place in. -/
abbrev Due := Option (Host.Outcome State Fault Refusal)

/-- The first context that meets a test, with an event for it. -/
def ctxDue (p : Fin 11 → Bool) (f : Fin 11 → Host.Outcome State Fault Refusal) : Due := (allCtx.find? p).map f

/-- The first layer that meets a test, with an event for it. -/
def layerDue (p : Fin 4 → Bool) (f : Fin 4 → Host.Outcome State Fault Refusal) : Due :=
  ((List.finRange 4).find? p).map f

/-- A sensor's sample (R462), at the temperature it last had unless the agenda says otherwise, and an attestation report
that is written at the latest (R461).
DESIGN CHOICE, log entry 140. -/
def State.houseDue (s : State) : Due :=
  if s.house.sampleAt ≤ s.wall then
    ((List.finRange 96).find? s.sampleDue).map (fun n =>
      execThermSample n (BitVec.ofNat 8 (thermTemp s.house.therm[n])) s)
  else
    match s.house.attest with
    | some (_, _, t) => if t ≤ s.wall then some (execAttestReportWrite s) else none
    | none => none

/-- Events whose time has come: of contexts (R32, R454), the gate (R136, R444), the tracker (R133) and the
sequencers (R442).
DEDUCED, log entry 113. -/
def State.expired (s : State) : Due :=
  ctxDue s.hintOver (fun c => execHintStallExpiry c s)
  <|> ctxDue (fun c => match (s.ctx c).idle with
      | some i => !i.woken && !s.party.preempting && i.until' != 0 && decide (i.until' ≤ s.now)
      | none => false) (fun c => execIdleCountExpiry c s)
  <|> (firstIdx (fun (g : GateReq) => !g.admitted && s.waitsReset g && decide (g.arrived + 2200000 ≤ s.wall)) s.gate).map
      (fun n => execSeqResetHoldTimeout n s)
  <|> (firstIdx s.gateExpired s.gate).map
      (fun n => execGateTimeout n false s)
  <|> s.houseDue
  <|> (s.tracker.find? (fun t => match t.anchored with | some k => decide (k ≤ s.wall) | none => false)).map
      (fun t => execAnchorExpiry t.asid t.page s)
  <|> ((List.finRange 4).find? (fun q => (s.seq q).resetting && decide ((s.seq q).resetStart + 220000 ≤ s.now))).map
      (fun q => execSeqResetEnd q s)


/-- Events of the row path that are due (R142, R157 to R161, R170). A transfer's parity and its codewords are
right unless the agenda says otherwise.
DESIGN CHOICE, log entry 3.
DESIGN CHOICE, log entry 66. -/
def State.rowDue (s : State) : Due :=
  layerDue (fun l => match (s.rows.layer l.1).refreshEnd with | some t => decide (t ≤ s.now) | none => false)
      (fun l => execRefreshComplete l s)
  <|> layerDue (fun l => decide ((s.rows.layer l.1).dueAt ≤ s.now)) (fun l => execRefreshDue l s)
  <|> (if s.rows.windowEnd ≤ s.wall then some (execActivationWindowEnd s) else none)
  <|> (match s.rows.trainEnd with
      | some t => if t ≤ s.now then some (execRetrainEnd s) else none
      | none => none)
  <|> (if !s.rows.narrow && !s.rows.trainDue && s.rows.trainEnd.isNone && decide (s.rows.trainDueAt ≤ s.wall) then
        some (execRetrainDue s) else none)
  <|> (if s.rows.trainDue && s.rows.running.all (fun k => !k.isTransfer)
          && (!s.rows.transfersQueued || decide (s.rows.trainDueAt + 2200000 ≤ s.wall)) then
        some (execRetrainStart s) else none)
  <|> layerDue (fun l => (s.rows.layer l.1).burst && s.layerIdle l.1 && !s.evictionQueued l.1)
      (fun l => execForcedBurst l s)
  <|> (match s.rows.arriving with
      | some cmd => if cmd.doneAt ≤ s.now then some (execRowTransferComplete [] s) else none
      | none => none)
  <|> (match s.rows.onBus with
      | some cmd => if s.rows.attemptEnd cmd ≤ s.now then some (execTransferAttemptEnd none s) else none
      | none => none)
  <|> layerDue (fun l => s.mayRepay l.1) (fun l => execDebtRepaymentStart l s)
  <|> (match s.rows.queue with
      | cmd :: _ => if s.queueOpen && s.rowStartable cmd then some (execRowCommandStart s) else none
      | [] => none)

/-- Accesses that may land, fault records that may be written, an invalidation that is over (R122, R124, R127). -/
def State.accessDue (s : State) : Due :=
  (firstIdx s.mayLand s.flights).bind (fun n => (s.flights[n]?).map (fun f =>
      if f.hasValue then execValueLands ⟨n, none⟩ s else execAccessCompletesAtHome ⟨n, none⟩ s))
  <|> (s.pendingRecs.find? (fun r => s.recordDue r.vf)).map (fun r => execFaultRecordWrite r.vf s)
  <|> (if s.invOver then some (execXltInvComplete s) else none)

/-- Operations of the matrix engine and the planes (R372, R395). -/
def State.arrayDue (s : State) : Due :=
  (if s.matrix.queue.any s.engineDone then some (execEngineOpComplete s) else none)
  <|> (if s.matrix.queue.any s.engineReady then some (execEngineOpStart s) else none)
  <|> (firstIdx (fun (p : PlaneOp) => p.started) s.matrix.planeQueue).map (fun n => execPlaneOpComplete n [] s)
  <|> (firstIdx s.planeReady s.matrix.planeQueue).map (fun n => execPlaneOpStart n s)
  <|> ((s.msgs.filterMap (·.cmd)).find? (fun k => !s.cmdBehind k)).map (fun k => execMcmdArrive k s)
  <|> s.cmdDue.map (fun k => execMcmdArrive k s)

/-- Whether a binding can read or write a group. -/
def State.streamReads (s : State) (n : Fin 8) : Bool :=
  match s.graph.streams[n.1]? with | some b => b.nextRead.any (fun g => !s.groupHeld b g.idx) | none => false
def State.streamWrites (s : State) (n : Fin 8) : Bool :=
  match s.graph.streams[n.1]? with
  | some b => b.out && s.writable b != 0 && !s.groupHeld b ((b.buf.head?.map (·.idx)).getD 0)
  | none => false

/-- Stops and streams (R211, R236, R238). -/
def State.graphDue (s : State) : Due :=
  (firstIdx s.stopReady s.graph.inProgress).map (fun n => execStopComplete ⟨n, .own⟩ s)
  <|> (if !s.graph.launchQueue.isEmpty && decide (s.graph.inProgress.length < 32) && !s.party.preempting then
      some (execStopLaunch s) else none)
  <|> ((List.finRange 8).find? s.streamReads).map (fun n => execStreamGroupArrive ⟨n, none⟩ s)
  <|> ((List.finRange 8).find? s.streamWrites).map (fun n => execStreamGroupWrite ⟨n, none⟩ s)

/-- Messages, steps and grants (R198, R249, R250, R257, R258, R267). -/
def State.commDue (s : State) : Due :=
  s.dueMessage
  <|> s.dueStep false
  <|> s.dueStep true
  <|> (s.beacons.find? (fun q => s.grantDue q.1)).map (fun q => execBeaconGrant ⟨q.1, .oldest⟩ s)

/-- Whether an outing's completion or its record is next. -/
def State.outingDue (s : State) (o : Outing) : Bool :=
  (o.state == .done && !o.recorded && o.token.isNone)
    || (s.canComplete o && (o.token.isNone) && decide (pkCount o.packet ≤ o.ended))

/-- What ends a halt and an outing (R417, R429). -/
def State.partyDue (s : State) : Due :=
  (if s.halted then some (execPartySaveComplete s) else none)
  <|> (s.sched.outings.find? s.outingDue).map (fun o => execOutingComplete o.vf o.id s)

/-- The event of the part that is due, in a fixed order.
DESIGN CHOICE, log entry 114. -/
def State.dueEvent (s : State) : Due :=
  s.expired <|> s.rowDue <|> s.accessDue <|> s.arrayDue <|> s.graphDue <|> s.commDue <|> s.partyDue

/-- The times a command of the row path waits for. -/
def State.rowTimes (s : State) : List Nat :=
  let r := s.rows
  let banks := (List.range 16).flatMap (fun b =>
    let k := r.bank b
    [k.preDone, k.nbrEnd, k.openedAt + 16, k.openedAt + 36, k.wbEnd + 17])
  (if r.queue.isEmpty then [] else r.busFree :: banks)
    ++ r.running.map (·.doneAt) ++ r.running.map r.attemptEnd ++ r.trainEnd.toList
    ++ r.layers.toList.flatMap (fun l => l.dueAt :: l.refreshEnd.toList)

/-- The cycle at which a wall-clock time is reached (R463). -/
def State.cycleOf (s : State) (t : Nat) : Nat :=
  s.now + (if s.coreStretched then (t - s.wall + 1) / 2 else t - s.wall)

/-- The wall-clock times something waits for. -/
def State.wallTimes (s : State) : List Nat :=
  s.gate.flatMap (fun g => if g.admitted then [] else [g.deadline, g.arrived + 2200000])
    ++ s.rows.windowEnd :: (if s.rows.narrow || s.rows.trainEnd.isSome then []
      else [if s.rows.trainDue then s.rows.trainDueAt + 2200000 else s.rows.trainDueAt])
    ++ s.tracker.filterMap (·.anchored)
    ++ s.house.sampleAt :: (s.house.attest.map (·.2.2)).toList
    ++ s.msgs.map (·.deadline)
    ++ s.scopes.toList.flatMap (fun k => k.queue.map (·.deadline))

/-- The times something waits for. -/
def State.deadlines (s : State) : List Nat :=
  s.rowTimes
    ++ allCtx.flatMap (fun c =>
      let x := s.ctx c
      (if x.cstate == .hinted then [x.stallUntil] else [])
        ++ (match x.idle with | some i => if i.woken then [] else [i.until'] | none => [])
        ++ (if x.cstate == .ready then [x.startAt] else []) ++ x.settling.map (·.1) ++ x.busy.map (·.2))
    ++ [s.divFree]
    ++ s.seqs.toList.flatMap (fun q => if q.resetting then [q.resetStart + 220000] else [])
    ++ s.wallTimes.map s.cycleOf

/-- Cycles pass: in wall-clock time they last twice as long while the core's island is stretched (R463). -/
def State.elapse (s : State) (n : Nat) : State :=
  { s with
    now := s.now + n
    slow := if s.coreStretched then s.slow + n else s.slow }

/-- Time passes to the next of them.
DESIGN CHOICE, log entry 4. -/
def State.passTime (s : State) : State :=
  match ((s.deadlines.filter (fun t => decide (s.now < t))).min?) with
  | some t => s.elapse (t - s.now)
  | none => s.elapse 1

/-- A context issues, or else an event that is due takes place, or else time passes. -/
def State.issueNext (s : State) : Choice :=
  match s.nextReady with
  | some c => s.choiceOf c
  | none =>
    match { s with turn := false }.dueEvent with
    | some o => .event o
    | none =>
      if s.half then
        .only ({ s with
          turn := false
          half := false }.elapse 1)
      else .only { s with turn := false }.passTime

/-- The machine's own choice: every event that is due goes before the next issue. -/
def State.ownChoice (s : State) : Choice :=
  match (if s.turn then { s with turn := false }.dueEvent else none) with
  | some o => .event o
  | none => s.issueNext

/-- Whether a term is an event of the part, and no instruction.
DEDUCED, log entry 19. -/
def isEvent (i : Instr) : Bool := match i.view with | .event => true | _ => false

/-- Whether an event is a start (R455). -/
def isStart : Instr → Bool
  | .coldStart _ => true
  | .bootCtlWarm _ _ => true
  | _ => false

/-- A step of a module that a failed start has left in reset: a start of the agenda, or else only time passes
(R456). -/
def State.resetChoice (s : State) : Choice :=
  match s.agenda with
  | [] => .only ({ s with turn := false }.elapse 1)
  | .event i :: rest =>
    if isStart i then .run i { s with agenda := rest, turn := false }
    else .only ({ s with agenda := rest, turn := false }.elapse 1)
  | _ :: rest => .only ({ s with agenda := rest, turn := false }.elapse 1)

/-- The choice of a step: the agenda's entry where there is one.
DESIGN CHOICE, log entry 2. -/
def State.choice (s : State) : Choice :=
  if s.house.bootStat.getLsbD 2 then s.resetChoice else
  match s.agenda with
  | [] => s.ownChoice
  | .own :: rest => { s with agenda := rest }.ownChoice
  | .issue :: rest => { s with agenda := rest }.issueNext
  | .event i :: rest =>
    if isEvent i then .run i { s with agenda := rest, turn := false } else { s with agenda := rest }.ownChoice

/-- Results of hamper entries written in their cycle (R320, R343). -/
def State.settleResults (s : State) : State :=
  if s.ctxs.toList.all (fun x => x.settling.isEmpty) then s
  else { s with ctxs := s.ctxs.map (·.settle s.now) }

/-- What follows at once from a step: results are written, commands that only took time leave, ended runs and blocks
go, the gate opens (R136), what an ended part still held is released (R465), and a start goes on (R475). -/
def State.followUp (s : State) : State :=
  ((((({ s.settleResults with rows := s.rows.prune s.now }.reapRuns).reapBlocks).serveQueue).openGate).releasePart).continueStart

/-- Whether the scalar pipe still has an issue in a cycle in which the wide one has had its own (R279). -/
def State.goesOn (s : State) : Bool :=
  s.pipe && (s.scalarChoice (allCtx.filter (fun c => c != s.cur && s.mayIssue c))).isSome

/-- What follows every step. An event takes no time; a cycle is over once each pipe has had its issue (R279). After
anything but a wait at issue the contexts that wait look again. -/
def State.settle (s : State) : State :=
  if !s.turn then { s.followUp.wakeAll with turn := true }
  else if (s.ctx s.cur).cstate == .waiting then s.followUp
  else
    let s1 := s.issued
    let s2 := { s1 with half := s1.wakeAll.goesOn }
    (if s2.half then s2 else s2.elapse 1).followUp.wakeAll

/-- A step's outcome settled. -/
def settled : Host.Outcome State Fault Refusal → Host.Outcome State Fault Refusal
  | .next s => .next s.settle
  | .fault f => .fault f
  | .refused r => .refused r

/-- Whether an event is a start that needs no power (R455). -/
def isColdStart : Instr → Bool
  | .coldStart _ => true
  | _ => false

/-- A step without power: only a cold start of the agenda runs (R455, R463). -/
def State.darkChoice (s : State) : Option (Instr × State) :=
  match s.agenda with
  | .event i :: rest => if isColdStart i then some (i, { s with agenda := rest, turn := false }) else none
  | _ => none

end Sys2Proof.Machine
end

