-- ==== Sys2Proof/Machine/Step.lean ====
section
/-! DEFINITION. One step of the machine, and the placing of an instruction where it fetches next. -/

namespace Sys2Proof.Machine

/-- One step (R279): the choice runs and the state settles; without power only a cold start runs (R463). -/
def step (s : State) : Host.Outcome State Fault Refusal :=
  if s.house.powered then
    match s.choice with
    | .run i s1 => settled (exec i s1)
    | .event o => settled o
    | .only s1 => .next s1.settle
  else
    match s.darkChoice with
    | some (i, s1) => settled (exec i s1)
    | none => .fault .powerOff

/-- The state with an instruction stored where the machine fetches next.
DEDUCED, log entry 5. -/
def State.withFetchWord (s : State) (nbits w : Nat) : State :=
  s.placed (bytesOfNat 12 (w % 2 ^ nbits))

end Sys2Proof.Machine
end

