-- ==== Sys2Proof/Safety.lean ====
section
/-! DEFINITION. What a safe state and a safe run are: the invariant every step keeps, and runs that never
stop. -/

namespace Sys2Proof

/-- The invariant of the machine: memory, the accumulator blocks and the plane images are in canonical form, and
so are those of every saved party. -/
def Inv (s : Machine.State) : Prop :=
  s.mem.wf = true ∧ s.matrix.acc.wf = true ∧ s.matrix.planeMem.wf = true
    ∧ ∀ sv ∈ s.sched.saved, sv.matrix.acc.wf = true ∧ sv.matrix.planeMem.wf = true

/-- A run of `k` steps from a state is safe where it neither faults nor is refused. -/
def SafeRun (k : Nat) (s : Machine.State) : Prop := ∃ t, core.run k s = .next t

end Sys2Proof
end

