-- ==== Sys2Proof/Claims.lean ====
section
/-! DEFINITION. The words the statements are written in: when an instruction runs at once, the values its
operands have, and what it leaves alone. -/

namespace Sys2Proof.Claims

open Sys2Proof Sys2Proof.Machine

/-- The context whose turn it is. -/
abbrev mine (s : State) : Ctx := s.ctx s.cur

/-- Nothing stands before the issuing context's next instruction: the module has power (R463), the context
runs a program (R278), nothing is deferred, pending, still to be delivered, in flight or bound to a stream, no result is
still to be readable, and the divider is free (R320). -/
structure Clear (s : State) : Prop where
  power : s.house.powered = true
  live : (mine s).live = true
  hamper : (mine s).hamper = []
  pending : (mine s).pending = []
  delivering : (mine s).delivering = []
  owed : (mine s).owed = []
  busy : (mine s).busy = []
  divider : s.divFree ≤ s.now
  flights : s.flights = []
  streams : s.graph.streams = []

/-- An instruction runs at this issue opportunity (R279, R295): it does not wait, is not skipped by its
guard, faults neither at its descriptor nor at a stream, and is not deferred. `e` holds what it has read
of itself, and `t` is the state with what it takes at issue taken: its draws (R101) and its stream groups
(R237, R238). -/
structure Runs (s : State) (op : Opcode) (w : Fields) (e : Entry) (t : State) : Prop where
  power : s.house.powered = true
  live : (mine s).live = true
  plan : s.plan s.cur op w = .run e t

/-- An instruction's results, the PC's advance and its hints (R23, R32, R290, R313). -/
def result (t : State) (e : Entry) (res : List (RegName × Vec)) : Host.Outcome State Fault Refusal :=
  .next (t.retire t.cur e res)

/-- A 64-bit result to FD. -/
def toFd (t : State) (e : Entry) (v : Word) : Host.Outcome State Fault Refusal :=
  result t e [(e.fdReg, v.setWidth 1024)]

/-- A jump: the PC goes to a target. -/
def jumped (t : State) (e : Entry) (target : Word) : Host.Outcome State Fault Refusal :=
  .next (t.retireTo t.cur e [] target)

/-- A precise fault: the context traps at the instruction's own address, in the state before it took
anything (R434). -/
def trapped (s : State) (e : Entry) (cause : BitVec 8) (info : Word) : Host.Outcome State Fault Refusal :=
  .next (s.takeTrap s.cur cause e.pc info none none)

/-- A state in which the issuing context has only passed its next instruction: outside a loop its PC is past it, inside
one its loop is at the next place, its context is ready, and nothing else has changed (R30, R313). -/
def Passes (s t : State) (w : Fields) : Prop :=
  (t = s.modCtx s.cur (fun x => { x with pc := (t.ctx s.cur).pc, loop := (t.ctx s.cur).loop, cstate := .ready }))
  ∧ ((mine s).loop.active = false →
      (t.ctx s.cur).pc = (mine s).pc + BitVec.ofNat 64 w.length ∧ (t.ctx s.cur).loop = (mine s).loop)

/-- It waits at issue, what it took given back, and its context looks at it again. -/
def waits (s t : State) : Host.Outcome State Fault Refusal := .next ((t.untake s t.cur).waiting t.cur)

/-- The context that issues in the next step: the machine has power and is not in reset (R456), the agenda is empty, no
event is due where its turn has come, and nothing of the context goes before its next instruction (R279, R280, R295). -/
structure Issues (s : State) (c : Fin 11) : Prop where
  power : s.house.powered = true
  started : s.house.bootStat.getLsbD 2 = false
  agenda : s.agenda = []
  due : s.turn = true → { s with turn := false }.dueEvent = none
  next : s.nextReady = some c
  faults : (s.ctx c).faultDue = false
  hamper : (s.ctx c).hamper = []
  loop : (s.ctx c).loop.active = false

/-- A register that stands in its context's register file: a global, vector, predicate or mask register,
or a `w` register of a resident frame or of the eight beyond the current one (R282). -/
abbrev resident (x : Ctx) : RegName → Prop
  | .w k => x.frames ≠ [] ∧ x.oldestDepth ≤ k / 16 ∧ k / 16 ≤ x.depth + 1 ∧ (k / 16 = x.depth + 1 → k % 16 < 8)
      ∧ x.frames.length ≤ x.depth + 1
  | _ => True

/-- A value as a register of a name's kind holds it. -/
def held : RegName → Vec → Vec
  | .g _, v => (v.setWidth 64).setWidth 1024
  | .w _, v => (v.setWidth 64).setWidth 1024
  | .v _, v => v
  | .p _, v => (BitVec.ofBool (v.getLsbD 0)).setWidth 1024
  | .m _, v => (v.setWidth 32).setWidth 1024

/-- A reader has no older value of the words of some keys left to return (R20). -/
abbrev Current (s : State) (r : Agent) (keys : List Nat) : Prop :=
  ∀ k ∈ keys, olderValues r (wordOf k) s.unseen = []

/-- No operand names a vector register. -/
def NoVector (w : Fields) : Prop := w.fd.cls ≠ .vector ∧ w.fa.cls ≠ .vector ∧ w.fb.cls ≠ .vector

/-- A context changed in nothing but its registers, its bypass and when they are readable, its generators, its PC, its loop
and what its hints say. -/
def SameControl (x y : Ctx) : Prop :=
  y = { x with cstate := y.cstate, pc := y.pc, g := y.g, frames := y.frames, ahead := y.ahead, v := y.v,
               p := y.p, m := y.m, bypass := y.bypass, owed := y.owed, busy := y.busy, gens := y.gens, loop := y.loop,
               stallUntil := y.stallUntil, yielded := y.yielded }

/-- The scalar integer, predicate and move instructions: they read registers and write one. -/
def integerOps : List Opcode :=
  [.add, .sub, .mul, .mulh, .mulhu, .and, .or, .xor, .andn, .min, .max, .minu, .maxu, .div, .divu, .rem, .remu,
   .shl, .shr, .sar, .rot, .clz, .ctz, .popc, .bext, .bins, .sext, .zext, .mov, .movl, .sel, .addr, .cmp, .fcmp,
   .pset, .pmov, .fmin, .fmax, .fabs, .fneg, .fclass]

/-- The scalar floating instructions that count events besides. -/
def roundingOps : List Opcode := [.fadd, .fsub, .fmul, .ffma, .fdiv, .fsqrt, .fcvt]

/-! ## Memory -/

/-- The key of a scratchpad byte of this rank (R13, R180). -/
def spadKey (s : State) (a : Nat) : Nat := siteKey s.party.site (spadOff + a)

/-- `n` scratchpad bytes from an address, as a context reads them at once on path S by their near names: below the
carve-out, none poisoned and none with an older value left to return, and no access of its context to wait for. -/
abbrev ReadableSpad (s : State) (a n : Nat) : Prop :=
  let keys := (List.range n).map (fun i => spadKey s (a + i))
  s.noneEarlier s.cur = true ∧ a + n ≤ 0x80000 - s.carve ∧ s.poisonedAt keys = false
    ∧ Current s ⟨s.cur.1, .s, true⟩ keys

/-- The number that `n` scratchpad bytes from an address hold, the lowest address in the lowest byte (R2). -/
def spadNat (s : State) (a n : Nat) : Nat := natOfBytes ((List.range n).map (fun i => s.mem.get (spadKey s (a + i))))

/-- The bytes at some keys are a list's, in order, and every other byte of memory is what it was. -/
def Stored (m m' : Memory) (keys : List Nat) (bytes : Nat → Byte) : Prop :=
  (∀ i k, keys[i]? = some k → m'.get k = bytes i) ∧ (∀ k, k ∉ keys → m'.get k = m.get k)

/-- Keys of plain storage, each once. -/
abbrev plainKeys (keys : List Nat) : Prop := keys.Nodup ∧ ∀ k ∈ keys, isPacked k = false

/-- What an atomic finds at some keys is what they hold: the newest write of each word is one its reader must see,
or one on its own path under its own name. -/
abbrev Newest (s : State) (r : Agent) (keys : List Nat) : Prop :=
  ∀ k ∈ keys, ∀ u, s.unseen.find? (fun u => u.key == wordOf k) = some u →
    u.visibleTo r = true ∨ (u.cls = r.cls ∧ u.near = r.near)

/-- An instruction that leaves its access in flight: the flight joins the rank's accesses with its kind, keys
and destination, the destination becomes pending unless the result is transient or goes to a stream, the PC moves
on and memory is as it was (R190, R291, R292). -/
def Leaves (o : Host.Outcome State Fault Refusal) (t : State) (e : Entry) (kind : FlightKind)
    (dest : Option RegName) (keys : List Nat) (xl : Xlation) (peer : Option Peer) : Prop :=
  ∃ (f : Flight) (s' : State), o = .next s' ∧ s'.flights = t.flights ++ [f] ∧ f.kind = kind ∧ f.keys = keys
    ∧ f.c = t.cur ∧ f.pc = e.pc ∧ f.xl = xl ∧ f.peer = peer ∧ f.gateDead = none ∧ f.orphan = false
    ∧ (∀ r, dest = some r → f.dest = if r.fixed then none else some r)
    ∧ f.tr = e.w.hints.tr
    ∧ (∀ r, dest = some r → r.fixed = false → e.w.hints.tr = false → e.push = none → (s'.ctx t.cur).isPending r = true)
    ∧ (e.w.hints.tr = true → (s'.ctx t.cur).pending = (t.ctx t.cur).pending)
    ∧ (dest = none → f.dest = none)
    ∧ (s'.ctx t.cur).file = (t.ctx t.cur).file ∧ s'.mem = t.mem

/-! ## The row path -/

/-- A row instruction that issues: its command joins the end of the rank's queue, and memory, registers and
every other command are as they were (R142). -/
def QueuesRow (o : Host.Outcome State Fault Refusal) (t : State) (e : Entry) (kind : RowCmdKind) (data : List Byte)
    (after : State → Prop) : Prop :=
  ∃ (cmd : RowCmd) (s' : State), o = .next s' ∧ s'.rows.queue = t.rows.queue ++ [cmd] ∧ cmd.kind = kind
    ∧ cmd.owner = .ctx t.cur e.pc ∧ cmd.data = data ∧ s'.rows.running = t.rows.running ∧ s'.mem = t.mem
    ∧ (s'.ctx t.cur).file = (t.ctx t.cur).file ∧ after s'

/-! ## Integers of a type's width (R319) -/

/-- The width of a type. -/
abbrev bits (ty : Ty) : Nat := 8 * ty.bytes

/-- A 64-bit operand reduced to its type's width. -/
def low (ty : Ty) (x : Word) : BitVec (bits ty) := x.setWidth (bits ty)

/-- A result of a type's width extended to 64 bits: by its sign under a signed type, by zeros otherwise. -/
def fit (ty : Ty) (r : BitVec (bits ty)) : Word := if ty.signed then r.signExtend 64 else r.setWidth 64

/-! ## Vectors (R340 to R342) -/

/-- Lane `i` of a vector. -/
abbrev lane (v : Vec) (i : Nat) : BitVec 32 := v.extractLsb' (32 * i) 32

/-- A V/S/L operand in lane `i`: a vector's lane, a scalar's low word, or LIT (R341). -/
def slot (e : Entry) (t : State) (o : Opd) (step : Word) (i : Nat) : BitVec 32 :=
  if o.cls = .vector then lane (e.vec t t.cur o) i
  else if o.isLit = true then e.w.lit else (e.scalar t t.cur o + step).setWidth 32

/-- The active lanes: every one, or those of mask MN under ME (R342). -/
def activeLane (e : Entry) (t : State) (i : Nat) : Bool :=
  !e.w.me || (e.reg t t.cur (.m e.w.mn)).getLsbD i

/-- A vector result under a mask: an active lane takes its value, and an inactive one keeps FD's or takes zero;
the events of the active lanes are counted and nothing else changes but by retiring (R106, R342). -/
def Lanes (o : Host.Outcome State Fault Refusal) (t : State) (e : Entry) (act : Nat → Bool)
    (f : Nat → BitVec 32 × Ev) : Prop :=
  ∃ v : Vec, o = result (t.count (((List.range 32).filter act).foldl (fun a i => a.add (f i).2) Ev.zero)) e
      [(e.fdReg, v)]
    ∧ ∀ i, i < 32 → lane v i =
        if act i then (f i).1 else if e.w.zm then 0 else lane (e.vec t t.cur e.w.fd) i

/-- A lane as STX narrows it to an element of 1 or 2 bytes: an integer saturated to its type's range, a floating value
rounded once to its format under the mode and the lane's draw (R188). -/
def narrowed (e : Entry) (x : BitVec 32) (k : Nat) : Nat :=
  let w := bits e.w.ty
  if e.w.ty = .bf16 ∨ e.w.ty = .f16 then (roundTo (floatFmt e.w.ty e.sat) e.rm (e.draw k) ((fmtF32 false).decode x.toNat)).1
  else
    let lo : Int := if e.w.ty.signed then -(2 ^ (w - 1)) else 0
    let hi : Int := if e.w.ty.signed then 2 ^ (w - 1) - 1 else 2 ^ w - 1
    (max lo (min hi x.toInt) % 2 ^ w).toNat

/-- A lane's value rounded once to FP32 under the instruction's mode and lane `i`'s draw, with NAN_MADE where it
is a NaN of operands that are none (R90, R98, R340). -/
def rounded (e : Entry) (i : Nat) (args : List Machine.Num) (x : Machine.Num) : BitVec 32 × Ev :=
  let r := roundTo (fmtF32 e.sat) e.rm (e.draw i) x
  (BitVec.ofNat 32 r.1, if x.isNan && args.all (fun k => !k.isNan) then r.2.add { nanMade := 1 } else r.2)

/-- The value of a lane's binary32 code. -/
abbrev single (x : BitVec 32) : Machine.Num := (fmtF32 false).decode x.toNat

/-- The events of some results together. -/
def total (evs : List Ev) : Ev := evs.foldl Ev.add Ev.zero

/-- The fold of lane values in ascending order, the newest first in the list: its value and the events of its
last step, which is numbered (R356, R357). -/
def foldBack (step : Nat → BitVec 32 → BitVec 32 → BitVec 32 × Ev) (first : BitVec 32 → BitVec 32) (empty : BitVec 32) :
    List (BitVec 32) → BitVec 32 × Ev
  | [] => (empty, Ev.zero)
  | [x] => (first x, Ev.zero)
  | x :: y :: rest => step (rest.length + 1) (foldBack step first empty (y :: rest)).1 x

/-- Node `j` of level `l` of the tree over 32 leaves: the sum of its two nodes of the level below, and the events
of that addition (R262, R356). -/
def treeNode (add : Nat → BitVec 32 → BitVec 32 → BitVec 32 × Ev) (leaf : Nat → BitVec 32) :
    Nat → Nat → BitVec 32 × Ev
  | 0, j => (leaf j, Ev.zero)
  | l + 1, j => add (32 - 32 / 2 ^ l + j) (treeNode add leaf l (2 * j)).1 (treeNode add leaf l (2 * j + 1)).1

/-! ## The matrix engine and the planes -/

/-- The block number an operand gives, a scalar's value raised by the loop's step (R314, R367). -/
def blockNumber (e : Entry) (t : State) (o : Opd) (step : Word) : Nat :=
  if o.cls = .special then o.num.toNat else (e.scalar t t.cur o + step).toNat

/-- An operand names a tile of four allocated blocks (R366, R375). -/
abbrev Tile (e : Entry) (t : State) (o : Opd) (b : Nat) : Prop :=
  blockNumber e t o 0 = b ∧ b < 64 ∧ b % 4 = 0 ∧ ∀ k, k < 4 → (t.matrix.block (b + k)).alloc.isSome = true

/-- A scratchpad tile that R370 accepts: its base and pitches are multiples of 8, no reserved bit is set, OWN stands
under NF alone, and every row of `n` elements of every step, with its scales, lies below the carve-out. -/
abbrev PairOk (t : State) (ty : Ty) (fmt : Option FmtRef) (base packed : Word) (steps n : Nat) : Prop :=
  let rp := (packed.extractLsb' 0 16).toNat
  let tp := (packed.extractLsb' 16 16).toNat
  let rot := (packed.extractLsb' 32 4).toNat
  base.toNat % 8 = 0 ∧ rp % 8 = 0 ∧ tp % 8 = 0 ∧ packed.extractLsb' 36 4 = 0 ∧ packed.extractLsb' 47 17 = 0
    ∧ (packed.getLsbD 46 = true → ty = .nf)
    ∧ ∀ k, k < steps → ∀ r, r < 32 → ∀ x ∈ rowRanges ty fmt (base.toNat + k * tp + r * rp + 8 * (r * 2 ^ rot % 512)) n,
        x.1 + x.2 ≤ 0x80000 - t.carve

/-- The engine queue has room for an operation of a cost, and none that has arrived before waits to enter (R372). -/
abbrev Room (t : State) (cost : Nat) : Prop :=
  t.liveCmds = [] ∧ t.matrix.queue.length < 16 ∧ (t.matrix.queue.map (·.cost)).sum + cost ≤ 3072

/-- A matrix instruction that issues: its operation joins the end of the engine queue and its context's open
batch; memory, blocks and registers are as they were (R372, R375, R376). -/
def QueuesEngine (o : Host.Outcome State Fault Refusal) (t : State) (e : Entry) (kind : EngineKind)
    (fa fb : Option FmtRef) (targets : List Nat) (cost : Nat) : Prop :=
  ∃ (q : EngineOp) (s' : State), o = .next s' ∧ s'.matrix = { t.matrix with queue := t.matrix.queue ++ [q] }
    ∧ q.kind = kind ∧ q.owner = .ctx t.cur e.pc none ∧ q.ty = e.w.ty ∧ q.fa = fa ∧ q.fb = fb ∧ q.targets = targets
    ∧ q.cost = cost ∧ q.running = false ∧ (s'.ctx t.cur).openOps = (t.ctx t.cur).openOps + 1
    ∧ (s'.ctx t.cur).file = (t.ctx t.cur).file ∧ s'.mem = t.mem

/-- A plane instruction that issues: its operation joins the plane queue, and a mark that holds its place and
targets its blocks the engine queue (R395, R397). -/
def QueuesPlane (o : Host.Outcome State Fault Refusal) (t : State) (e : Entry) (plane : Nat) (kind : PlaneKind)
    (targets : List Nat) (res : List (RegName × Vec)) (after : State → Prop) : Prop :=
  ∃ (q : PlaneOp) (m : EngineOp) (s' : State), o = result s' e res ∧ s'.matrix.planeQueue = t.matrix.planeQueue ++ [q]
    ∧ s'.matrix.queue = t.matrix.queue ++ [m] ∧ q.plane = plane ∧ q.kind = kind ∧ q.owner = .ctx t.cur e.pc none
    ∧ q.started = false ∧ m.targets = targets ∧ m.cost = 0 ∧ s'.matrix.acc = t.matrix.acc
    ∧ s'.matrix.planeMem = t.matrix.planeMem ∧ s'.matrix.residency = t.matrix.residency ∧ s'.mem = t.mem ∧ s'.cur = t.cur
    ∧ after s'

/-- The groups of 32 products of two rows, ascending (R373). -/
def groups (x y : List Machine.Num) : List (List (Machine.Num × Machine.Num)) :=
  (List.range (x.length / 32)).map (fun g => ((x.drop (32 * g)).take 32).zip ((y.drop (32 * g)).take 32))

/-- The pair of sums of an element of a block (R366). -/
def element (t : State) (b k : Nat) : BitVec 32 × BitVec 32 := accGet t.matrix.acc b k

/-- What a step of a collective reduces members' codes of one element to: an integer sum wraps, a floating one under
ORDERED, and any of one or two members under ARRIVAL, is the tree of FP32 additions rounded once more to the type, and
MAX and MIN of integers keep the largest or the smallest of them (R261, R262, R469). -/
def Reduced (cr : CollRun) (codes : List Nat) (v : Nat) : Prop :=
  let wide := 8 * cr.ty.bytes
  let ord := fun (x : Nat) => if cr.ty.signed then signedOf wide x else (x : Int)
  cr.mode ≠ 2 →
    (cr.rop = 0 → Ty.isFloat cr.ty = false → v = codes.sum % 2 ^ wide)
    ∧ (cr.rop = 0 → Ty.isFloat cr.ty = true → cr.mode = 0 ∨ codes.length ≤ 2 →
        v = (roundTo (floatFmt cr.ty false) .rne 0 (orderedSum (codes.map (floatFmt cr.ty false).decode))).1)
    ∧ (cr.rop = 1 → Ty.isFloat cr.ty = false → codes ≠ [] → v ∈ codes ∧ ∀ x ∈ codes, ord x ≤ ord v)
    ∧ (cr.rop = 2 → Ty.isFloat cr.ty = false → codes ≠ [] → v ∈ codes ∧ ∀ x ∈ codes, ord v ≤ ord x)

/-- The elements that the first step of a collective writes in member `m`'s destination of `p` members, `rows` their
counts: all of it, but of an AR the member's own block (R255). -/
def stepIndexes (cr : CollRun) (p m : Nat) (rows : Nat → List Nat) : List Nat :=
  let n := collCount cr.desc
  match cr.op with
  | 1 | 6 => List.range (p * n)
  | 2 => List.range ((List.range p).map (fun i => (rows i).getD m 0)).sum
  | 4 => (List.range n).filter (fun k => k / ((n + p - 1) / p) = m)
  | _ => List.range n

/-- What element `k` of member `m`'s destination holds after a step, from element `j` of each member's source (R255). -/
def StepValue (cr : CollRun) (p m : Nat) (el : Nat → Nat → Nat) (rows : Nat → List Nat) (k v : Nat) : Prop :=
  let n := collCount cr.desc
  let all := fun (j : Nat) => (List.range p).map (fun i => el i j)
  match cr.op with
  | 0 => v = el (((m : Int) - collDist cr.desc) % (p : Int)).toNat k
  | 1 => v = el (k / n) (m * n + k % n)
  | 2 => ∀ i x, i < p → x < (rows i).getD m 0 → k = ((List.range i).map (fun q => (rows q).getD m 0)).sum + x →
      v = el i (((rows i).take m).sum + x)
  | 5 => Reduced cr (all (m * n + k)) v
  | 6 => v = el (k / n) (k % n)
  | 7 => v = el (collRoot cr.desc) k
  | _ => Reduced cr (all k) v

end Sys2Proof.Claims
end

