-- ==== Sys2Proof/Certificates/Slice0/Obligations.lean ====
section
/-! DEFINITION. The statements about the model. -/

open Sys2Proof Sys2Proof.Machine Sys2Proof.Claims

/-! ## Encoding (R22 to R25, R44 to R52) -/

/-- Decoding what the encoder writes for a well-formed instruction gives it back, with every operand at every
value its encoding admits, whatever follows it in memory. -/
def Obligations.DecodeEncode : Prop :=
  ∀ (i : Instr) (rest : List Byte), WellFormed i → isEvent i = false →
    decode Caps.full (parcelBytes (encode i) ++ rest) = .ok (i, rest)

/-- Every word the decoder accepts is the encoding of a well-formed instruction: no bit of it is ignored. -/
def Obligations.EncodeDecode : Prop :=
  ∀ (bytes : List Byte) (i : Instr) (rest : List Byte), decode Caps.full bytes = .ok (i, rest) →
    WellFormed i ∧ isEvent i = false ∧ bytes = parcelBytes (encode i) ++ rest

/-- The words of the specification's traced loop decode to the instructions it writes them for; a parcel of
length code 0b00 is no instruction (R23, R50); a parcel of zeros after the M form's length code is a NOP, and one after
the S form's is the unassigned short opcode 0 (R50). -/
def Obligations.WorkedWords : Prop :=
  let none8 : Opd := ⟨.scalar, 0⟩
  let w (n : BitVec 6) : Opd := ⟨.scalar, n + 8⟩
  let plain (form : Form) : Fields := ⟨form, ⟨false, 0⟩, ⟨false, false, 0, false⟩, none8, none8, none8, 0, 0, .rne, .i8, 0⟩
  decodeParcels Caps.full 0xC0000023 0x0000400F 0x00000004 =
      .ok (.loop { plain .l with fa := ⟨.scalar, 63⟩, os := 1, lit := 4 })
  ∧ decodeParcels Caps.full 0x04400402 0x30200004 0 =
      .ok (.ld { plain .m with fd := w 9, fa := w 8, os := 0x80, ty := .i64 })
  ∧ decodeParcels Caps.full 0x00400027 0 8 = .ok (.linc { plain .l with fd := ⟨.scalar, 1⟩, lit := 8 })
  ∧ decodeParcels Caps.full 0x04555409 0 0 = .ok (.addI64Short ⟨false, 0, 17, 21, 21⟩)
  ∧ decodeParcels Caps.full 0x00000026 0x00000040 0 = .ok (.linc { plain .m with fb := ⟨.scalar, 1⟩ })
  ∧ decodeParcels Caps.full 0x00000000 0 0 = .error (.illegal 0x01)
  ∧ decodeParcels Caps.full 0x00000002 0 0 = .ok (.nop (plain .m))
  ∧ decodeParcels Caps.full 0x00000001 0 0 = .error (.reservedOpc true 0)

/-! ## Issuing (R23, R26, R30, R294 to R301) -/

/-- A step of a machine in which a context is next to issue runs the instruction its PC names and settles:
that of the instruction cache where it holds one, else the one its parcels decode to, which then joins the
cache. A parcel is four bytes of its 64-byte line, the lowest address in the lowest byte: of a line filled before, or
of one that is filled from memory, whole, and kept (R28, R29).
Where the rules leave a point open, the choice is the model's, log entries 2 and 4. -/
def Obligations.StepRunsDecoded : Prop :=
  ∀ (s : State) (c : Fin 11), Issues s c →
    let s1 := { s with cur := c, turn := true, pipe := false }
    let pc := (s.ctx c).pc
    let parcel := fun (bytes : Nat → Byte) (va : Nat) =>
      BitVec.ofNat 32 (natOfBytes ((List.range 4).map (fun i => bytes (va % 64 + i))))
    (∀ k i, icacheFind s.asid pc s.icache = some k → k.meets (s.ctx c).inh = .ok i →
        step s = settled (exec i { s1 with pipe := isWide i }))
    ∧ (icacheFind s.asid pc s.icache = none → (s.ctx c).park = none →
        ∀ (p : BitVec 32) (only : Bool) (ps : List (BitVec 32)) (h : Option Word) (s2 s3 : State) (i : Instr),
        s1.fetchParcel c none pc.toNat = (.ok p only, s2) →
        s2.fetchMore c none (parcels p - 1) (pc.toNat + 4) [] (if only then some (BitVec.ofNat 64 pc.toNat) else none) =
          ((ps, none, h), s3) →
        decodeParcels s.caps p (ps.getD 0 0) (ps.getD 1 0) = .ok i → (h = none ∨ (s.ctx c).inh = true) →
        step s = settled (exec i
          { (s3.icachePut ⟨s.asid, pc, 4 * parcels p, .ok i, h, p⟩).unpark c pc with pipe := isWide i }))
    ∧ (∀ (va : Nat) (l : ICacheLine), va < 2 ^ 57 → va % 4 = 0 → ilineFind s.asid va s.ilines = some l →
        l.poison = [] → l.bytes.length = 64 →
        s1.fetchParcel c none va = (.ok (parcel (fun k => l.bytes.getD k 0) va) l.handlerOnly, s1))
    ∧ (∀ (va : Nat) (keys : List Nat) (peer : Option Peer) (leaf : Leaf) (t : State)
          (line : List Nat) (q : Option Peer) (d : Nat), va < 2 ^ 57 → va % 4 = 0 → ilineFind s.asid va s.ilines = none →
        s1.translatePage s.asid va 4 .fetch true (BitVec.ofNat 64 va) = (.ok keys peer leaf, t) →
        t.leafKeys t.asid leaf.ent leaf.base leaf.size (va - va % 64) 64 = .ok (line, q, d) → line.length = 64 →
        t.poisonedAt line = false → Current t ⟨c.1, .o, false⟩ line →
        s1.fetchParcel c none va = (.ok (parcel (fun k => t.mem.byteAt (line.getD k 0)) va) (entH leaf.ent),
          { t with ilines := ⟨t.asid, va / 64, entH leaf.ent, line.map t.mem.byteAt, []⟩ :: t.ilines }))

/-- Where nothing stands before it and its guard holds, an instruction runs at once, under the format its TY
asks for, having taken its draws alone; under a mode that is not STOCH it takes nothing. -/
def Obligations.ClearRuns : Prop :=
  ∀ (s : State) (op : Opcode) (w : Fields) (fmt : Option FmtRef), Clear s →
    (guardless op = true ∨ (mine s).guardHolds w = true) →
    s.issueFormat op w = some fmt → formatOk op fmt = true →
    let e := (mine s).entry op w fmt s.nextId
    Runs s op w (s.take s.cur e []).1 (s.take s.cur e []).2
      ∧ ((mine s).effRm w ≠ .stoch → Runs s op w e s)

/-- An instruction whose guard does not hold has no effect but the PC's advance, in either mode: no register,
no pending bit, no access, no fault (R30). Its guard and its registers must not be pending, which is
what it would wait for. Its context is ready again, its PC past it or its loop at the next place (R313), and its hints
do not act.
Where the rules leave a point open, the choice is the model's, log entry 119. -/
def Obligations.GuardSkips : Prop :=
  ∀ (s : State) (op : Opcode) (w : Fields), op ≠ .linc → op ≠ .yield →
    Clear s → guardless op = false → (mine s).guardHolds w = false →
    exec (Instr.ofOp op w) s = .next (s.pass s.cur w)
    ∧ Passes s (s.pass s.cur w) w

/-- In PARK mode an instruction waits at issue, changing nothing, while a register it reads or writes or
its guard is pending (R294); a PREF is discarded instead (R189): it only passes, and its hints do not act.
Where the rules leave a point open, the choice is the model's, log entry 119. -/
def Obligations.PendingWaits : Prop :=
  ∀ (s : State) (op : Opcode) (w : Fields), op ≠ .linc → op ≠ .yield →
    s.house.powered = true → (mine s).live = true → (mine s).deferMode = false → s.graph.streams = [] →
    (∃ r ∈ guardReg w :: (sources (mine s).depth op w ++ dests (mine s).depth op w), (mine s).blocked r = true
      ∧ (r = guardReg w → guardless op = false)) →
    (exec (Instr.ofOp op w) s =
      if op = .pref ∧ s.barred s.cur op w = false
          ∧ (∀ r ∈ guardReg w :: (sources (mine s).depth op w ++ dests (mine s).depth op w),
            (mine s).undelivered s.now r = false)
        then .next (s.pass s.cur w) else .next (s.waiting s.cur))
    ∧ Passes s (s.pass s.cur w) w

/-- In DEFER mode an instruction of a group that can be deferred whose operand is pending enters the hamper:
its destinations become pending, its ready operands are captured, and the PC moves past it (R295,
R296). -/
def Obligations.DeferEnters : Prop :=
  ∀ (s : State) (op : Opcode) (w : Fields), op ≠ .pref → deferrable op = true → drains op = false →
    s.house.powered = true → (mine s).live = true → (mine s).deferMode = true → s.graph.streams = [] →
    s.flights = [] → w.hints.db = false → (mine s).effRm w ≠ .stoch → w.ty ≠ .nf →
    w.guard = ⟨false, 0⟩ → ((mine s).hamper.filter (fun h => isVector h.w == isVector w)).length < (if isVector w then 8 else 32) →
    let src := sources (mine s).depth op w
    let dst := dests (mine s).depth op w
    (∃ r ∈ src, (mine s).blocked r = true) →
    (∀ r ∈ guardReg w :: (src ++ dst), (mine s).undelivered s.now r = false) →
    (((mine s).capturedVectors [] src).length ≤ 2) →
    ∃ (e : Entry) (t : State), exec (Instr.ofOp op w) s = .next t
      ∧ (t.ctx s.cur).hamper = (mine s).hamper ++ [e] ∧ e.op = op ∧ e.w = w ∧ e.residual = true
      ∧ (∀ r, (∃ v, (r, v) ∈ e.cap) ↔ ((r ∈ src ∨ r = .p 0) ∧ (mine s).blocked r = false))
      ∧ (∀ r v, (r, v) ∈ e.cap → v = (mine s).read r)
      ∧ (∀ r ∈ dst, r.fixed = false → (t.ctx s.cur).isPending r = true)
      ∧ (t.ctx s.cur).file = (mine s).file ∧ t.mem = s.mem
      ∧ ((mine s).loop.active = false → (t.ctx s.cur).pc = (mine s).pc + BitVec.ofNat 64 w.length)

/-- Retiring: a result is read back by the next instruction, as the newest in the bypass, and stands in the
register file unless it is transient; `g0` and `p0` discard it; other registers keep what the file holds
and read as they did but for results that leave the bypass; the PC moves past the instruction (R23, R35, R290,
R291). -/
def Obligations.RetiredResults : Prop :=
  ∀ (t : State) (c : Fin 11) (e : Entry) (r : RegName) (v : Vec), e.claims = [] → e.push = none →
    resident (t.ctx c) r →
    let x := t.ctx c
    let y := (t.retire c e [(r, v)]).ctx c
    (r.fixed = false → y.read r = v)
    ∧ (∀ q, q.fixed = true → y.read q = x.read q)
    ∧ (∀ q, q ≠ r → q.fixed = false → resident x q → y.read q = (bypassFind q (x.bypass.take 2)).getD (x.file q))
    ∧ (∀ q, resident x q → y.file q =
        if q = r ∧ r.fixed = false ∧ e.w.hints.tr = false then held r v else x.file q)
    ∧ (x.loop.active = false → y.pc = x.pc + BitVec.ofNat 64 e.w.length)
    ∧ y.pending = x.pending

/-- A scalar integer, move, predicate or sign-only floating instruction that runs changes nothing but its
context: memory, the accumulators, every unit and every counter are as before, and so is every other
context; of its own it changes registers, bypass, PC and hints, and no register but FD's. The rounding
ones raise counters and step the generators besides, and a divide takes the divider for its time (R320). -/
def Obligations.ScalarFrame : Prop :=
  ∀ (s : State) (op : Opcode) (w : Fields) (e : Entry) (t s' : State),
    op ∈ integerOps ∨ op ∈ roundingOps → NoVector w → Runs s op w e t → exec (Instr.ofOp op w) s = .next s' →
    s' = { s with ctxs := s'.ctxs, counters := s'.counters, tick := s'.tick, divFree := s'.divFree }
    ∧ (op ∈ integerOps → s'.counters = s.counters)
    ∧ s'.divFree = (if divides op then s.now + resultCycles op w else s.divFree)
    ∧ (∀ c, c ≠ s.cur → s'.ctx c = s.ctx c)
    ∧ SameControl (mine s) (s'.ctx s.cur)
    ∧ (∀ q, q ≠ e.fdReg → resident (mine s) q → resident (mine s) e.fdReg → (s'.ctx s.cur).file q = (mine s).file q)
    ∧ (∀ k, s'.mem.byteAt k = s.mem.byteAt k)

/-- An S form is the instruction its short-opcode entry names with the fields its parcel expands to, so it
runs and retires wherever that one does (R46, R49). -/
def Obligations.ShortForms : Prop :=
  ∀ (o : ShortOp) (f : SFields) (s : State),
    exec (Instr.ofShort o f) s = exec (Instr.ofOp o.entry.op (f.expand o)) s
    ∧ (∀ e t, Runs s o.entry.op (f.expand o) e t → ∃ s', exec (Instr.ofShort o f) s = .next s')

/-! ## Control (R306 to R318) -/

/-- BR, JMP and JP jump to their targets where they must, a target that is no multiple of 4 traps MISALIGNED
with the PC unchanged, and NOP, YIELD, DEFER, PARK and a WAITP with nothing to wait for only advance,
DEFER and PARK with the mode they set. -/
def Obligations.JumpsAndModes : Prop :=
  ∀ (s : State) (w : Fields) (e : Entry) (t : State),
    let go := fun (target : Word) =>
      if target.toNat % 4 = 0 then jumped t e target else trapped s e Cause.misaligned target
    let x := t.ctx t.cur
    let reg := fun (o : Opd) => match regAt e.depth o with | some r => x.isPending r | none => false
    (Runs s .br w e t → exec (.br w) s = go (e.pc + e.opB t t.cur))
    ∧ (Runs s .jmp w e t → exec (.jmp w) s = go (if w.fb.isLit then w.lit.setWidth 64 else e.opB t t.cur))
    ∧ (Runs s .jp w e t → exec (.jp w) s =
        if (reg w.fd || reg w.fa) = (!w.os.getLsbD 0) then go (e.pc + e.opB t t.cur) else result t e [])
    ∧ (Runs s .nop w e t → exec (.nop w) s = result t e [])
    ∧ (∀ w', w' = { w with hints := { w.hints with yd := true } } → Runs s .yield w' e t → exec (.yield w) s = result t e [])
    ∧ (Runs s .waitp w e t → w.os.getLsbD 0 = false →
        (∀ o ∈ [w.fd, w.fa], ∀ r, regAt e.depth o = some r → x.blocked r = false) → exec (.waitp w) s = result t e [])
    ∧ (Runs s .waitp w e t → w.os.getLsbD 0 = true → x.pending = [] → x.hamper = [] →
        exec (.waitp w) s = result t e [])
    ∧ (Runs s .waitp w e t → w.os.getLsbD 0 = false →
        (∃ o ∈ [w.fd, w.fa], ∃ r, regAt e.depth o = some r ∧ x.blocked r = true) → exec (.waitp w) s = waits s t)
    ∧ (Runs s .defer w e t → exec (.defer w) s =
        if x.inh then trapped s e Cause.illegal (illegalInfo 0x0D e.parcel)
        else result (t.modCtx t.cur (fun x => { x with deferMode := true })) e [])
    ∧ (Runs s .park w e t → exec (.park w) s =
        result (t.modCtx t.cur (fun x => { x with deferMode := false })) e [])

/-- A call with fewer than six frames resident makes the next depth current with the eight registers beyond
the old one as its first, puts the address after itself in the new `w7`, and jumps; a return at depth 1 or
more with two frames resident restores the caller's registers and jumps to the address in `w7` (R282,
R283, R308). -/
def Obligations.CallsAndReturns : Prop :=
  ∀ (s : State) (w : Fields) (e : Entry) (t : State),
    let x := t.ctx t.cur
    let goes := fun (i : Instr) (target : Word) =>
      (target.toNat % 4 ≠ 0 → exec i s = trapped s e Cause.misaligned target)
      ∧ (target.toNat % 4 = 0 → x.frames ≠ [] → x.frames.length < 6 → x.frames.length ≤ x.depth + 1 →
        ∃ s', exec i s = .next s'
          ∧ (s'.ctx t.cur).depth = x.depth + 1 ∧ (s'.ctx t.cur).pc = target
          ∧ (s'.ctx t.cur).read (.w (16 * (x.depth + 1) + 7)) = (e.pc + BitVec.ofNat 64 e.w.length).setWidth 1024
          ∧ (∀ k, k < 7 → (s'.ctx t.cur).file (.w (16 * (x.depth + 1) + k)) = x.file (.w (16 * (x.depth + 1) + k)))
          ∧ (∀ k, k < 16 → (s'.ctx t.cur).file (.w (16 * x.depth + k)) = x.file (.w (16 * x.depth + k)))
          ∧ s'.mem = t.mem)
    (Runs s .call w e t → goes (.call w) (e.pc + e.opB t t.cur))
    ∧ (Runs s .callr w e t → goes (.callr w) (e.opB t t.cur))
    ∧ (Runs s .ret w e t → (∀ k, k < 16 → x.isPending (.w (16 * x.depth + 8 + k)) = false) →
        let target := (x.read (.w (16 * x.depth + 7))).setWidth 64
        (x.depth = 0 → exec (.ret w) s = trapped s e Cause.windowExhausted (1 <<< 60))
        ∧ (0 < x.depth → target.toNat % 4 ≠ 0 → exec (.ret w) s = trapped s e Cause.misaligned target)
        ∧ (0 < x.depth → target.toNat % 4 = 0 → 2 ≤ x.frames.length → x.frames.length ≤ x.depth + 1 →
          ∃ s', exec (.ret w) s = .next s'
            ∧ (s'.ctx t.cur).depth = x.depth - 1 ∧ (s'.ctx t.cur).pc = target
            ∧ (∀ k, k < 16 → (s'.ctx t.cur).file (.w (16 * (x.depth - 1) + k)) = x.file (.w (16 * (x.depth - 1) + k)))
            ∧ (∀ k, k < 8 → (s'.ctx t.cur).file (.w (16 * x.depth + k)) = x.file (.w (16 * x.depth + k)))
            ∧ s'.mem = t.mem))

/-- LOOP captures its body and enters its first slot with the count, skips a body of count 0, and traps
NEAR_BOUNDS on a count above 16,777,215 and ILLEGAL_INSTR reason 0x0E while a loop is suspended (R313); at a
slot's end a loop goes on to the next slot, to the next iteration, or past the body. LINC met outside a
capture is an illegal encoding of reason 0x0B (R44).
Where the rules leave a point open, the choice is the model's, log entry 60. -/
def Obligations.Loops : Prop :=
  ∀ (s : State) (w : Fields) (e : Entry) (t : State),
    let x := t.ctx t.cur
    (Runs s .loop w e t → x.loop.active = true →
        exec (.loop w) s = trapped s e Cause.illegal (illegalInfo 0x0E e.parcel))
    ∧ (Runs s .loop w e t → x.loop.active = false → ∀ slots next s1,
        t.captureBody t.cur (illegalInfo 0x0E e.parcel) ((w.os.extractLsb' 0 5).toNat + 1)
          (e.pc + BitVec.ofNat 64 e.w.length) [] = .ok slots next s1 →
        let count := if w.fa.isLit then w.lit.setWidth 64 else e.scalar t t.cur w.fa
        (16777215 < count.toNat → exec (.loop w) s = trapped s e Cause.nearBounds count)
        ∧ (count = 0 → exec (.loop w) s = .next (s1.retireTo t.cur e [] next))
        ∧ (0 < count.toNat → count.toNat ≤ 16777215 → exec (.loop w) s =
            .next ((s1.modCtx t.cur (fun x => { x with loop := ⟨count.toNat, 0, true, 0, slots, next, false⟩ })).retireTo
              t.cur e [] (((slots[0]?).map (·.addr)).getD 0))))
    ∧ (∀ (y : Ctx) (w : Fields), y.loop.active = true → y.loop.suspended = false →
        (∀ sl, y.loop.slots[y.loop.pos + 1]? = some sl →
          y.advance w = { y with pc := sl.addr, loop := { y.loop with pos := y.loop.pos + 1 } })
        ∧ (∀ sl, y.loop.slots.length = y.loop.pos + 1 → y.loop.iter + 1 < y.loop.count → y.loop.slots[0]? = some sl →
          y.advance w = { y with pc := sl.addr, loop := { y.loop with pos := 0, iter := y.loop.iter + 1 } })
        ∧ (y.loop.slots.length = y.loop.pos + 1 → y.loop.iter + 1 = y.loop.count →
          y.advance w = { y with pc := y.loop.exitAddr, loop := LoopState.empty }))
    ∧ (s.house.powered = true → (mine s).live = true → exec (.linc w) s =
        .next (s.takeTrap s.cur Cause.illegal (mine s).pc (illegalInfo 0x0B ((mine s).parcelOf .linc w)) none none))

/-- START takes the lowest free helper, gives it `k` frames from the top of the caller's slice, the registers
of its image and its entry address, and answers its number, or 0 where none is free; JOIN answers an ended
helper's exit value and frees it, waits for one that runs and traps NEAR_BOUNDS on a free one; EXIT of a helper
with nothing left to wait for ends it with its `w0`, and that of the control context, once no helper runs, ends
the rank's part, which releases its resources when the outside requests admitted before are answered (R289, R315
to R317, R465).
Where the rules leave a point open, the choice is the model's, log entries 29, 45, 58 and 59. -/
def Obligations.StartJoinExit : Prop :=
  ∀ (s : State) (w : Fields) (e : Entry) (t : State),
    let entry := e.opA t t.cur
    let img := e.opB t t.cur
    let k := w.os.toNat
    (Runs s .start w e t → t.cur = 0 → entry.toNat % 4 = 0 → img.toNat % 8 = 0 → t.spadOk img.toNat 256 = true →
        k + (t.ctx 0).carve.sused ≤ (t.ctx 0).carve.ssize →
        (t.freeHelper = none → exec (.start w) s = toFd t e 0)
        ∧ (∀ h, t.freeHelper = some h → t.loadWaits 0 = true → exec (.start w) s = waits s t)
        ∧ (∀ h, t.freeHelper = some h → t.loadWaits 0 = false →
          let keys := t.nearKeys img.toNat 256
          t.poisonedAt keys = false → Current t ⟨0, .s, true⟩ keys →
          ∃ s1, exec (.start w) s = toFd s1 e (BitVec.ofNat 64 h.1)
            ∧ (t.ctx h).cstate = .free ∧ (∀ j : Fin 11, 0 < j → j < h → (t.ctx j).cstate ≠ .free)
            ∧ (s1.ctx h).pc = entry ∧ (s1.ctx h).cstate = .ready ∧ (s1.ctx h).startAt = t.now + 40
            ∧ (s1.ctx h).carve = ⟨0, 0, k, (t.ctx 0).carve.sbase + ((t.ctx 0).carve.ssize - k)⟩
            ∧ (s1.ctx 0).carve = { (t.ctx 0).carve with ssize := (t.ctx 0).carve.ssize - k }
            ∧ (∀ j, 1 ≤ j → j < 8 → (s1.ctx h).file (.g (BitVec.ofNat 3 j)) =
                (BitVec.ofNat 64 (natOfBytes (((keys.map t.mem.byteAt).drop (8 * j)).take 8))).setWidth 1024)
            ∧ s1.mem = t.mem))
    ∧ (Runs s .start w e t → t.cur ≠ 0 → exec (.start w) s = trapped s e Cause.illegal (illegalInfo 0x0D e.parcel))
    ∧ (Runs s .join w e t → t.cur ≠ 0 → exec (.join w) s = trapped s e Cause.illegal (illegalInfo 0x0D e.parcel))
    ∧ (Runs s .join w e t → t.cur = 0 → ∀ h : Fin 11, h ≠ 0 → entry = BitVec.ofNat 64 h.1 →
        ((t.ctx h).cstate = .ended →
          ∃ s1, exec (.join w) s = toFd s1 e (t.ctx h).exitValue ∧ s1.ctx h = Ctx.blank ∧ s1.mem = t.mem)
        ∧ ((t.ctx h).cstate = .free → exec (.join w) s = trapped s e Cause.nearBounds entry)
        ∧ ((t.ctx h).cstate ≠ .ended → (t.ctx h).cstate ≠ .free → exec (.join w) s = waits s t))
    ∧ (Runs s .exit w e t → t.cur ≠ 0 → t.allOver t.cur = true → t.leak t.cur = none →
        (t.ctx t.cur).held = [] → (t.ctx t.cur).faults = [] → t.graph.streams = [] →
        (∀ r, (t.run r).c = t.cur → (t.run r).state = 0) →
        ∃ s', exec (.exit w) s = .next s' ∧ (s'.ctx t.cur).cstate = .ended
          ∧ (s'.ctx t.cur).exitValue = (e.reg t t.cur (.w (16 * e.depth))).setWidth 64 ∧ s'.mem = t.mem)
    ∧ (Runs s .exit w e t → t.cur = 0 → t.allOver 0 = true → t.leak 0 = none → (t.ctx 0).held = [] →
        (t.ctx 0).faults = [] → t.graph.streams = [] → (∀ r, (t.run r).c = 0 → (t.run r).state = 0) →
        (∀ h : Fin 11, h ≠ 0 → (t.ctx h).live = false) →
        ∃ s', exec (.exit w) s = .next s' ∧ s'.party.bound = false ∧ (∀ c, s'.ctx c = Ctx.blank) ∧ s'.mem = t.mem
          ∧ s'.party.ending = if t.gate.any (·.admitted) then some none else none)

/-- Taking a trap with traps enabled, outside a handler: cause, PC and information are saved, MODE goes to
TMODE and becomes PARK, the bypass empties, a running loop is suspended, INH is set, LOST is cleared and the
PC is the handler's, which issues first after 6 cc; registers and pending bits are what they are once the results of executed entries have been
written, the hamper stays, and nothing outside the context changes but a withdrawn ACQ and a RACT's wait for debt
(R434).
Where the rules leave a point open, the choice is the model's, log entry 61. -/
def Obligations.TrapEntry : Prop :=
  ∀ (s : State) (c : Fin 11) (cause : BitVec 8) (resume info : Word) (xlat : Option Word),
    let x := s.ctx c
    x.trapEn = true → x.inh = false →
    let s' := s.takeTrap c cause resume info xlat none
    let y := s'.ctx c
    y.trapCause = cause.setWidth 64 ∧ y.trapPc = resume &&& 0x01FFFFFFFFFFFFFC ∧ y.trapInfo = info
    ∧ y.trapXlat = xlat.getD x.trapXlat ∧ y.trapRcause = x.trapRcause ∧ y.trapRinfo = x.trapRinfo
    ∧ y.tmode = x.deferMode ∧ y.deferMode = false ∧ y.bypass = [] ∧ y.owed = [] ∧ y.trapVec = x.trapVec ||| 2
    ∧ y.inh = true ∧ y.pc = x.handler ∧ y.startAt = s.now + 6 ∧ y.cstate = .ready ∧ y.loop = { x.loop with suspended := x.loop.active }
    ∧ y.hamper = x.hamper ∧ y.faults = x.faults
    ∧ y.pending = x.settleAll.pending ∧ y.file = x.settleAll.file
    ∧ (x.settling = [] → y.pending = x.pending ∧ y.file = x.file)
    ∧ y.fpctl = x.fpctl ∧ y.gens = x.gens ∧ y.depth = x.depth ∧ y.live = true
    ∧ s'.mem = s.mem ∧ s'.flights = s.flights ∧ s'.counters = s.counters
    ∧ (∀ d, d ≠ c → s'.ctx d = s.ctx d)

/-- TRAP takes the software trap at the address after itself with its operand as information (R318), and its hints
act where its context goes on (R32); TRAPRET
restores MODE from TMODE, clears INH, empties the bypass, resumes a suspended loop and goes to TRAP.PC, and
outside a handler is illegal (R435); a trap taken where traps do not vector or inside a handler ends its
context, and a helper so ended answers the cause with bit 63 set (R436). -/
def Obligations.TrapsAndReturns : Prop :=
  ∀ (s : State) (w : Fields) (e : Entry) (t : State),
    let x := t.ctx t.cur
    (Runs s .trap w e t →
        let u := t.takeTrap t.cur Cause.software (e.pc + BitVec.ofNat 64 w.length) (e.opB t t.cur) none none
        exec (.trap w) s = .next (if (u.ctx t.cur).live then u.modCtx t.cur (·.hint w.hints t.now) else u))
    ∧ (Runs s .trapret w e t → x.inh = false →
        exec (.trapret w) s = trapped s e Cause.illegal (illegalInfo 0x0D e.parcel))
    ∧ (Runs s .trapret w e t → x.inh = true → ∃ s', exec (.trapret w) s = .next s'
        ∧ (s'.ctx t.cur).pc = x.trapPc ∧ (s'.ctx t.cur).deferMode = x.tmode ∧ (s'.ctx t.cur).inh = false
        ∧ (s'.ctx t.cur).bypass = [] ∧ (s'.ctx t.cur).loop = { x.loop with suspended := false }
        ∧ (s'.ctx t.cur).file = x.file ∧ (s'.ctx t.cur).hamper = x.hamper ∧ s'.mem = t.mem)
    ∧ (∀ (c : Fin 11) (cause : BitVec 8) (pc info : Word), (s.ctx c).trapEn = false ∨ (s.ctx c).inh = true →
        c ≠ 0 → (s.ctx c).kill = false → (s.ctx c).acqQueued = none →
        let y := (s.takeTrap c cause pc info none none).ctx c
        y.cstate = .ended ∧ y.exitValue = (1 <<< 63) ||| cause.setWidth 64 ∧ y.hamper = [] ∧ y.live = false)

/-! ## Scalar integers (R319 to R333) -/

/-- ADD, SUB, MUL, MULH, MULHU, AND, OR, XOR, ANDN, MIN, MAX, MINU and MAXU give FD the value of R322's
table on operands of the type's width, extended by the type's sign (R319). -/
def Obligations.TwoOperandResults : Prop :=
  ∀ (s : State) (w : Fields) (e : Entry) (t : State),
    let a := low w.ty (e.opA t t.cur)
    let b := low w.ty (e.opB t t.cur)
    let n := bits w.ty
    (Runs s .add w e t → exec (.add w) s = toFd t e (fit w.ty (a + b)))
    ∧ (Runs s .sub w e t → exec (.sub w) s = toFd t e (fit w.ty (a - b)))
    ∧ (Runs s .mul w e t → exec (.mul w) s = toFd t e (fit w.ty (a * b)))
    ∧ (Runs s .mulh w e t → exec (.mulh w) s =
        toFd t e (fit w.ty (BitVec.ofInt n (a.toInt * b.toInt / 2 ^ n))))
    ∧ (Runs s .mulhu w e t → exec (.mulhu w) s =
        toFd t e (fit w.ty (BitVec.ofNat n (a.toNat * b.toNat / 2 ^ n))))
    ∧ (Runs s .and w e t → exec (.and w) s = toFd t e (fit w.ty (a &&& b)))
    ∧ (Runs s .or w e t → exec (.or w) s = toFd t e (fit w.ty (a ||| b)))
    ∧ (Runs s .xor w e t → exec (.xor w) s = toFd t e (fit w.ty (a ^^^ b)))
    ∧ (Runs s .andn w e t → exec (.andn w) s = toFd t e (fit w.ty (a &&& ~~~b)))
    ∧ (Runs s .min w e t → exec (.min w) s = toFd t e (fit w.ty (if a.sle b then a else b)))
    ∧ (Runs s .max w e t → exec (.max w) s = toFd t e (fit w.ty (if b.sle a then a else b)))
    ∧ (Runs s .minu w e t → exec (.minu w) s = toFd t e (fit w.ty (if a ≤ b then a else b)))
    ∧ (Runs s .maxu w e t → exec (.maxu w) s = toFd t e (fit w.ty (if b ≤ a then a else b)))

/-- DIV, DIVU, REM and REMU give FD the value of R323's table. -/
def Obligations.DivisionResults : Prop :=
  ∀ (s : State) (w : Fields) (e : Entry) (t : State),
    let a := low w.ty (e.opA t t.cur)
    let b := low w.ty (e.opB t t.cur)
    let n := bits w.ty
    (Runs s .div w e t → exec (.div w) s =
        toFd t e (fit w.ty (BitVec.ofInt n (if b = 0 then -1 else a.toInt.tdiv b.toInt))))
    ∧ (Runs s .divu w e t → exec (.divu w) s =
        toFd t e (fit w.ty (BitVec.ofNat n (if b = 0 then 2 ^ n - 1 else a.toNat / b.toNat))))
    ∧ (Runs s .rem w e t → exec (.rem w) s =
        toFd t e (fit w.ty (if b = 0 then a else
          BitVec.ofInt n (a.toInt - b.toInt * a.toInt.tdiv b.toInt))))
    ∧ (Runs s .remu w e t → exec (.remu w) s =
        toFd t e (fit w.ty (if b = 0 then a else BitVec.ofNat n (a.toNat % b.toNat))))

/-- SHL, SHR, SAR and ROT give FD the value of R324's table, by an amount that is the whole 64-bit operand. -/
def Obligations.ShiftResults : Prop :=
  ∀ (s : State) (w : Fields) (e : Entry) (t : State),
    let a := low w.ty (e.opA t t.cur)
    let k := (e.opB t t.cur).toNat
    let n := bits w.ty
    (Runs s .shl w e t → exec (.shl w) s = toFd t e (fit w.ty (if k < n then a <<< k else 0)))
    ∧ (Runs s .shr w e t → exec (.shr w) s = toFd t e (fit w.ty (if k < n then a >>> k else 0)))
    ∧ (Runs s .sar w e t → exec (.sar w) s =
        toFd t e (fit w.ty (BitVec.ofInt n (if k < n then a.toInt / 2 ^ k else if a.toInt < 0 then -1 else 0))))
    ∧ (Runs s .rot w e t → exec (.rot w) s = toFd t e (fit w.ty (a.rotateLeft (k % n))))

/-- CLZ, CTZ and POPC count bits of the operand at its type's width (R325): a count of leading zeros leaves
the operand below the power of two that stands there, one of trailing zeros divides it. BEXT and BINS move the
field of R326: bits pos to min(pos + len, w) - 1 of the operand or of FD. -/
def Obligations.CountAndFieldResults : Prop :=
  ∀ (s : State) (w : Fields) (e : Entry) (t : State),
    let a := low w.ty (e.opA t t.cur)
    let d := low w.ty (e.opD t t.cur)
    let n := bits w.ty
    let pos := ((e.opB t t.cur).extractLsb' 0 8).toNat
    let len := min (pos + ((e.opB t t.cur).extractLsb' 8 8).toNat) n - pos
    (Runs s .clz w e t → ∃ k, exec (.clz w) s = toFd t e (fit w.ty (BitVec.ofNat n k)) ∧ k ≤ n
        ∧ (∀ i, n - k ≤ i → a.getLsbD i = false) ∧ (k < n → a.getLsbD (n - 1 - k) = true))
    ∧ (Runs s .ctz w e t → ∃ k, exec (.ctz w) s = toFd t e (fit w.ty (BitVec.ofNat n k)) ∧ k ≤ n
        ∧ (∀ i, i < k → a.getLsbD i = false) ∧ (k < n → a.getLsbD k = true))
    ∧ (Runs s .popc w e t → exec (.popc w) s =
        toFd t e (fit w.ty (BitVec.ofNat n ((List.range n).filter (fun i => a.getLsbD i)).length)))
    ∧ (Runs s .bext w e t → exec (.bext w) s =
        toFd t e (fit w.ty (if w.ty.signed then (a.extractLsb' pos len).signExtend n
          else (a.extractLsb' pos len).setWidth n)))
    ∧ (Runs s .bins w e t → ∃ r : BitVec (bits w.ty), exec (.bins w) s = toFd t e (fit w.ty r)
        ∧ ∀ i, i < n → r.getLsbD i =
          if pos ≤ i ∧ i < pos + len then a.getLsbD (i - pos) else d.getLsbD i)

/-- SEXT, ZEXT, MOV, MOVL, SEL and ADDR give FD the values of R327 to R330. -/
def Obligations.MoveResults : Prop :=
  ∀ (s : State) (w : Fields) (e : Entry) (t : State),
    let a := e.opA t t.cur
    let b := e.opB t t.cur
    (Runs s .sext w e t →
        (w.sz = 0 → exec (.sext w) s = toFd t e ((a.extractLsb' 0 8).signExtend 64))
        ∧ (w.sz = 1 → exec (.sext w) s = toFd t e ((a.extractLsb' 0 16).signExtend 64))
        ∧ (w.sz = 2 → exec (.sext w) s = toFd t e ((a.extractLsb' 0 32).signExtend 64)))
    ∧ (Runs s .zext w e t →
        (w.sz = 0 → exec (.zext w) s = toFd t e ((a.extractLsb' 0 8).setWidth 64))
        ∧ (w.sz = 1 → exec (.zext w) s = toFd t e ((a.extractLsb' 0 16).setWidth 64))
        ∧ (w.sz = 2 → exec (.zext w) s = toFd t e ((a.extractLsb' 0 32).setWidth 64)))
    ∧ (Runs s .mov w e t → exec (.mov w) s = toFd t e (fit w.ty (low w.ty a)))
    ∧ (Runs s .movl w e t → exec (.movl w) s =
        toFd t e (if w.os.getLsbD 0 then w.lit ++ (e.opD t t.cur).extractLsb' 0 32 else w.lit.setWidth 64))
    ∧ (Runs s .sel w e t → exec (.sel w) s =
        toFd t e (if (e.reg t t.cur (.p (w.os.extractLsb' 0 3))).getLsbD 0 then a else b))
    ∧ (Runs s .addr w e t → exec (.addr w) s =
        toFd t e (a + b * (([1, 2, 4, 8, 64, 128, 1024] : List Word).getD w.sz.toNat 1024)))

/-- CMP and FCMP write the truth of their condition, combined with FD's old truth, and PSET and PMOV the
values of R332 and R333: a predicate as true or false, a mask as 32 bits, a scalar as 32 bits extended. -/
def Obligations.PredicateResults : Prop :=
  ∀ (s : State) (w : Fields) (e : Entry) (t : State),
    let a := low w.ty (e.opA t t.cur)
    let b := low w.ty (e.opB t t.cur)
    let comb := fun (cond : Bool) =>
      if w.os.extractLsb' 0 2 = 0 then cond
      else if w.os.extractLsb' 0 2 = 1 then cond && e.oldTruth t t.cur else cond || e.oldTruth t t.cur
    let put := fun (truth : Bool) (mask : Mask) =>
      result t e [(e.fdReg, match e.fdReg with
        | .p _ => if truth then 1 else 0
        | _ => mask.setWidth 1024)]
    let ones := fun (c : Bool) => if c then (0xFFFFFFFF : Mask) else 0
    (Runs s .cmp w e t → (e.fdReg matches .p _) ∨ (e.fdReg matches .m _) →
        let cond := (if w.sz = 0 then a == b else if w.sz = 1 then a != b
          else if w.sz = 2 then a.slt b else if w.sz = 3 then b.sle a
          else if w.sz = 4 then a.ult b else b.ule a)
        exec (.cmp w) s = put (comb cond) (ones (comb cond)))
    ∧ (Runs s .fcmp w e t → (e.fdReg matches .p _) ∨ (e.fdReg matches .m _) →
        let x := e.num (e.opA t t.cur)
        let y := e.num (e.opB t t.cur)
        let un := x.isNan || y.isNan
        let cond := (if w.sz = 0 then x.eq y else if w.sz = 1 then un || !x.eq y
          else if w.sz = 2 then x.lt y else if w.sz = 3 then !un && !x.lt y
          else if w.sz = 6 then un else !un)
        exec (.fcmp w) s = put (comb cond) (ones (comb cond)))
    ∧ (Runs s .pset w e t → (e.fdReg matches .p _) ∨ (e.fdReg matches .m _) →
        exec (.pset w) s = put (e.opB t t.cur != 0) ((e.opB t t.cur).extractLsb' 0 32))
    ∧ (Runs s .pmov w e t →
        let x := e.mask32 t t.cur w.fa
        let y := e.mask32 t t.cur w.fb
        let op := w.os.extractLsb' 0 3
        let z := if op = 0 then x else if op = 1 then ~~~x else if op = 2 then x &&& y
          else if op = 3 then x ||| y else if op = 4 then x ^^^ y else x &&& ~~~y
        exec (.pmov w) s = put (z != 0) z)

/-- FADD, FSUB, FMUL, FFMA, FDIV and FSQRT round the exact result of R335 once to the type's format under the
mode and the draw in force at issue (R98, R101, R103), and count its events, NAN_MADE among them where no
operand is a NaN (R90); FCVT rounds its source's value to TY. -/
def Obligations.FloatResults : Prop :=
  ∀ (s : State) (w : Fields) (e : Entry) (t : State),
    let f := e.ffmt
    let a := e.num (e.opA t t.cur)
    let b := e.num (e.opB t t.cur)
    let d := e.num (e.opD t t.cur)
    let rounds := fun (args : List Machine.Num) (x : Machine.Num) =>
      let r := roundTo f e.rm (e.draw 32) x
      let made := if x.isNan && args.all (fun k => !k.isNan) then r.2.add { nanMade := 1 } else r.2
      Host.Outcome.next ((t.count made).retire t.cur e [(e.fdReg, (BitVec.ofNat 64 r.1).setWidth 1024)])
    (Runs s .fadd w e t → exec (.fadd w) s = rounds [a, b] (addNum e.rm a b))
    ∧ (Runs s .fsub w e t → exec (.fsub w) s = rounds [a, b] (addNum e.rm a b.flip))
    ∧ (Runs s .fmul w e t → exec (.fmul w) s = rounds [a, b] (mulNum a b))
    ∧ (Runs s .ffma w e t → exec (.ffma w) s = rounds [a, b, d] (addNum e.rm (mulNum a b) d))
    ∧ (Runs s .fdiv w e t → exec (.fdiv w) s = rounds [a, b] (divNum a b))
    ∧ (Runs s .fsqrt w e t → exec (.fsqrt w) s = rounds [a] (sqrtNum a))
    ∧ (Runs s .fcvt w e t → ∀ src, Ty.ofCode (w.os.extractLsb' 0 4) = some src →
        let x := sourceNum src e.sat (e.opA t t.cur)
        (isFloatTy w.ty = true →
          let r := roundTo f e.rm (e.draw 32) x
          exec (.fcvt w) s =
            .next ((t.count r.2).retire t.cur e [(e.fdReg, (BitVec.ofNat 64 r.1).setWidth 1024)]))
        ∧ (isFloatTy w.ty = false →
          let r := toIntType w.ty.signed (bits w.ty) e.rm (e.draw 32) x
          exec (.fcvt w) s =
            .next ((t.count r.2).retire t.cur e [(e.fdReg, (fit w.ty (BitVec.ofInt _ r.1)).setWidth 1024)])))

/-- FMIN, FMAX, FABS, FNEG and FCLASS give FD the codes of R336 and R339 and count nothing: a NaN operand
gives the canonical NaN, −0 lies below +0, and equal operands give the first. -/
def Obligations.FloatCodeResults : Prop :=
  ∀ (s : State) (w : Fields) (e : Entry) (t : State),
    let f := e.ffmt
    let ca := (e.opA t t.cur).toNat % 2 ^ f.bits
    let cb := (e.opB t t.cur).toNat % 2 ^ f.bits
    let a := f.decode ca
    let b := f.decode cb
    let out := fun (n : Nat) => toFd t e (BitVec.ofNat 64 n)
    let below := fun (x y : Machine.Num) => x.lt y || (x.isZero && y.isZero && x.neg && !y.neg)
    (Runs s .fmin w e t → exec (.fmin w) s =
        out (if a.isNan || b.isNan then f.nanCode else if below b a then cb else ca))
    ∧ (Runs s .fmax w e t → exec (.fmax w) s =
        out (if a.isNan || b.isNan then f.nanCode else if below a b then cb else ca))
    ∧ (Runs s .fabs w e t → exec (.fabs w) s =
        out (if a.isNan then f.nanCode else ca % 2 ^ (f.bits - 1)))
    ∧ (Runs s .fneg w e t → exec (.fneg w) s =
        out (if a.isNan then f.nanCode
          else if ca.testBit (f.bits - 1) then ca % 2 ^ (f.bits - 1) else ca % 2 ^ (f.bits - 1) + 2 ^ (f.bits - 1)))
    ∧ (Runs s .fclass w e t →
        let neg := ca.testBit (f.bits - 1)
        let mag := ca % 2 ^ (f.bits - 1)
        let inf := (2 ^ f.expBits - 1) * 2 ^ f.man
        exec (.fclass w) s = out (2 ^ (if inf < mag then 8 else if mag = inf then (if neg then 0 else 7)
          else if mag = 0 then (if neg then 3 else 4) else if mag < 2 ^ f.man then (if neg then 2 else 5)
          else if neg then 1 else 6)))


/-! ## Memory (R180 to R193) -/

/-- Loads from the scratchpad deliver at once: LD the sign- or zero-extended value of its type's bytes, LDV 128
bytes, LDX 32 elements widened one to a lane. A misaligned address traps MISALIGNED, one outside the
mapped ranges NEAR_BOUNDS, each precisely (R180, R186 to R188, R190).
Where the rules leave a point open, the choice is the model's, log entries 27, 29, 120 and 130. -/
def Obligations.ScratchpadLoads : Prop :=
  ∀ (s : State) (w : Fields) (e : Entry) (t : State), w.near = true →
    let ea := (e.opA t t.cur + e.opB t t.cur)
    let a := ea.toNat
    let n := w.ty.bytes
    (Runs s .ld w e t → a % n = 0 → ReadableSpad t a n →
        exec (.ld w) s = toFd t e (fit w.ty (BitVec.ofNat _ (spadNat t a n))))
    ∧ (Runs s .ldv w e t → a % 8 = 0 → ReadableSpad t a 128 →
        exec (.ldv w) s = result t e [(e.fdReg, BitVec.ofNat 1024 (spadNat t a 128))])
    ∧ (Runs s .ldx w e t → w.ty ∈ [.i8, .ui8, .i16, .ui16, .bf16, .f16] → a % n = 0 → ReadableSpad t a (32 * n) →
        ∃ v ev, exec (.ldx w) s = .next ((t.count ev).retire t.cur e [(e.fdReg, v)])
          ∧ (w.ty ∈ [.i8, .ui8, .i16, .ui16] → ev = Ev.zero)
          ∧ ∀ k, k < 32 → v.extractLsb' (32 * k) 32 =
              let x := spadNat t (a + n * k) n
              if w.ty ∈ [.i8, .i16] then (BitVec.ofNat (8 * n) x).signExtend 32
              else if w.ty ∈ [.ui8, .ui16] then BitVec.ofNat 32 x
              else BitVec.ofNat 32 (roundTo (fmtF32 false) .rne 0 ((floatFmt w.ty false).decode x)).1)
    ∧ (Runs s .ld w e t → a % n ≠ 0 → exec (.ld w) s = trapped s e Cause.misaligned ea)
    ∧ (Runs s .ldv w e t → a % 8 ≠ 0 → exec (.ldv w) s = trapped s e Cause.misaligned ea)
    ∧ (Runs s .ldx w e t → w.ty ∈ [.i16, .ui16, .bf16, .f16] → a % n ≠ 0 →
        exec (.ldx w) s = trapped s e Cause.misaligned ea)
    ∧ (Runs s .ldv w e t → a % 8 = 0 → 0x80000 - t.carve < a + 128 →
        (a < 0x8000000 ∨ 0x8000000 + t.lot < a + 128) → exec (.ldv w) s = trapped s e Cause.nearBounds ea)
    ∧ (Runs s .ld w e t → a % n = 0 → 0x80000 - t.carve < a + n →
        (a < 0x8000000 ∨ 0x8000000 + t.lot < a + n) → exec (.ld w) s = trapped s e Cause.nearBounds ea)

/-- Stores to the scratchpad write exactly the bytes from their effective address on: ST its type's bytes of
FD, STV 128 bytes, STX 32 lanes narrowed into 1 or 2 bytes each: integers saturated, floating ones rounded. Where no earlier
access of the context stands before the store (R183, R207), its bytes are in place at once, and every other byte of
memory, every register and every other context stays (R186 to R188).
Where the rules leave a point open, the choice is the model's, log entry 120. -/
def Obligations.ScratchpadStores : Prop :=
  ∀ (s : State) (w : Fields) (e : Entry) (t : State), w.near = true → t.mem.wf = true →
    let a := (e.opA t t.cur + e.opB t t.cur).toNat
    let n := w.ty.bytes
    let vec := match regAt e.depth w.fd with | some r => e.reg t t.cur r | none => 0
    let stores := fun (i : Instr) (len : Nat) (bytes : Nat → Byte) =>
      let keys := (List.range len).map (fun i => spadKey t (a + i))
      a + len ≤ 0x80000 - t.carve → t.spadNow t.cur true keys = true → ∃ s', exec i s = .next s'
        ∧ Stored t.mem s'.mem keys bytes
        ∧ (s'.ctx t.cur).file = (t.ctx t.cur).file ∧ (s'.ctx t.cur).pending = (t.ctx t.cur).pending
        ∧ (∀ c, c ≠ t.cur → s'.ctx c = t.ctx c) ∧ s'.flights = t.flights
    (Runs s .st w e t → a % n = 0 →
        stores (.st w) n (fun i => (e.opD t t.cur).extractLsb' (8 * i) 8))
    ∧ (Runs s .stv w e t → a % 8 = 0 → stores (.stv w) 128 (fun i => vec.extractLsb' (8 * i) 8))
    ∧ (Runs s .stx w e t → w.ty ∈ [.i8, .ui8, .i16, .ui16, .bf16, .f16] → a % n = 0 →
        stores (.stx w) (32 * n) (fun i => BitVec.ofNat 8 (narrowed e (lane vec (i / n)) (i / n) / 256 ^ (i % n))))

/-- An access to the lot, a global access and any atomic leave: their flight names what they will do, the keys
of their bytes or how their translation failed, and their destination, which is pending until the value
lands unless it is transient; memory does not change at issue (R124, R190 to R192).
Where the rules leave a point open, the choice is the model's, log entries 46, 47 and 48. -/
def Obligations.AccessesLeave : Prop :=
  ∀ (s : State) (w : Fields) (e : Entry) (t : State),
    let ea := (e.opA t t.cur + e.opB t t.cur).toNat
    let at' := (e.opA t t.cur).toNat
    let n := w.ty.bytes
    let vec := match regAt e.depth w.fd with | some r => e.reg t t.cur r | none => 0
    let leaves := fun (i : Instr) (a len : Nat) (k : AccessKind) (kind : FlightKind) (dest : Option RegName) =>
      (w.near = true → 0x8000000 ≤ a → a + len ≤ 0x8000000 + t.lot → a < 2 ^ 32 →
        Leaves (exec i s) t e kind dest
          ((List.range len).map (fun i => siteKey t.party.site (t.lotBase + (a + i - 0x8000000)))) .ready none)
      ∧ (w.near = false → ∀ keys peer ent s1,
          t.translate t.asid (BitVec.ofNat 64 a) len k (t.ctx t.cur).inh e.pc = (.ok keys peer ent, s1) →
          s1.ctxs = t.ctxs → s1.flights = t.flights → s1.mem = t.mem →
          Leaves (exec i s) t e kind dest keys .ready peer)
      ∧ (w.near = false → ∀ fault reason va s1,
          t.translate t.asid (BitVec.ofNat 64 a) len k (t.ctx t.cur).inh e.pc = (.fail fault reason va, s1) →
          s1.ctxs = t.ctxs → s1.flights = t.flights → s1.mem = t.mem →
          Leaves (exec i s) t e kind dest [] (.failed fault reason (BitVec.ofNat 64 va)) none)
    (Runs s .ld w e t → ea % n = 0 → leaves (.ld w) ea n .read (.load (.scalar w.ty.signed)) (some e.fdReg))
    ∧ (Runs s .st w e t → ea % n = 0 →
        leaves (.st w) ea n .write (.store (bytesOfNat n (e.opD t t.cur).toNat)) none)
    ∧ (Runs s .ldv w e t → ea % 8 = 0 → leaves (.ldv w) ea 128 .read (.load .vector) (some e.fdReg))
    ∧ (Runs s .stv w e t → ea % 8 = 0 → leaves (.stv w) ea 128 .write (.store (bytesOfNat 128 vec.toNat)) none)
    ∧ (Runs s .ldx w e t → w.ty ∈ [.i8, .ui8, .i16, .ui16, .bf16, .f16] → ea % n = 0 →
        leaves (.ldx w) ea (32 * n) .read
          (.load (.elements w.ty (8 * n) none ((List.range 32).map (fun k => (8 * n * k, 0))))) (some e.fdReg))
    ∧ (Runs s .stx w e t → w.ty ∈ [.i8, .ui8, .i16, .ui16, .bf16, .f16] → ea % n = 0 →
        leaves (.stx w) ea (32 * n) .write
          (.store ((List.range (32 * n)).map (fun i =>
            BitVec.ofNat 8 (narrowed e (lane vec (i / n)) (i / n) / 256 ^ (i % n))))) none)
    ∧ (Runs s .atom w e t → at' % n = 0 →
        leaves (.atom w) at' n .atomic (.atomic w.ty (w.os.extractLsb' 0 4) (e.opB t t.cur) e.rm e.sat) (some e.fdReg))
    ∧ (Runs s .cas w e t → at' % n = 0 →
        leaves (.cas w) at' n .atomic (.compare w.ty (e.opD t t.cur) (e.opB t t.cur)) (some e.fdReg))
    ∧ (Runs s .atom w e t → w.near = true → at' % n = 0 → at' + n ≤ 0x80000 - t.carve →
        Leaves (exec (.atom w) s) t e (.atomic w.ty (w.os.extractLsb' 0 4) (e.opB t t.cur) e.rm e.sat) (some e.fdReg)
          ((List.range n).map (fun i => spadKey t (at' + i))) .ready none)
    ∧ (Runs s .cas w e t → w.near = true → at' % n = 0 → at' + n ≤ 0x80000 - t.carve →
        Leaves (exec (.cas w) s) t e (.compare w.ty (e.opD t t.cur) (e.opB t t.cur)) (some e.fdReg)
          ((List.range n).map (fun i => spadKey t (at' + i))) .ready none)
    ∧ (Runs s .pref w e t → w.near = true → exec (.pref w) s = result t e [])
    ∧ (Runs s .pref w e t → w.near = false → ∀ r s1,
        t.translate t.asid (e.opA t t.cur + e.opB t t.cur) 1 .read (t.ctx t.cur).inh e.pc = (r, s1) → s1.cur = t.cur →
        exec (.pref w) s = result (match r with | .ok _ _ _ => s1 | _ => t) e [])

/-- VALUE_LANDS and ACCESS_COMPLETES_AT_HOME perform the access of a flight that may land: a load's bytes land
converted, a store's are written, an atomic writes the new value of R191's table and lands the old one, a
CAS writes where the values agree, and a failed access, or one that the gate of another rank refuses, lands zero
and leaves its fault waiting (R124, R137, R186, R187, R191, R192, R291, R292).
Where the rules leave a point open, the choice is the model's, log entries 29, 89 and 121. -/
def Obligations.AccessesPerformed : Prop :=
  ∀ (s : State) (n : Nat) (f : Flight), s.house.powered = true → s.flights[n]? = some f → s.mayLand f = true →
    f.gateDead = none → f.orphan = false →
    let gone := fun (s' : State) => s'.flights = s.flights.filter (fun g => g.id != f.id)
    let lands := fun (s' : State) (v : Vec) => ∀ r, f.dest = some r → f.redo.bind (·.push) = none →
      resident (s.ctx f.c) r → r.fixed = false →
      (f.residual = true ∨ f.tr = false → (s'.ctx f.c).file r = held r v)
      ∧ (f.residual = true ∨ (f.tr = false ∧ f.unpended = false) →
        (s'.ctx f.c).pending = (s.ctx f.c).pending.erase r)
      ∧ (f.residual = false → f.tr = true →
        (s'.ctx f.c).file = (s.ctx f.c).file ∧ (s'.ctx f.c).pending = (s.ctx f.c).pending)
    let old := natOfBytes (f.keys.map s.mem.byteAt)
    let earlier := (s.ctx f.c).faults.length < 16 ∧ ∀ g ∈ (s.ctx f.c).faults, g.found ≠ s.now
    (f.xl = .ready → s.poisonedAt f.keys = false →
      (∀ conv, f.kind = .load conv → f.asOf = none → Current s f.agent f.keys →
        ∃ s', exec (.valueLands ⟨n, none⟩) s = .next s' ∧ gone s' ∧ lands s' (conv.value (f.keys.map s.mem.byteAt)).1
          ∧ s'.mem = s.mem)
      ∧ (∀ data, f.kind = .store data → data.length = f.keys.length → plainKeys f.keys → s.mem.wf = true →
        ∃ s', exec (.accessCompletesAtHome ⟨n, none⟩) s = .next s' ∧ gone s'
          ∧ Stored s.mem s'.mem f.keys (fun i => data.getD i 0))
      ∧ (∀ ty op b rm sat, f.kind = .atomic ty op b rm sat → f.keys.length = ty.bytes → plainKeys f.keys →
        Newest s f.agent f.keys → s.mem.wf = true →
        let x : BitVec (bits ty) := BitVec.ofNat _ old
        let y := low ty b
        let p := (fmtF32 sat).decode old
        let q := (fmtF32 sat).decode y.toNat
        let new : Nat :=
          if op = 0 then (x + y).toNat else if op = 1 then (x &&& y).toNat else if op = 2 then (x ||| y).toNat
          else if op = 3 then (x ^^^ y).toNat else if op = 4 then (if x.sle y then x else y).toNat
          else if op = 5 then (if y.sle x then x else y).toNat else if op = 6 then (if x ≤ y then x else y).toNat
          else if op = 7 then (if y ≤ x then x else y).toNat else if op = 8 then y.toNat
          else (roundTo (fmtF32 sat) rm (match f.redo with | some e => e.draw 32 | none => 0) (addNum rm p q)).1
        ∃ s', exec (.valueLands ⟨n, none⟩) s = .next s' ∧ gone s' ∧ lands s' ((fit ty x).setWidth 1024)
          ∧ Stored s.mem s'.mem f.keys (fun i => BitVec.ofNat 8 (new / 256 ^ i)))
      ∧ (∀ ty a b, f.kind = .compare ty a b → f.keys.length = ty.bytes → plainKeys f.keys →
        Newest s f.agent f.keys → s.mem.wf = true →
        let x : BitVec (bits ty) := BitVec.ofNat _ old
        ∃ s', exec (.valueLands ⟨n, none⟩) s = .next s' ∧ gone s' ∧ lands s' ((fit ty x).setWidth 1024)
          ∧ (x = low ty a → Stored s.mem s'.mem f.keys (fun i => b.extractLsb' (8 * i) 8))
          ∧ (x ≠ low ty a → s'.mem = s.mem)))
    ∧ (∀ fault reason va, f.xl = .failed fault reason va → f.hasValue = true → f.residual = false →
        (s.ctx f.c).live = true → earlier →
        ∃ s', exec (.valueLands ⟨n, none⟩) s = .next s' ∧ gone s' ∧ lands s' 0 ∧ s'.mem = s.mem
          ∧ (s'.ctx f.c).faults = (s.ctx f.c).faults ++
              [⟨xlatCause fault, f.pc, some (xlatWord fault reason va), none, f.inHandler, s.now⟩])
    ∧ (∀ reason, s.throughGate f = true → gateReason f.peer reason = true → f.hasValue = true → f.residual = false →
        (s.ctx f.c).live = true → earlier →
        ∃ s', exec (.valueLands ⟨n, some reason⟩) s = .next s' ∧ gone s' ∧ lands s' 0 ∧ s'.mem = s.mem
          ∧ (s'.ctx f.c).faults = (s.ctx f.c).faults ++
              [⟨Cause.pagePerm, f.pc, some (xlatWord 2 reason (s.firstByte f)), none, f.inHandler, s.now⟩])

/-! ## Beacons and fences (R194 to R209) -/

/-- At a beacon that R195's checks pass: BBIND stores or clears a region of a free beacon, ACQ and BTRY grant
one nobody bars, ACQ queues and BTRY answers false otherwise, and REL gives up a shared hold or, once the
context's stores are over, an exclusive one, which counts in GEN; who does not hold it faults.
Where the rules leave a point open, the choice is the model's, log entries 56, 87, 90, 129 and 138. -/
def Obligations.BeaconResults : Prop :=
  ∀ (s : State) (w : Fields) (e : Entry) (t : State) (k : Nat) (s1 : State),
    let va := e.opA t t.cur
    t.findBeacon t.cur e.pc va = .ok k s1 → s1.cur = t.cur →
    let b := s1.beacon k
    let x := s1.ctx t.cur
    let excl := !w.os.getLsbD 0
    let put := fun (v : BitVec 512) => s1.setBeacon k v
    let n := (w.os.extractLsb' 0 2).toNat
    let taken := ((s1.grantBeacon t.cur k va excl).acquireBeacon t.cur k)
    let free := (s1.beaconQueue k).isEmpty = true ∧ grantable b excl = true
    let may := x.acquireFault k va = none
    (Runs s .bbind w e t → beaconExcl b = false → beaconHolders b = 0 → w.os.getLsbD 2 = true →
        exec (.bbind w) s = result (put (setField b (80 * n) 80 0)) e [])
    ∧ (Runs s .bbind w e t → beaconExcl b = false → beaconHolders b = 0 → w.os.getLsbD 2 = false →
        let len := e.opD t t.cur
        let base := e.opB t t.cur
        len.toNat % 64 = 0 → 64 ≤ len.toNat → len.toNat ≤ 1073741760 → base.toNat % 64 = 0 → base.toNat < 2 ^ 57 →
        exec (.bbind w) s = result (put (setField b (80 * n) 80 (regionEntry len base))) e [])
    ∧ (Runs s .acq w e t → (t.ctx t.cur).acqQueued = none → may → free → exec (.acq w) s = result taken e [])
    ∧ (Runs s .acq w e t → (t.ctx t.cur).acqQueued = none → may → ¬free →
        exec (.acq w) s = .next ((((s1.setBeaconQueue k (s1.beaconQueue k ++ [(t.cur, s1.lrn, excl)])).modCtx t.cur
          (fun x => { x with acqQueued := some va })).untake s t.cur).waiting t.cur))
    ∧ (Runs s .btry w e t → may → free → exec (.btry w) s = result taken e (e.truth true))
    ∧ (Runs s .btry w e t → may → ¬free → exec (.btry w) s = result s1 e (e.truth false))
    ∧ (Runs s .rel w e t → ∀ h, x.holds k va = some h → h.2.2 = false →
        exec (.rel w) s = result ((put (setField b 480 16 (beaconHolders b - 1))).modCtx t.cur
          (fun x => { x with held := x.held.filter (·.1 != h.1) })) e [])
    ∧ (Runs s .rel w e t → ∀ h, x.holds k va = some h → h.2.2 = true → s1.quietOn t.cur .s = true → s1.flights = [] →
        exec (.rel w) s = result (((s1.publish t.cur k).setBeacon k
          (setField (setField (setField (setField b 479 1 0) 470 4 0) 460 10 0) 384 64
            ((b.extractLsb' 384 64).toNat + 1))).modCtx t.cur
          (fun x => { x with held := x.held.filter (·.1 != h.1) })) e [])
    ∧ (Runs s .rel w e t → x.holds k va = none → exec (.rel w) s = trapped s e Cause.beaconErr (beaconInfo 2 va))

/-- A beacon's state reads back where it was stored; a grant and the event of a queued request's grant
record the holder: EXCL with context and rank for an exclusive one, one more of HOLDERS for a shared one, and
the beacon in the context's list; requests of other ranks queue and are granted alike, and an exclusive release of
theirs clears EXCL and raises GEN by 1 (R194, R198, R199, R200).
Where the rules leave a point open, the choice is the model's, log entries 88 and 138. -/
def Obligations.BeaconGrants : Prop :=
  ∀ (s : State) (c : Fin 11) (k : Nat) (va : Word), s.mem.wf = true →
    (∀ v, (s.setBeacon k v).beacon k = v)
    ∧ (let t := s.grantBeacon c k va true
       beaconExcl (t.beacon k) = true ∧ (t.beacon k).extractLsb' 470 4 = BitVec.ofNat 4 c.1
        ∧ (t.beacon k).extractLsb' 460 10 = s.lrn ∧ beaconHolders (t.beacon k) = beaconHolders (s.beacon k)
        ∧ (t.ctx c).held = (s.ctx c).held ++ [(va, k, true)])
    ∧ (let t := s.grantBeacon c k va false
       beaconExcl (t.beacon k) = beaconExcl (s.beacon k)
        ∧ (beaconHolders (s.beacon k) < 65535 → beaconHolders (t.beacon k) = beaconHolders (s.beacon k) + 1)
        ∧ (t.ctx c).held = (s.ctx c).held ++ [(va, k, false)])
    ∧ (s.house.powered = true → ∀ r rest, s.beaconQueue k = r :: rest → grantable (s.beacon k) r.2.2 = true →
        (r.2.1 = s.lrn → (s.ctx r.1).acqQueued = some va →
          exec (.beaconGrant ⟨k, .oldest⟩) s = .next ((s.setBeaconQueue k rest).grantBeacon r.1 k va r.2.2))
        ∧ (r.2.1 ≠ s.lrn → exec (.beaconGrant ⟨k, .oldest⟩) s = .next ((s.setBeaconQueue k rest).setBeacon k
            (beaconGranted (s.beacon k) r.1 r.2.1 r.2.2))))
    ∧ (s.house.powered = true → ∀ lrn d excl, lrn ≠ s.lrn →
        exec (.beaconGrant ⟨k, .asked lrn d excl⟩) s = .next (s.setBeaconQueue k (s.beaconQueue k ++ [(d, lrn, excl)])))
    ∧ (s.house.powered = true → ∀ lrn (d : Fin 11) words, lrn ≠ s.lrn → beaconExcl (s.beacon k) = true →
        (s.beacon k).extractLsb' 460 10 = lrn → ((s.beacon k).extractLsb' 470 4).toNat = d.1 →
        ∃ s', exec (.beaconGrant ⟨k, .released lrn d true words⟩) s = .next s' ∧ beaconExcl (s'.beacon k) = false
          ∧ (s'.beacon k).extractLsb' 384 64 = (s.beacon k).extractLsb' 384 64 + 1
          ∧ beaconHolders (s'.beacon k) = beaconHolders (s.beacon k))

/-- FENCE completes when the named classes are quiet, after which what the context has written or sees on one of them is
visible to its accesses on every one, and waits until then (R206, R471); LBFENCE makes what it has written or sees
through one name visible to it through the other once its own accesses are over, and waits until then (R208, R471);
ISYNC drops the cached words of a beacon's regions, or all of
them (R209).
Where the rules leave a point open, the choice is the model's, log entries 29, 32 and 33. -/
def Obligations.Fences : Prop :=
  ∀ (s : State) (w : Fields) (e : Entry) (t : State),
    let ks := fenceClasses w.os
    let shows := fun (s1 : State) (more : Unseen → Agent → Prop) => s1.unseen.length = t.unseen.length
      ∧ ∀ (i : Nat) (u : Unseen), t.unseen[i]? = some u → ∃ u', s1.unseen[i]? = some u' ∧ u' = { u with views := u'.views }
        ∧ ∀ r, r ∈ u'.views ↔ r ∈ u.views ∨ more u r
    (∀ n k, allClasses[n]? = some k → (k ∈ ks ↔ w.os.getLsbD n = true))
    ∧ (Runs s .fence w e t → ks.all (t.quietOn t.cur) = true → (∀ f ∈ t.flights, f.lost = false) →
        ∃ s1, exec (.fence w) s = result s1 e [] ∧ s1.mem = t.mem ∧ s1.cur = t.cur
          ∧ shows s1 (fun u r => r.who = t.cur.1 ∧ r.cls ∈ ks ∧ ∃ k ∈ ks, ⟨t.cur.1, k, r.near⟩ ∈ u.views))
    ∧ (Runs s .fence w e t → ks.all (t.quietOn t.cur) = false → exec (.fence w) s = waits s t)
    ∧ (Runs s .lbfence w e t → (∀ f ∈ t.flights, f.c ≠ t.cur) →
        (∀ k ∈ [PathClass.r, .m, .w, .g, .c], t.quietOn t.cur k = true) →
        ∃ s1, exec (.lbfence w) s = result s1 e [] ∧ s1.mem = t.mem ∧ s1.cur = t.cur
          ∧ shows s1 (fun u r => r.who = t.cur.1 ∧ ⟨t.cur.1, r.cls, !r.near⟩ ∈ u.views))
    ∧ (Runs s .lbfence w e t → (∃ k ∈ [PathClass.r, .m, .w, .g, .c], t.quietOn t.cur k = false) →
        exec (.lbfence w) s = waits s t)
    ∧ (Runs s .isync w e t → w.os.getLsbD 0 = true → exec (.isync w) s =
        result { t with icache := [], ilines := [] } e [])
    ∧ (Runs s .isync w e t → w.os.getLsbD 0 = false → ∀ k s1, t.findBeacon t.cur e.pc (e.opA t t.cur) = .ok k s1 →
        s1.cur = t.cur → exec (.isync w) s = result { s1 with
          icache := s1.icache.filter (fun h => !(h.asid == s1.asid && h.meetsRegion (beaconRegions (s1.beacon k))))
          ilines := s1.ilines.filter (fun l => !(l.asid == s1.asid && l.meetsRegion (beaconRegions (s1.beacon k)))) } e [])

/-! ## Events of a context (R26, R28, R32, R280, R297, R302, R454) -/

/-- What a context does between its instructions: with no fault to take first, its oldest hamper entry whose operands
have come executes, its results settled after the cycles of its operation, and one that faults zeroes its destinations and leaves a
RESIDUAL_FAULT; a stall's end, where another context has taken the slot that it yielded, and an idle count's free it, the oldest waiting fault is taken at the next instruction's
address, and the instruction cache fills from memory.
Where the rules leave a point open, the choice is the model's, log entries 50, 63 and 132. -/
def Obligations.ContextEvents : Prop :=
  ∀ (s : State) (c : Fin 11), s.house.powered = true →
    let x := s.ctx c
    (x.live = true → s.hamperReady c = true → ∀ h, x.hamper.head? = some h →
        ((h.reg s c (guardReg h.w)).getLsbD 0 = h.w.guard.neg → h.claims = [] →
          exec (.hamperEntryExecute c) s = .next ((s.popHamper c).landDests c h 0 []))
        ∧ (∀ body res s1, (h.reg s c (guardReg h.w)).getLsbD 0 ≠ h.w.guard.neg → bodyOf h.op = some body →
          body c h s = .done res s1 → h.claims = [] → h.push = none →
          exec (.hamperEntryExecute c) s =
            .next (((s1.popHamper c).occupyDivider h).landDests c h (resultCycles h.op h.w) res))
        ∧ (∀ body cause info, (h.reg s c (guardReg h.w)).getLsbD 0 ≠ h.w.guard.neg → bodyOf h.op = some body →
          body c h s = .trap cause info none → h.claims = [] → h.push = none →
          ∃ s', exec (.hamperEntryExecute c) s = .next s' ∧ s'.mem = s.mem
            ∧ (s'.ctx c).hamper = x.hamper.tail
            ∧ (s'.ctx c).faults = [⟨Cause.residual, h.pc, none, some (cause.setWidth 64, info), false, s.now⟩]
            ∧ ∀ r ∈ h.dests, resident x r → r.fixed = false → (∀ f ∈ s.flights, f.id ≠ h.seq) → (s'.ctx c).file r = 0))
    ∧ (x.live = true → s.atBoundary c = true → x.inh = false → ∀ f fs, x.faults = f :: fs →
        exec (.takeTrap c) s =
          .next ((s.modCtx c (fun x => { x with faults := fs })).takeTrap c f.cause x.pc f.info f.xlat f.inner))
    ∧ (x.cstate = .hinted → x.stallUntil ≤ s.now → (x.yielded = false ∨ ∀ d, s.mayIssue d = false) →
        exec (.hintStallExpiry c) s = .next (s.modCtx c (fun x => { x with cstate := .ready, yielded := false })))
    ∧ ((s.now < x.stallUntil ∨ (x.yielded = true ∧ ∃ d, s.mayIssue d = true)) → exec (.hintStallExpiry c) s = .next s)
    ∧ (∀ i, x.idle = some i → i.woken = false → i.until' ≤ s.now → s.party.preempting = false →
        exec (.idleCountExpiry c) s = .next (s.modCtx c (fun x => { x with idle := some ⟨0, false⟩ })))
    ∧ (x.live = true → ∀ (addr : Word) word len p h s1, addr.toNat % 4 = 0 →
        (s.evictLines addr.toNat 12).fill c none addr.toNat = (.ok word len p h, s1) → ∃ s', exec (.icacheFill c addr) s = .next s'
          ∧ icacheFind s.asid addr s'.icache = some ⟨s.asid, addr, len, word, h, p⟩ ∧ s'.mem = s1.mem)

/-! ## The row path (R139 to R179) -/

/-- With room in the queue, RACT of a closed bank without a debt to wait for, RCON and RWB of an open one, RPRE
and RREF of a layer with no open bank put their command at the end of the rank's queue and change the issue
view as R145 to R149 say; RSTAT, once the queue is over, answers the status word or log entry it selects (R150
to R153). A full queue waits, as does a RACT of a layer whose debt has come to 8, until it is repaid; a bank, layer, row, slot or
scratchpad place out of range, an open bank under RACT and a closed one under RCON and RWB trap.
Where the rules leave a point open, the choice is the model's, log entries 127 and 134. -/
def Obligations.RowInstructions : Prop :=
  ∀ (s : State) (w : Fields) (e : Entry) (t : State),
    let a := e.opA t t.cur
    let b := a.toNat
    let v := e.opB t t.cur
    let room := t.rows.queue.length < 16
    let place := fun (p : RowPlace) =>
      match w.os.toNat % 4 with
      | 0 => p = .spad v.toNat ∧ v.toNat % 1024 = 0 ∧ v.toNat + 1024 ≤ 0x80000 - t.carve
      | 1 => p = .slot v.toNat ∧ v.toNat ≤ 63
      | _ => p = .vreg w.fd.num.toNat w.hints.tr
    (Runs s .ract w e t → room → b ≤ 15 → v.toNat < t.rowWindow → (t.rows.bank b).view = none →
        t.mustStall t.cur (b / 4) = false →
        QueuesRow (exec (.ract w) s) t e (.act b v.toNat) []
          (fun s' => (s'.rows.bank b).view = some v.toNat ∧ ∀ j, j ≤ 15 → j ≠ b → s'.rows.bank j = t.rows.bank j))
    ∧ (Runs s .ract w e t → room → 15 < b → exec (.ract w) s = trapped s e Cause.nearBounds a)
    ∧ (Runs s .ract w e t → room → b ≤ 15 → t.rowWindow ≤ v.toNat → exec (.ract w) s = trapped s e Cause.nearBounds v)
    ∧ (Runs s .ract w e t → room → b ≤ 15 → v.toNat < t.rowWindow → (t.rows.bank b).view = none →
        t.mustStall t.cur (b / 4) = true → ∃ s', exec (.ract w) s = .next s' ∧ (s'.ctx t.cur).cstate = .waiting
          ∧ s'.rows.queue = t.rows.queue ∧ s'.rows.banks = t.rows.banks ∧ s'.mem = t.mem)
    ∧ (Runs s .ract w e t → room → b ≤ 15 → v.toNat < t.rowWindow → (t.rows.bank b).view ≠ none →
        exec (.ract w) s = trapped s e Cause.bankBusy a)
    ∧ (Runs s .rcon w e t → room → b ≤ 15 → 0 < t.rowWindow → (t.rows.bank b).view ≠ none → ∀ p, place p →
        QueuesRow (exec (.rcon w) s) t e (.con b p) [] (fun s' => s'.rows.banks = t.rows.banks
          ∧ ∀ n k, p = .vreg n false → k < 8 → (s'.ctx t.cur).isPending (.v (BitVec.ofNat 5 (n + k))) = true))
    ∧ (Runs s .rwb w e t → room → b ≤ 15 → 0 < t.rowWindow → (t.rows.bank b).view ≠ none → ∀ p, place p →
        QueuesRow (exec (.rwb w) s) t e (.wb b p)
          (match p with
            | .vreg n _ => (List.range 8).flatMap (fun k => bytesOfNat 128 (e.reg t t.cur (.v (BitVec.ofNat 5 (n + k)))).toNat)
            | _ => []) (fun s' => s'.rows.banks = t.rows.banks))
    ∧ (∀ i, (i = .rcon w ∧ Runs s .rcon w e t) ∨ (i = .rwb w ∧ Runs s .rwb w e t) → room →
        ((15 < b ∨ t.rowWindow = 0) → exec i s = trapped s e Cause.nearBounds a)
        ∧ (b ≤ 15 → 0 < t.rowWindow → w.os.toNat % 4 = 0 → v.toNat % 1024 ≠ 0 → exec i s = trapped s e Cause.misaligned v)
        ∧ (b ≤ 15 → 0 < t.rowWindow → w.os.toNat % 4 = 0 → v.toNat % 1024 = 0 → 0x80000 - t.carve < v.toNat + 1024 →
          exec i s = trapped s e Cause.nearBounds v)
        ∧ (b ≤ 15 → 0 < t.rowWindow → w.os.toNat % 4 = 1 → 63 < v.toNat → exec i s = trapped s e Cause.nearBounds v))
    ∧ (Runs s .rcon w e t → room → b ≤ 15 → 0 < t.rowWindow → (t.rows.bank b).view = none → ∀ p, place p →
        exec (.rcon w) s = trapped s e Cause.rowClosed a)
    ∧ (Runs s .rwb w e t → room → b ≤ 15 → 0 < t.rowWindow → (t.rows.bank b).view = none → ∀ p, place p →
        exec (.rwb w) s = trapped s e Cause.rowClosed a)
    ∧ (Runs s .rpre w e t → room → w.os.getLsbD 0 = false → b ≤ 15 →
        QueuesRow (exec (.rpre w) s) t e (.pre (if (t.rows.bank b).view.isSome then [b] else [])) []
          (fun s' => (s'.rows.bank b).view = none))
    ∧ (Runs s .rpre w e t → room → w.os.getLsbD 0 = true →
        QueuesRow (exec (.rpre w) s) t e (.pre ((List.range 16).filter (fun b => (t.rows.bank b).view.isSome))) []
          (fun s' => ∀ b, b ≤ 15 → (s'.rows.bank b).view = none))
    ∧ (Runs s .rpre w e t → room → w.os.getLsbD 0 = false → 15 < b → exec (.rpre w) s = trapped s e Cause.nearBounds a)
    ∧ (Runs s .rref w e t → room → 3 < b → exec (.rref w) s = trapped s e Cause.nearBounds a)
    ∧ (Runs s .rref w e t → room → b ≤ 3 → (∀ k, k < 4 → (t.rows.bank (4 * b + k)).view = none) →
        QueuesRow (exec (.rref w) s) t e (.ref b) [] (fun s' => s'.rows.banks = t.rows.banks))
    ∧ (Runs s .rref w e t → room → b ≤ 3 → (∃ k, k < 4 ∧ (t.rows.bank (4 * b + k)).view ≠ none) →
        ∃ k, k < 4 ∧ exec (.rref w) s = trapped s e Cause.bankBusy (BitVec.ofNat 64 (4 * b + k)))
    ∧ (Runs s .rstat w e t → t.rows.queue = [] → t.rows.running = [] →
        (w.os = 0 → b ≤ 15 → exec (.rstat w) s = toFd t e (t.bankStatus b))
        ∧ (w.os = 1 → b ≤ 3 → exec (.rstat w) s = toFd t e (t.layerStatus b))
        ∧ ((w.os = 0 ∧ 15 < b) ∨ (w.os = 1 ∧ 3 < b) → exec (.rstat w) s = trapped s e Cause.nearBounds a)
        ∧ (w.os = 2 → exec (.rstat w) s = toFd t e ((t.rows.cellLog[b]?).getD 0))
        ∧ (w.os = 3 → exec (.rstat w) s = toFd t e ((t.rows.xferLog[b]?).getD 0))
        ∧ (w.os = 4 → exec (.rstat w) s = toFd t e t.pathStatus))
    ∧ (Runs s .rstat w e t → (t.rows.queue ≠ [] ∨ t.rows.running ≠ []) → exec (.rstat w) s = waits s t)
    ∧ (¬room → (Runs s .ract w e t → exec (.ract w) s = waits s t) ∧ (Runs s .rcon w e t → exec (.rcon w) s = waits s t)
        ∧ (Runs s .rwb w e t → exec (.rwb w) s = waits s t) ∧ (Runs s .rpre w e t → exec (.rpre w) s = waits s t)
        ∧ (Runs s .rref w e t → exec (.rref w) s = waits s t))

/-- The head of the row queue starts when its conditions hold (R155, R156): a RACT brings the row's 1,024 bytes
into the bank's buffer, an RPRE writes the buffer back to the row, an RCON or RWB takes the buffer or its source on
the bus, and an RREF of a layer in debt refreshes for 385 cc a refresh. An attempt on the bus ends 8 cc after its
beat began, or 1 cc in narrow mode: where its parity passes, the data is in place 4 cc later, or 24 cc after a narrow
transfer's first beat and what its retries took, and a write is in the row buffer; a wide one that fails is logged and
tried again after 4 cc, the fourth brings narrow mode, or on a device without it fails the transfer (R459), a narrow beat that fails is tried again after 2 cc, and its
fourth failure ends the transfer. Data in place is in its scratchpad place, stage slot or registers (R141, R145 to
R149, R154, R162, R163).
Where the rules leave a point open, the choice is the model's, log entries 64, 69 and 128. -/
def Obligations.RowTransfers : Prop :=
  ∀ (s : State) (cmd : RowCmd), s.house.powered = true → s.mem.wf = true →
    let r := s.rows
    let row := fun (b r : Nat) (m : Memory) (i : Nat) => m.get (rowKey s.party.site b (s.rowBase + r) i)
    let buf := fun (b : Nat) (m : Memory) (i : Nat) => m.get (bufferKey b i)
    let starts := fun (ok : Prop) (after : State → Prop) => ∀ rest, r.queue = cmd :: rest →
      s.party.preempting = false → ok → ∃ s', exec .rowCommandStart s = .next s' ∧ s'.rows.queue = rest ∧ after s'
    let joins := fun (s' : State) (done : Nat) (data : List Byte) => ∃ k, s'.rows.running = r.running ++ [k]
      ∧ k.id = cmd.id ∧ k.kind = cmd.kind ∧ k.owner = cmd.owner ∧ k.startedAt = some s.now ∧ k.doneAt = done
      ∧ k.data = data
    let onBus := fun (b : Nat) (p : RowPlace) => (r.bank b).openedAt + 16 ≤ s.now ∧ (r.bank b).row.isSome = true
      ∧ r.busFree ≤ s.now ∧ r.training s.now = false ∧ r.onBus = none
      ∧ (r.trainDue = true → s.wall < r.trainDueAt + 2200000)
      ∧ ∀ n, p = .slot n → s.slotRead n cmd.id = false
    let source := fun (p : RowPlace) => match p with
      | .spad a => (List.range 1024).map (fun i => s.mem.byteAt (spadKey s (a + i)))
      | .slot n => (List.range 1024).map (fun i => s.mem.get (slotKey n i))
      | .keys ks _ => ks.map s.mem.byteAt
      | _ => cmd.data
    let sound := fun (p : RowPlace) => match p with
      | .spad a => a + 1024 ≤ 0x80000
          ∧ s.poisonedAt ((List.range 1024).map (fun i => spadKey s (a + i))) = false
          ∧ Current s (s.rowAgent cmd true) ((List.range 1024).map (fun i => spadKey s (a + i)))
      | .slot n => s.poisonedAt ((List.range 1024).map (slotKey n)) = false
      | .keys ks near => s.poisonedAt ks = false ∧ Current s (s.rowAgent cmd near) ks
      | _ => True
    (∀ b n, cmd.kind = .act b n → b ≤ 15 → starts
        ((r.bank b).row = none ∧ (r.bank b).preDone ≤ s.now ∧ (r.bank b).nbrEnd ≤ s.now
          ∧ (r.layer (b / 4)).refreshEnd = none ∧ s.seqResetting = false)
        (fun s' => joins s' (s.now + 16) cmd.data ∧ (s'.rows.bank b).row = some n ∧ (s'.rows.bank b).openedAt = s.now
          ∧ ∀ i, i < 1024 → buf b s'.mem i = row b n s.mem i))
    ∧ (∀ b p, cmd.kind = .con b p → starts (onBus b p)
        (fun s' => joins s' 0 ((List.range 1024).map (buf b s.mem)) ∧ s'.mem = s.mem ∧ s'.rows.banks = r.banks))
    ∧ (∀ b p, cmd.kind = .wb b p → starts (onBus b p ∧ sound p)
        (fun s' => joins s' 0 (source p) ∧ s'.mem = s.mem ∧ s'.rows.banks = r.banks))
    ∧ (∀ bs, cmd.kind = .pre bs →
        let ok := ∀ b ∈ bs, (r.bank b).openedAt + 36 ≤ s.now ∧ (r.bank b).wbEnd + 17 ≤ s.now
          ∧ ∀ k, r.onBus = some k → k.isWrite = true → k.bank ≠ b
        starts ok (fun s' => ∀ b ∈ bs, b ≤ 15 → (s'.rows.bank b).row = none)
        ∧ ((∀ b ∈ bs, (r.bank b).row = none) → starts ok (fun s' => s'.rows.running = r.running ∧ s'.mem = s.mem))
        ∧ (∀ b n, bs = [b] → b ≤ 15 → (r.bank b).row = some n → starts ok
          (fun s' => joins s' (s.now + 16) cmd.data ∧ (s'.rows.bank b).preDone = s.now + 16
            ∧ ∀ i, i < 1024 → row b n s'.mem i = buf b s.mem i)))
    ∧ (∀ l, cmd.kind = .ref l → l ≤ 3 → starts
        ((r.layer l).refreshEnd = none ∧ s.seqResetting = false)
        (fun s' => s'.mem = s.mem
          ∧ ((r.layer l).debt = 0 → s'.rows.running = r.running ∧ s'.rows.layers = r.layers)
          ∧ (0 < (r.layer l).debt → joins s' (s.now + 385 * (r.layer l).debt) cmd.data
            ∧ (s'.rows.layer l).refreshEnd = some (s.now + 385 * (r.layer l).debt))))
    ∧ (r.onBus = some cmd → r.attemptEnd cmd ≤ s.now →
      let stop := r.attemptEnd cmd
      let ends := fun (bad : Option Parity) (after : State → Prop) =>
        ∃ s', exec (.transferAttemptEnd bad) s = .next s' ∧ after s'
      let logged := fun (s' : State) (failed : Bool) => s'.rows.xferLog.tail = r.xferLog.take 15
        ∧ (cmd.row < 8192 → cmd.bank < 16 → cmd.beat < 18 → (s'.rows.xferLog.headD 0).getLsbD 58 = failed)
      stop = cmd.beatAt + (if r.narrow then 1 else 8)
      ∧ (r.narrow = false → ends none (fun s' => s'.rows.busFree = stop ∧ s'.rows.narrow = false
          ∧ { cmd with beat := 18, doneAt := stop + 4 } ∈ s'.rows.running
          ∧ ∀ b p, cmd.kind = .wb b p → cmd.data.length = 1024 → ∀ i, i < 1024 → buf b s'.mem i = cmd.data.getD i 0))
      ∧ (r.narrow = true → cmd.beat = 17 → ends none (fun s' => s'.rows.busFree = stop + 6 ∧ s'.rows.narrow = true
          ∧ { cmd with beat := 18, doneAt := stop + 6 } ∈ s'.rows.running))
      ∧ (r.narrow = true → cmd.beat ≠ 17 → ends none (fun s' => s'.mem = s.mem
          ∧ { cmd with beat := cmd.beat + 1, beatAt := cmd.beatAt + 1, beatTries := 0 } ∈ s'.rows.running))
      ∧ (r.narrow = false → cmd.tries ≠ 3 → ∀ p, ends (some p) (fun s' => logged s' false ∧ s'.mem = s.mem
          ∧ s'.rows.narrow = false ∧ { cmd with tries := cmd.tries + 1, beatAt := cmd.beatAt + 12 } ∈ s'.rows.running))
      ∧ (r.narrow = false → cmd.tries = 3 → s.caps.narrow = true → ∀ p, ends (some p) (fun s' => logged s' false
          ∧ s'.mem = s.mem ∧ s'.rows.narrow = true ∧ s'.rows.trainDue = false))
      ∧ (r.narrow = false → cmd.tries = 3 → s.caps.narrow = false → ∀ p, ends (some p) (fun s' => logged s' true
          ∧ s'.rows.narrow = false ∧ s'.rows.busFree = stop ∧ ∀ k ∈ s'.rows.running, k.id ≠ cmd.id))
      ∧ (r.narrow = true → cmd.beatTries ≠ 3 → ∀ p, ends (some p) (fun s' => logged s' false ∧ s'.mem = s.mem
          ∧ { cmd with beatTries := cmd.beatTries + 1, beatAt := cmd.beatAt + 2 } ∈ s'.rows.running))
      ∧ (r.narrow = true → cmd.beatTries = 3 → ∀ p, ends (some p) (fun s' => logged s' true
          ∧ s'.rows.busFree = stop ∧ ∀ k ∈ s'.rows.running, k.id ≠ cmd.id)))
    ∧ (r.arriving = some cmd → cmd.doneAt ≤ s.now →
      let whole := cmd.data.length = 1024 ∧ r.faulty = []
      let ends := fun (after : State → Prop) => ∃ s', exec (.rowTransferComplete []) s = .next s'
        ∧ (∀ k ∈ s'.rows.running, k.id ≠ cmd.id) ∧ s'.rows.banks = r.banks ∧ after s'
      (∀ b n, cmd.kind = .con b (.slot n) → whole →
        ends (fun s' => ∀ i, i < 1024 → s'.mem.get (slotKey n i) = cmd.data.getD i 0))
      ∧ (∀ b a, cmd.kind = .con b (.spad a) → whole → a + 1024 ≤ 0x80000 →
        ends (fun s' => ∀ i, i < 1024 → s'.mem.get (spadKey s (a + i)) = cmd.data.getD i 0))
      ∧ (∀ b n c pc, cmd.kind = .con b (.vreg n false) → cmd.owner = .ctx c pc → whole →
        ends (fun s' => s'.mem = s.mem ∧ ∀ k, k < 8 → (s'.ctx c).file (.v (BitVec.ofNat 5 (n + k))) =
          BitVec.ofNat 1024 (natOfBytes ((cmd.data.drop (128 * k)).take 128))))
      ∧ (∀ b p, cmd.kind = .wb b p → ends (fun s' => s'.mem = s.mem)))

/-- A refresh that falls due runs for tRFC where every bank of the layer is closed, waits for one that runs there,
adds to the debt where one is open, and at a debt of 8 and after it evicts the open banks; one that completes counts, and lowers
the debt it repays, an RREF's counts for the whole debt; a burst of 9 takes 3,465 cc and leaves no
debt; the activation counts start again every 64 ms; retraining that has fallen due waits for the bus and
lasts 8,800 cc (R149, R157 to R161, R170).
Where the rules leave a point open, the choice is the model's, log entries 65, 66, 67 and 135. -/
def Obligations.RowHousekeeping : Prop :=
  ∀ (s : State) (l : Fin 4), s.house.powered = true →
    let k := s.rows.layer l.1
    let rref := ∃ c ∈ s.rows.running, c.kind = .ref l.1
    let next := fun (i : Instr) (k' : RowLayer) => ∃ s', exec i s = .next s' ∧ s'.rows.layer l.1 = k' ∧ s'.mem = s.mem
    let left := fun (k : RowLayer) (refs : BitVec 32) (debt : Nat) => { k with
      refs := refs, debt := min 8 (debt + k.owed), owed := 0, refreshEnd := none
      deep := decide (min 8 (debt + k.owed) = 8) || (k.deep && decide (min 8 (debt + k.owed) ≠ 0))
      stalled := if min 8 (debt + k.owed) = 0 then [] else k.stalled }
    (k.dueAt ≤ s.now → k.burst = false → s.rows.layerOpen s.now l.1 = false → k.refreshEnd = none →
        s.seqResetting = false →
        next (.refreshDue l) { k with dueAt := k.dueAt + 4290, refreshEnd := some (s.now + 385), repaying := false })
    ∧ (k.dueAt ≤ s.now → (k.burst = true ∨ (s.rows.layerOpen s.now l.1 = false ∧ k.refreshEnd ≠ none)) →
        next (.refreshDue l) { k with dueAt := k.dueAt + 4290, owed := k.owed + 1 })
    ∧ (k.dueAt ≤ s.now → k.burst = false → s.rows.layerOpen s.now l.1 = true → k.debt < 8 →
        next (.refreshDue l) { k with dueAt := k.dueAt + 4290, debt := k.debt + 1, deep := k.deep || decide (k.debt = 7) })
    ∧ (k.dueAt ≤ s.now → k.burst = false → s.rows.layerOpen s.now l.1 = true → 8 ≤ k.debt →
        next (.refreshDue l) { k with dueAt := k.dueAt + 4290, burst := true })
    ∧ (k.dueAt ≤ s.now → k.burst = true ∨ (s.rows.layerOpen s.now l.1 = true ∧ 8 ≤ k.debt) →
        ∃ s', exec (.refreshDue l) s = .next s'
          ∧ s'.rows.queue.length = s.rows.queue.length + (s.rows.evictable l.1).length
          ∧ ∀ b ∈ s.rows.evictable l.1, (s'.rows.bank b).view = none ∧ (s'.rows.bank b).evicted = true)
    ∧ (∀ e, k.refreshEnd = some e → e ≤ s.now → ¬rref → k.burst = false →
        next (.refreshComplete l)
          { left k (k.refs + 1) (if k.repaying then k.debt - 1 else k.debt) with repaying := false })
    ∧ (∀ e, k.refreshEnd = some e → e ≤ s.now → rref →
        next (.refreshComplete l) (left k (k.refs + BitVec.ofNat 32 k.debt) 0))
    ∧ (∀ e, k.refreshEnd = some e → e ≤ s.now → ¬rref → k.burst = true →
        next (.refreshComplete l) { left k (k.refs + 9) 0 with burst := false })
    ∧ (k.burst = true → s.layerIdle l.1 = true → s.evictionQueued l.1 = false →
        next (.forcedBurst l) { k with refreshEnd := some (s.now + 3465) })
    ∧ (0 < k.debt → k.burst = false → s.layerIdle l.1 = true → s.actReady l.1 = false →
        next (.debtRepaymentStart l) { k with refreshEnd := some (s.now + 385), repaying := true })
    ∧ (s.rows.windowEnd ≤ s.wall → exec .activationWindowEnd s =
        .next { s with rows := { s.rows with activations := [], windowEnd := s.rows.windowEnd + 70400000 } })
    ∧ (s.rows.narrow = false → s.rows.trainDue = false → s.rows.trainEnd = none → exec .retrainDue s =
        .next { s with rows := { s.rows with trainDue := true, trainDueAt := min s.rows.trainDueAt s.wall } })
    ∧ (s.rows.trainDue = true → (∀ c ∈ s.rows.running, c.isTransfer = false) →
        (s.rows.transfersQueued = false ∨ s.rows.trainDueAt + 2200000 ≤ s.wall) → exec .retrainStart s =
        .next { s with rows := { s.rows with trainDue := false, trainEnd := some (s.now + 8800) } })
    ∧ (∀ e, s.rows.trainEnd = some e → e ≤ s.now → exec .retrainEnd s =
        .next { s with rows := { s.rows with trainEnd := none, retrains := s.rows.retrains + 1,
                                             trainDueAt := s.wall + 110000000 } })

/-! ## Itineraries and streams (R211 to R242) -/

/-- ILOAD of an image in the scratchpad without an overflow area replaces the engine's itinerary by the image's
stops and will land 0, or empties it and will land the refusal of the first stop that breaks a rule (R227);
IRUN starts the lowest free run of a loaded itinerary, its counters at the stops' predecessor counts, and queues
the stops that have none, or answers −1 where nothing is loaded (R228); IWAIT, IPOLL and IDROP test and
release runs (R229 to R231). ILOAD and IRUN read memory in program order: behind the context's earlier stores and
acquires (R193, R207).
Where the rules leave a point open, the choice is the model's, log entries 45, 56, 77, 141 and 142. -/
def Obligations.ItineraryInstructions : Prop :=
  ∀ (s : State) (w : Fields) (e : Entry) (t : State),
    let a := e.opA t t.cur
    let b := e.opB t t.cur
    let idle := t.loadingImage = false ∧ t.loadWaits t.cur = false ∧ ∀ r, (t.run r).state = 0
    (Runs s .iload w e t → w.near = true → a.toNat % 64 = 0 → 1 ≤ b.toNat → b.toNat ≤ 1024 → idle →
        ReadableSpad t a.toNat (64 * b.toNat) →
        let stops := (List.range b.toNat).map (fun i => BitVec.ofNat 512 (spadNat t (a.toNat + 64 * i) 64))
        overflowLen stops = 0 →
        let word := fun (v : Word) (loaded : List (BitVec 512)) => ∃ f s', exec (.iload w) s = .next s'
          ∧ s'.flights = t.flights ++ [f] ∧ f.kind = .status v ∧ f.xl = .ready
          ∧ (e.fdReg.fixed = false → f.dest = some e.fdReg
            ∧ (w.hints.tr = false → (s'.ctx t.cur).isPending e.fdReg = true))
          ∧ s'.graph.stops = loaded ∧ s'.graph.overflow = [] ∧ s'.mem = t.mem
        (firstBad b.toNat [] (fun _ => false) stops 0 = none → word 0 stops)
        ∧ (∀ cause i, firstBad b.toNat [] (fun _ => false) stops 0 = some (cause, i) → word (loadRefusal cause i) []))
    ∧ (Runs s .irun w e t → t.loadingImage = false → t.loadWaits t.cur = false → (t.graph.hasChunks && t.admittedBusy) = false →
        t.runFault a b = none →
        (t.graph.stops = [] → t.freeSlot ≠ none → exec (.irun w) s = toFd t e (-1))
        ∧ (∀ slot, t.freeSlot = some slot → t.graph.stops ≠ [] → ReadableSpad t a.toNat 64 →
          let preds := t.graph.stops.map stopPred
          ∃ s1, exec (.irun w) s = toFd s1 e (BitVec.ofNat 64 slot.1)
            ∧ (t.run slot).state = 0 ∧ (∀ r : Fin 4, r < slot → (t.run r).state ≠ 0)
            ∧ s1.run slot = { RunSlot.blank with
                state := 1
                counters := preds
                ring := b
                bases := (List.range 8).map (fun j => BitVec.ofNat 64 (spadNat t (a.toNat + 8 * j) 8))
                c := t.cur }
            ∧ (∀ r, r ≠ slot → s1.run r = t.run r)
            ∧ s1.graph.launchQueue = t.graph.launchQueue ++ (readyStops preds).map (fun k => (slot, BitVec.ofNat 10 k))
            ∧ s1.mem = t.mem))
    ∧ (Runs s .irun w e t → t.freeSlot = none → exec (.irun w) s = waits s t)
    ∧ (∀ run : Fin 4, a = BitVec.ofNat 64 run.1 →
        let r := t.run run
        let mask : BitVec 16 := b.setWidth 16
        let any := w.os.getLsbD 0
        let met := r.state ≠ 1 ∨ (any = true ∧ r.events &&& mask ≠ 0) ∨ (any = false ∧ mask ≠ 0 ∧ r.events &&& mask = mask)
        (Runs s .iwait w e t → met → exec (.iwait w) s = toFd (t.sawRun t.cur run r.events) e r.status)
        ∧ (Runs s .iwait w e t → ¬met → exec (.iwait w) s = waits s t)
        ∧ (Runs s .ipoll w e t → met → exec (.ipoll w) s =
            result (t.sawRun t.cur run (if r.state = 2 then r.events else r.events &&& mask)) e (e.truth true))
        ∧ (Runs s .ipoll w e t → ¬met → exec (.ipoll w) s = result t e (e.truth false))
        ∧ (Runs s .idrop w e t → r.state = 0 → exec (.idrop w) s = result t e [])
        ∧ (Runs s .idrop w e t → r.state ≠ 0 → w.os.getLsbD 0 = false → exec (.idrop w) s =
            result (t.modRun run (fun r => { r with events := r.events &&& ~~~mask })) e [])
        ∧ (Runs s .idrop w e t → r.state ≠ 0 → w.os.getLsbD 0 = true → r.coll = none → t.runBusy run = false →
            ∃ s1, exec (.idrop w) s = result s1 e [] ∧ s1.run run = RunSlot.blank ∧ s1.mem = t.mem))

/-- The head of the launch queue joins the stops in progress, a copy or fill with elements to move waiting there; a copy
or fill with every element moved, and a signal at its launch, ends: it leaves, its event is set, it counts, and its
successors' counters go down by one for each time it names them, those that reach 0 joining the queue in ascending
order; an arriving chunk that a receive takes is written at its place and ends it, one nobody takes yet is buffered, and
a chunk sent to another rank ends its stop once that rank has taken it (R211, R216, R218, R220, R276).
Where the rules leave a point open, the choice is the model's, log entries 78, 79 and 123. -/
def Obligations.StopEvents : Prop :=
  ∀ (s : State), s.house.powered = true → (∀ q : Fin 4, (s.run q).dropping = false) →
    let ended := fun (p : StopRun) (g : Graph) (s' : State) =>
      let r := s.run p.run
      let b := s.graph.stop p.stop.toNat
      let next := s.graph.succs p.stop.toNat
      let r' := s'.run p.run
      (∀ q, q ∈ s'.graph.inProgress ↔ q ∈ g.inProgress ∧ ¬(q.run = p.run ∧ q.stop = p.stop))
        ∧ r'.ended = r.ended + 1 ∧ r'.failed = false
        ∧ r'.events = (match stopEvent b with | some k => r.events ||| BitVec.ofNat 16 (2 ^ k) | none => r.events)
        ∧ (∀ k, r'.counters.getD k 0 = r.counters.getD k 0 - next.count k)
        ∧ ∃ ready : List Nat, s'.graph.launchQueue = g.launchQueue ++ ready.map (fun k => (p.run, BitVec.ofNat 10 k))
          ∧ ready.Pairwise (· < ·)
          ∧ (∀ k, k ∈ ready ↔ k ∈ next ∧ ∃ m, r.counters[k]? = some (m + 1) ∧ r'.counters[k]? = some 0)
    let sound := fun (p : StopRun) =>
      p.fail = none ∧ stopRec (s.graph.stop p.stop.toNat) = false
        ∧ (s.run p.run).failed = false ∧ (s.run p.run).cancelled = false
    let ends := fun (i : Instr) (p : StopRun) (g : Graph) =>
      sound p → ∃ s', exec i s = .next s' ∧ ended p g s' ∧ s'.mem = s.mem
    (∀ run stop rest, s.graph.launchQueue = (run, stop) :: rest → s.graph.inProgress.length < 32 →
      s.party.preempting = false →
      let p : StopRun :=
        { run := run, stop := stop, element := 0, phase := 0, fail := none, token := none, heldAt := 0
          fmts := (none, none), slots := [], misses := 0 }
      let b := s.graph.stop stop.toNat
      (stopKind b < 2 → 0 < stopTotal b → ∃ s', exec .stopLaunch s = .next s' ∧ s'.graph.launchQueue = rest
        ∧ s'.graph.inProgress = s.graph.inProgress ++ [p]
        ∧ (s'.run run).launched = (s.run run).launched ++ [stop.toNat] ∧ s'.mem = s.mem)
      ∧ (7 ≤ stopKind b → ends .stopLaunch p
          { s.graph with inProgress := s.graph.inProgress ++ [p], launchQueue := rest }))
    ∧ (∀ k p, s.graph.inProgress[k]? = some p → p.token = none → p.phase = 0 →
      stopKind (s.graph.stop p.stop.toNat) < 2 → p.element = stopTotal (s.graph.stop p.stop.toNat) →
      ends (.stopComplete ⟨k, .own⟩) p s.graph)
    ∧ (∀ k p, s.graph.inProgress[k]? = some p → p.phase = 1 →
      let b := s.graph.stop p.stop.toNat
      stopKind b = 4 → s.isSelf (chunkDev b) (chunkLrn b) = false → ends (.stopComplete ⟨k, .taken⟩) p s.graph)
    ∧ (∀ k : Chunk, s.party.bound = true → s.isSelf k.dev k.lrn = false →
      (s.graph.chunks.any (fun q => q.dev == k.dev && q.lrn == k.lrn && q.ch == k.ch)) = false →
      (s.chunkTaker k = none → s.graph.chunks.length < 16 → exec (.chunkArrive k) s =
        .next { s with graph := { s.graph with chunks := s.graph.chunks ++ [k] } })
      ∧ (∀ p a, s.chunkTaker k = some p → s.stopHeld p = false →
        let b := s.graph.stop p.stop.toNat
        stopKind b = 5 → s.chunkPlace p (chunkLen b) = .inl a → k.data.length ≤ chunkLen b →
        plainKeys (s.nearKeys a k.data.length) → s.mem.wf = true → sound p →
        ∃ s', exec (.chunkArrive k) s = .next s' ∧ ended p s.graph s'
          ∧ Stored s.mem s'.mem (s.nearKeys a k.data.length) (fun i => k.data.getD i 0)))

/-- SBIND binds a register to the pattern of a descriptor in the scratchpad, SDRAIN and SFREE complete where
nothing is bound or the binding is drained and wait otherwise, SFREE frees a binding with nothing left to
write and clears its register, SSTAT answers the status word; a group an in-stream reads arrives in its buffer, and an
out-stream's complete groups are written (R236 to R240).
Where the rules leave a point open, the choice is the model's, log entries 39 and 81. -/
def Obligations.Streams : Prop :=
  ∀ (s : State) (w : Fields) (e : Entry) (t : State),
    let n : BitVec 5 := BitVec.ofNat 5 w.fd.num.toNat
    let a := (e.opA t t.cur)
    (Runs s .sbind w e t → t.stream? t.cur n = none → t.graph.streams.length < 8 → t.loadWaits t.cur = false →
        a.toNat % 64 = 0 → ReadableSpad t a.toNat 64 →
        let d : BitVec 512 := BitVec.ofNat 512 (spadNat t a.toNat 64)
        (descBad w.ty e.fmt d = true → exec (.sbind w) s = trapped s e Cause.streamUnbound (streamInfo 3 n))
        ∧ (descBad w.ty e.fmt d = false → (w.os.getLsbD 7 = true → ∀ f, e.fmt = some f → f.desc.block = 0 ∨ f.desc.sckind = false) →
          ∃ b, exec (.sbind w) s = result { t with graph := { t.graph with streams := t.graph.streams ++ [b] } } e []
            ∧ b.c = t.cur ∧ b.reg = n ∧ b.out = w.os.getLsbD 7 ∧ b.ty = w.ty ∧ b.rm = e.rm ∧ b.fmt = e.fmt ∧ b.desc = d
            ∧ b.claimed = 0 ∧ b.buf = [] ∧ b.pc = e.pc))
    ∧ (Runs s .sbind w e t → ∀ b, t.stream? t.cur n = some b →
        exec (.sbind w) s = trapped s e Cause.streamUnbound (streamInfo 1 n))
    ∧ (Runs s .sdrain w e t → t.stream? t.cur n = none → exec (.sdrain w) s = result t e [])
    ∧ (Runs s .sdrain w e t → ∀ b, t.stream? t.cur n = some b →
        exec (.sdrain w) s = if t.streamDrained b then result t e [] else waits s t)
    ∧ (Runs s .sfree w e t → t.stream? t.cur n = none → exec (.sfree w) s = result t e [])
    ∧ (Runs s .sfree w e t → ∀ b, t.stream? t.cur n = some b → t.streamDrained b = true → b.out = false ∨ b.buf = [] →
        ∃ s1, exec (.sfree w) s = result s1 e [] ∧ s1.cur = t.cur ∧ s1.stream? t.cur n = none
          ∧ (s1.ctx t.cur).read (.v n) = 0 ∧ s1.mem = t.mem)
    ∧ (∀ m : BitVec 5, m = BitVec.ofNat 5 w.fa.num.toNat → Runs s .sstat w e t → exec (.sstat w) s =
        toFd t e (match t.stream? t.cur m with | some b => b.status | none => 0))
    ∧ (s.house.powered = true → ∀ (k : Fin 8) b, s.graph.streams[k.1]? = some b →
        (∀ g lanes ev s1, b.nextRead = some g → s.readElems b (b.waiter [g]) (b.groupElems g.idx) = .ok lanes ev s1 →
          exec (.streamGroupArrive ⟨k, none⟩) s = .next ((s1.count ev).groupIn
            { b with next := max b.next (g.idx + 1) } { g with data := some (packLanes lanes) }))
        ∧ (s.writable b ≠ 0 → exec (.streamGroupWrite ⟨k, none⟩) s = .next (s.writeGroups b (s.writable b) false).1))

/-! ## Messages, collective steps and the outside (R136, R137, R243 to R275) -/

/-- SEND, RECV, PUT and GET with a well-formed descriptor in the scratchpad start a message of its fields, whose
status destination is pending until it lands; a RECV has taken the oldest SEND that has arrived for it, a SEND of this
rank to itself is bound at once to the oldest RECV that takes it, and a RECV that takes such a SEND to the oldest that
waits, the two under each other's name; with 16 messages outstanding, for SEND and PUT while a store of the context has
not completed, and while one may still write the descriptor, they wait, and a descriptor out of place traps (R207, R247,
R248, R250).
Where the rules leave a point open, the choice is the model's, log entries 45, 55, 82 and 84. -/
def Obligations.MessagesStart : Prop :=
  ∀ (s : State) (w : Fields) (e : Entry) (t : State),
    let a := e.opA t t.cur
    let d : BitVec 256 := BitVec.ofNat 256 (spadNat t a.toNat 32)
    let starts := fun (i : Instr) (kind : MsgKind) =>
      (t.msgs.length < 16 → ((kind = .send ∨ kind = .put) → t.storing t.cur = false) →
        t.readWaits t.cur a.toNat 32 = false →
        (a.toNat % 32 ≠ 0 → exec i s = trapped s e Cause.misaligned a)
        ∧ (a.toNat % 32 = 0 → ReadableSpad t a.toNat 32 →
          msgLaddr d % 8 = 0 → t.nearOk (msgLaddr d) (msgLen d) = true →
          (msgBad kind d = true → exec i s = trapped s e Cause.nearBounds a)
          ∧ (msgBad kind d = false → ∃ m s', exec i s = .next s' ∧ m.id = t.nextId ∧ m.kind = kind ∧ m.matched = none
            ∧ m.c = t.cur ∧ m.pc = e.pc ∧ m.dest = e.fdReg ∧ m.dev = msgDev d ∧ m.lrn = msgLrn d ∧ m.tag = msgTag d
            ∧ m.len = msgLen d ∧ m.raddr = msgRaddr d ∧ m.laddr.toNat = msgLaddr d ∧ m.tr = w.hints.tr
            ∧ (let own := t.ownOffer m.tag
               let taken := t.arrivals.find? (fun p => t.takesSend m p.dev p.lrn p.tag)
               let partner : Option Msg :=
                 if kind = .recv ∧ taken = some own then
                   t.msgs.find? (fun k => k.kind == .send && k.matched.isNone && t.msgSelf k && k.tag == m.tag)
                 else if kind = .send ∧ t.isSelf m.dev m.lrn = true then
                   t.msgs.find? (fun r => t.takesSend r t.ownDev t.lrn m.tag)
                 else none
               (partner = none → s'.msgs = t.msgs ++ [{ m with matched := taken }]
                 ∧ (kind = .send → t.isSelf m.dev m.lrn = true → s'.arrivals = t.arrivals ++ [own]))
               ∧ (∀ k, partner = some k → (∀ j ∈ t.msgs, j.id < t.nextId) →
                   s'.msgs = t.msgs.map (fun j => if j.id = k.id then { j with matched := some own } else j)
                     ++ [{ m with matched := some own }]))
            ∧ (e.fdReg.fixed = false → w.hints.tr = false → (s'.ctx t.cur).isPending e.fdReg = true)
            ∧ (s'.ctx t.cur).file = (t.ctx t.cur).file ∧ s'.mem = t.mem)))
      ∧ (16 ≤ t.msgs.length ∨ ((kind = .send ∨ kind = .put) ∧ t.storing t.cur = true) ∨ t.readWaits t.cur a.toNat 32 = true →
        exec i s = waits s t)
    (Runs s .send w e t → starts (.send w) .send) ∧ (Runs s .recv w e t → starts (.recv w) .recv)
    ∧ (Runs s .put w e t → starts (.put w) .put) ∧ (Runs s .get w e t → starts (.get w) .get)

/-- A peer's RECV and a SEND of this rank are bound to each other, and a peer's SEND and the oldest RECV that takes it,
for which a SEND that none takes waits. A matched SEND and RECV of this rank move the shorter length's bytes and land
both, a RECV matched by a peer's SEND takes its bytes, and a matched SEND to a peer writes its bytes where this device
shows the peer's RECV and lands; a PUT and a GET of this rank to itself move theirs, a PUT to another rank writes its
bytes there and a GET takes the bytes the peer answers; no PUT or SEND goes before an earlier one to the same peer; a PUT
of another rank is written here; a transfer the peer refuses and a message nobody has matched when its time is over land
with a code. A landing writes the status word of code, device, rank and bytes to the message's destination and takes the
message from the list (R249 to R252).
Where the rules leave a point open, the choice is the model's, log entries 31, 83 and 84. -/
def Obligations.MessagesMove : Prop :=
  ∀ (s : State) (n : Nat) (p : PeerMsg), s.house.powered = true → s.mem.wf = true → s.unseen = [] → s.portHeld = false →
    let moves := fun (i : Instr) (bytes : Nat → Byte) (dst len : Nat) (gone : List Nat) =>
      let into := s.nearKeys dst len
      plainKeys into →
      ∃ s', exec i s = .next s' ∧ Stored s.mem s'.mem into bytes ∧ (∀ k ∈ s'.msgs, k ∈ s.msgs ∧ k.id ∉ gone)
    let at' := fun (src : Nat) (i : Nat) => s.mem.byteAt ((s.nearKeys src (i + 1)).getD i 0)
    let sends := fun (m : Msg) (far : Option (BitVec 32)) (code : BitVec 8) (len : Nat) =>
      ∃ u : State, exec (.messageLand n p) s = .next (u.msgLand m code m.dev m.lrn len) ∧ u.msgs = s.msgs ∧ u.ctxs = s.ctxs
        ∧ (∀ k, far.bind (fun a => s.peerNear m.dev m.lrn a.toNat) = some k → plainKeys (keysFrom k len) →
            Stored s.mem u.mem (keysFrom k len) (at' m.laddr.toNat))
        ∧ (far.bind (fun a => s.peerNear m.dev m.lrn a.toNat) = none → u.mem = s.mem)
    let peer := s.isSelf p.dev p.lrn = false ∧ s.party.bound = true ∧ s.mayBeMember p.dev p.lrn = true
    (s.isSelf p.dev p.lrn = true → exec (.messageMatch n p) s = .next s)
    ∧ (peer → ∀ m, s.msgs[n]? = some m → m.kind = .send → m.matched = none → p.tag = m.tag →
      s.devOf p.dev = s.devOf m.dev → p.lrn = m.lrn → s.tagBehind m = false →
      exec (.messageMatch n p) s = .next (s.matchMsg m p))
    ∧ (peer → s.msgs[n]? = none → exec (.messageMatch n p) s =
      .next (match s.msgs.find? (fun m => s.takesSend m p.dev p.lrn p.tag) with
        | some m => s.matchMsg m p
        | none => { s with arrivals := s.arrivals ++ [p] }))
    ∧ (∀ m q, s.msgs[n]? = some m → m.kind = .send → m.matched = some q →
      (s.isSelf q.dev q.lrn = true → s.msgBehind m = false → ∀ r, s.selfRecv m = some r →
        s.poisonedAt (s.nearKeys m.laddr.toNat (min m.len r.len)) = false →
        moves (.messageLand n p) (at' m.laddr.toNat) r.laddr.toNat (min m.len r.len) [m.id, r.id])
      ∧ (s.isSelf q.dev q.lrn = false → s.msgBehind m = false → p.code ≠ 6 →
        s.poisonedAt (s.nearKeys m.laddr.toNat (min m.len q.capacity)) = false →
        sends m q.raddr (if q.capacity < m.len then 1 else 0) (min m.len q.capacity))
      ∧ (s.msgBehind m = true → exec (.messageLand n p) s = .next s))
    ∧ (∀ m q, s.msgs[n]? = some m → m.kind = .recv → m.matched = some q → s.isSelf q.dev q.lrn = false → p.code ≠ 6 →
      q.poisoned = [] →
      moves (.messageLand n p) (fun i => q.data.getD i 0) m.laddr.toNat (min m.len q.data.length) [m.id])
    ∧ (∀ m, s.msgs[n]? = some m → s.msgSelf m = true → s.nearOk m.raddr.toNat m.len = true →
      (m.kind = .put → s.msgBehind m = false → s.poisonedAt (s.nearKeys m.laddr.toNat m.len) = false →
        moves (.messageLand n p) (at' m.laddr.toNat) m.raddr.toNat m.len [m.id])
      ∧ (m.kind = .put → s.msgBehind m = true → exec (.messageLand n p) s = .next s)
      ∧ (m.kind = .get → s.poisonedAt (s.nearKeys m.raddr.toNat m.len) = false →
        moves (.messageLand n p) (at' m.raddr.toNat) m.laddr.toNat m.len [m.id]))
    ∧ (∀ m, s.msgs[n]? = some m → s.msgSelf m = false → (m.kind = .put → s.msgBehind m = false) →
      (m.kind = .put ∨ m.kind = .get) →
      (s.peerCode m p ≠ 0 → exec (.messageLand n p) s = .next (s.msgLand m (s.peerCode m p) m.dev m.lrn 0))
      ∧ (s.peerCode m p = 0 → m.kind = .put → s.poisonedAt (s.nearKeys m.laddr.toNat m.len) = false →
        sends m (some m.raddr) 0 m.len)
      ∧ (s.peerCode m p = 0 → m.kind = .get → p.data.length = m.len → p.poisoned = [] →
        moves (.messageLand n p) (fun i => p.data.getD i 0) m.laddr.toNat m.len [m.id]))
    ∧ (peer → s.msgs[n]? = none → ∀ a : BitVec 32, p.raddr = some a → p.data ≠ [] →
        s.nearOk a.toNat p.data.length = true → plainKeys (s.nearKeys a.toNat p.data.length) → p.poisoned = [] →
        ∃ s', exec (.messageLand n p) s = .next s'
          ∧ Stored s.mem s'.mem (s.nearKeys a.toNat p.data.length) (fun i => p.data.getD i 0))
    ∧ (∀ m, s.msgs[n]? = some m → s.msgExpired m = true → exec (.messageTimeout n) s =
        .next ((if m.kind = .send ∧ s.isSelf m.dev m.lrn = true then
            { s with arrivals := s.arrivals.erase (s.ownOffer m.tag) } else s).msgLand m 2 m.dev m.lrn 0))
    ∧ (∀ (m : Msg) code dev lrn bytes, (s.msgLand m code dev lrn bytes).msgs = s.msgs.filter (fun k => k.id != m.id)
        ∧ (resident (s.ctx m.c) m.dest → m.dest.fixed = false → m.tr = false →
          ((s.msgLand m code dev lrn bytes).ctx m.c).file m.dest =
            held m.dest ((code ++ s.devOf dev ++ lrn ++ BitVec.ofNat 32 bytes : BitVec 64).setWidth 1024)))

/-- COLL with a well-formed descriptor whose buffers stand and do not clash takes the lowest free slot and joins
its scope's sequence with its steps, an A2A with the counts it reads; BAR and BARC, once every access of their context is over, join it and
answer 0 when the step has ended and bit 63 with the cause when it has failed (R253 to R256, R271 to R273).
Where the rules leave a point open, the choice is the model's, log entries 55 and 85. -/
def Obligations.CollectiveInstructions : Prop :=
  ∀ (s : State) (w : Fields) (e : Entry) (t : State),
    let a := e.opA t t.cur
    let op := e.collOp
    (Runs s .coll w e t → ∀ slot, t.freeSlot = some slot → t.quietOn t.cur .s = true → a.toNat % 64 = 0 →
        ReadableSpad t a.toNat 64 →
        let d : BitVec 512 := BitVec.ofNat 512 (spadNat t a.toNat 64)
        let plan := t.collPlan op w.ty d []
        op ≠ 2 → collMalformed op d = false → t.collTooLarge op w.ty d = false →
        t.bufferBad plan.src plan.e = false → t.bufferBad plan.dst plan.e = false →
        buffersClash op plan.src plan.dst = false →
        ∃ s1, exec (.coll w) s = toFd s1 e (BitVec.ofNat 64 slot.1) ∧ s1.mem = t.mem
          ∧ (s1.run slot).state = 1 ∧ (s1.run slot).c = t.cur
          ∧ (s1.run slot).coll = some ⟨e.pc, op, w.ty, (w.os.extractLsb' 3 2).toNat, w.os.getLsbD 2,
              (w.os.extractLsb' 0 2).toNat, d, [], [], []⟩
          ∧ ((s1.scope (collScope d)).queue.map (·.kind)) = (t.scope (collScope d)).queue.map (·.kind)
              ++ (if op = 4 then [.coll slot 0, .coll slot 1] else [.coll slot 0]))
    ∧ (Runs s .coll w e t → ∀ slot, t.freeSlot = some slot → t.quietOn t.cur .s = true → a.toNat % 64 = 0 →
        ReadableSpad t a.toNat 64 →
        let d : BitVec 512 := BitVec.ofNat 512 (spadNat t a.toNat 64)
        let p := t.teamSize (collScope d)
        let counts := (List.range p).map (fun i => spadNat t (collCnts d + 4 * i) 4)
        let plan := t.collPlan op w.ty d counts
        op = 2 → collMalformed op d = false → t.collTooLarge op w.ty d = false →
        t.bufferBad (collCnts d, 4 * p) 4 = false → t.bufferBad (collRcnts d, 4 * p) 4 = false →
        ReadableSpad t (collCnts d) (4 * p) →
        t.bufferBad plan.src plan.e = false → t.bufferBad plan.dst plan.e = false →
        buffersClash op plan.src plan.dst = false →
        ∃ s1, exec (.coll w) s = toFd s1 e (BitVec.ofNat 64 slot.1) ∧ s1.mem = t.mem
          ∧ (s1.run slot).state = 1 ∧ (s1.run slot).c = t.cur
          ∧ (s1.run slot).coll = some ⟨e.pc, op, w.ty, (w.os.extractLsb' 3 2).toNat, w.os.getLsbD 2,
              (w.os.extractLsb' 0 2).toNat, d, counts, [], []⟩
          ∧ ((s1.scope (collScope d)).queue.map (·.kind)) = (t.scope (collScope d)).queue.map (·.kind) ++ [.coll slot 0])
    ∧ (Runs s .coll w e t → ∀ slot, t.freeSlot = some slot → t.quietOn t.cur .s = true → a.toNat % 64 ≠ 0 →
        exec (.coll w) s = trapped s e Cause.stepFailed (reasonInfo 1 (a &&& 0xFFFFFFFF)))
    ∧ (let ends := fun (i : Instr) (kind : StepKind) =>
        let x := t.ctx t.cur
        (x.barWait = none → (∀ k ∈ allClasses, t.quietOn t.cur k = true) →
          exec i s = .next (((((t.barrierRelease t.cur).modScope (w.os.getLsbD 1) (·.join kind)).modCtx t.cur
            (fun x => { x with barWait := some 0 })).untake s t.cur).waiting t.cur))
        ∧ (x.barWait = some 1 → ∃ s1, exec i s = toFd s1 e 0 ∧ (s1.ctx t.cur).barWait = none ∧ s1.mem = t.mem)
        ∧ (∀ cause : BitVec 4, x.barWait = some (16 + cause.setWidth 6) →
          ∃ s1, exec i s = toFd s1 e ((1 <<< 63) ||| cause.setWidth 64) ∧ (s1.ctx t.cur).barWait = none ∧ s1.mem = t.mem)
        ∧ (x.barWait = some 0 → exec i s = waits s t)
      (Runs s .bar w e t → ends (.bar w) (.bar (some t.cur)))
      ∧ (Runs s .barc w e t → a.toNat % 64 = 0 → a.toNat < 2 ^ 32 → t.nearOk a.toNat 64 = true →
          ends (.barc w) (.barc (some t.cur) (a.setWidth 32) (w.os.getLsbD 0))))

/-- The next step of a scope's sequence is entered when no admitted request is in progress: the first that this rank has
not entered, whether or not it is still inside the ones before, but an AR's second step only once it has left the
first; another member's entry is counted; once every member has entered a COLL's step and this one has read its source,
LOCAL_READY writes the destination, and nothing else, with the elements the operation gives this member of all members'
sources, an AR's first step its own block and its second the others; a barrier every member has entered ends and wakes
its context with success, and a member inside a step too long fails it with cause 3 (R255, R257, R258, R261, R262, R267,
R271 to R273).
Where the rules leave a point open, the choice is the model's, log entries 25, 26 and 86. -/
def Obligations.StepEvents : Prop :=
  ∀ (s : State) (b : Bool) (r : StepRun) (before rest : List StepRun), s.house.powered = true →
    (s.scope b).queue = before ++ r :: rest →
    ((∀ k ∈ before, k.entered = true) → r.entered = false → s.admittedBusy = false → r.failed = none →
        (∀ run step, r.kind = .coll run (step + 1) → ∀ k ∈ (s.scope b).queue, k.isOf run = true → k.entered = true →
          k.inside = false) →
        (∀ x ∈ r.others, x.key = s.stepKeyOf r.kind) → ∃ s' r', exec (.stepEntry b) s = .next s'
          ∧ (s'.scope b).queue = before ++ r' :: rest ∧ r'.entered = true ∧ r'.inside = true
          ∧ r'.deadline = s.wall + s.timeoutCycles ∧ r'.others = r.others ∧ r'.kind = r.kind ∧ s'.mem = s.mem)
    ∧ (s.admittedBusy = true → exec (.stepEntry b) s = .next s)
    ∧ (∀ member lrn key src counts poisoned counters regions, member ≠ s.teamMember b → member < s.teamSize b →
        (∀ k ∈ before, k.second = true ∨ ∃ x ∈ k.others, x.member = member) → r.second = false →
        (∀ x ∈ r.others, x.member ≠ member) → key = s.stepKeyOf r.kind →
        ∃ s' r', exec (.stepProgress b (.entered member lrn key src counts poisoned counters regions)) s = .next s'
          ∧ (s'.scope b).queue = before ++ r' :: rest
          ∧ r'.others = r.others ++ [⟨member, lrn, key, src, counts, poisoned, counters, regions, s.nextOp⟩]
          ∧ r'.failed = r.failed ∧ s'.mem = s.mem)
    ∧ (∀ run step cr, r.kind = .coll run step → (s.run run).coll = some cr → (∀ k ∈ before, s.stepNext b k = none) →
        r.entered = true → r.others.length + 1 = s.teamSize b → r.srcFree = true → r.localReady = false →
        s.stepHeld run = false → s.unseen = [] → r.wrote = [] → s.gate = [] → s.mem.wf = true →
        let plan := s.collPlan cr.op cr.ty cr.desc cr.counts
        let rows := fun (i : Nat) => (r.member cr plan.m i).2
        let elemKeys := fun (idx : List Nat) => idx.flatMap (fun k => s.nearKeys (plan.dst.1 + plan.e * k) plan.e)
        let lands := fun (idx : List Nat) (val : Nat → Nat) (more : List Nat) (s' : State) =>
          let at' := plan.e * idx.length
          exec (.stepProgress b .localReady) s = .next s'
            ∧ (s'.scope b).queue = before ++ { r with localReady := true, inside := false } :: rest
            ∧ (s'.run run).events = (s.run run).events ||| BitVec.ofNat 16 (2 * 2 ^ (3 * step))
            ∧ Stored s.mem s'.mem (elemKeys idx ++ s.nearKeys (collRcnts cr.desc) (4 * more.length)) (fun i =>
                if i < at' then BitVec.ofNat 8 (val (idx.getD (i / plan.e) 0) / 256 ^ (i % plan.e))
                else BitVec.ofNat 8 (more.getD ((i - at') / 4) 0 / 256 ^ ((i - at') % 4)))
        plan.m < plan.p → plan.dst.2 ≠ 0 → 0 < collCount cr.desc →
        (step = 0 → cr.blocks = [] →
          let idx := stepIndexes cr plan.p plan.m rows
          let more := if cr.op = 2 then (List.range plan.p).map (fun i => (rows i).getD plan.m 0) else []
          plainKeys (elemKeys idx ++ s.nearKeys (collRcnts cr.desc) (4 * more.length)) →
          ∃ (s' : State) (val : Nat → Nat), lands idx val more s'
            ∧ (∀ k ∈ idx, StepValue cr plan.p plan.m (fun i j => (r.member cr plan.m i).1.1.getD j 0) rows k (val k))
            ∧ (cr.op = 4 → ∃ cr', (s'.run run).coll = some cr' ∧ cr'.blocks.length = collCount cr.desc
                ∧ (∀ k ∈ idx, (cr'.blocks.getD k (0, false)).1 = val k)
                ∧ ∀ k < collCount cr.desc, StepValue cr plan.p plan.m
                    (fun i j => (r.member cr plan.m i).1.1.getD j 0) rows k (cr'.blocks.getD k (0, false)).1))
        ∧ (step = 1 → cr.op = 4 → cr.blocks.length = collCount cr.desc →
          let idx := (List.range (collCount cr.desc)).filter (fun k =>
            k / ((collCount cr.desc + plan.p - 1) / plan.p) ≠ plan.m)
          plainKeys (elemKeys idx) → ∃ s' : State, lands idx (fun k => (cr.blocks.getD k (0, false)).1) [] s'))
    ∧ (∀ c, r.kind = .bar (some c) → (∀ k ∈ before, s.stepNext b k = none) → r.entered = true →
        r.others.length + 1 = s.teamSize b → s.gate = [] →
        ∃ s', exec (.stepProgress b .allDone) s = .next s' ∧ (s'.scope b).queue = before ++ rest
          ∧ (s'.ctx c).barWait = some 1 ∧ s'.mem = s.mem)
    ∧ (∀ c, r.kind = .bar (some c) → (∀ k ∈ before, s.stepExpired k = false) → r.entered = true → r.inside = true →
        r.deadline ≤ s.wall → s.gate = [] →
        ∃ s', exec (.stepTimeout b) s = .next s' ∧ (s'.scope b).queue = before ++ rest
          ∧ (s'.ctx c).barWait = some 19 ∧ s'.mem = s.mem)

/-- An outside request the gate refuses is answered with its reason; while the rank is about to enter a step or
inside one it is held, and past the timeout it is turned away; else it is admitted: one into a port area may join its
sequencer's queue, and any other is performed at once: a write puts its bytes at its offset of the rank, a read answers those there, and another rank's ATOM or CAS answers
the old bytes and writes the new ones (R136, R137, R191, R192, R205).
Where the rules leave a point open, the choice is the model's, log entries 42 and 43. -/
def Obligations.OutsideRequests : Prop :=
  ∀ (s : State) (r : OutReq), s.house.powered = true →
    let keys := (List.range r.len).map (fun i => siteKey s.party.site (r.offset.toNat + i))
    (∀ reason, s.gateRefusal r = some reason → exec (.outsideRead r) s =
        .next { s with replies := s.replies ++ [⟨r.requester, .pagePerm reason, []⟩] })
    ∧ (s.gateRefusal r = none → s.gateClosed = true → r.core = false →
        (∀ k ∈ s.gate, k.admitted = true ∨ (k.req.core = false ∧ k.due = false)) → ∃ s' g, exec (.outsideRead r) s = .next s'
        ∧ s'.gate = s.gate ++ [g] ∧ g.req = r ∧ g.admitted = false
        ∧ g.deadline = s.wall + s.party.timeout.toNat * 1100 ∧ s'.mem = s.mem)
    ∧ (s.gateRefusal r = none → s.gateClosed = false → s.gate = [] → s.portHeld = false → r.va = none →
        (∀ q : Fin 4, (s.seq q).resetting = false) → r.queued = true → (∃ q ∈ [0, 1, 2, 3], portKey q (keys.headD 0) = true) →
        ∃ s' g, exec (.outsideRead r) s = .next s' ∧ s'.gate = [g] ∧ g.req = r ∧ g.admitted = true ∧ g.keys = keys
          ∧ s'.replies = s.replies ∧ s'.mem = s.mem)
    ∧ (s.gateRefusal r = none → s.gateClosed = false → s.gate = [] → s.portHeld = false → r.va = none →
        (∀ q : Fin 4, (s.seq q).resetting = false) → r.queued = false → s.unseen = [] →
        (s.poisonedAt keys = false → ∃ s', exec (.outsideRead r) s = .next s'
          ∧ s'.replies = s.replies ++ [⟨r.requester, .ok, keys.map s.mem.byteAt⟩] ∧ s'.gate = [] ∧ s'.mem = s.mem)
        ∧ (∀ data : List Byte, data.length = r.len → s.mem.wf = true →
          ∃ s', exec (.outsideWrite r (.inl data)) s = .next s'
            ∧ s'.replies = s.replies ++ [⟨r.requester, .ok, []⟩] ∧ s'.gate = []
            ∧ Stored s.mem s'.mem keys (fun i => data.getD i 0))
        ∧ (∀ a, outBytes a = r.len → s.mem.wf = true → s.poisonedAt keys = false →
          let old := keys.map s.mem.byteAt
          ∃ s', exec (.outsideWrite r (.inr a)) s = .next s'
            ∧ s'.replies = s.replies ++ [⟨r.requester, .ok, old⟩] ∧ s'.gate = []
            ∧ (∀ bs, outApply a (natOfBytes old) = some bs → Stored s.mem s'.mem keys (fun i => bs.getD i 0))
            ∧ (outApply a (natOfBytes old) = none → s'.mem = s.mem)))
    ∧ (∀ n g, s.gate[n]? = some g → g.admitted = false → g.req.core = false → s.waitsReset g = false →
      g.deadline ≤ s.wall → ∃ s',
        exec (.gateTimeout n false) s = .next s' ∧ s'.gate = s.gate.eraseIdx n
          ∧ s'.replies = s.replies ++ [⟨g.req.requester, .gateTimeout, []⟩] ∧ s'.mem = s.mem)

/-! ## Vectors (R340 to R365) -/

/-- The lane arithmetic and logic of R346 to R348: integer lanes wrap, F32 lanes round the exact result once,
minima, clamps, signs, logic, shifts and counts round nothing and count nothing, and inactive lanes follow R342. -/
def Obligations.VectorArithmetic : Prop :=
  ∀ (s : State) (w : Fields) (e : Entry) (t : State),
    let a := slot e t w.fa e.addrStep
    let b := slot e t w.fb 0
    let d := slot e t w.fd 0
    let float := w.ty = .f32
    let lanes := fun (i : Instr) (f : Nat → BitVec 32 × Ev) => Lanes (exec i s) t e (activeLane e t) f
    let plain := fun (i : Instr) (f : Nat → BitVec 32) => lanes i (fun k => (f k, Ev.zero))
    (Runs s .vadd w e t → lanes (.vadd w) (fun i => if float then
        rounded e i [single (a i), single (b i)] (addNum e.rm (single (a i)) (single (b i))) else (a i + b i, Ev.zero)))
    ∧ (Runs s .vsub w e t → lanes (.vsub w) (fun i => if float then
        rounded e i [single (a i), single (b i)] (addNum e.rm (single (a i)) (single (b i)).flip)
        else (a i - b i, Ev.zero)))
    ∧ (Runs s .vmul w e t → lanes (.vmul w) (fun i => if float then
        rounded e i [single (a i), single (b i)] (mulNum (single (a i)) (single (b i))) else (a i * b i, Ev.zero)))
    ∧ (Runs s .vfma w e t → lanes (.vfma w) (fun i => if float then
        rounded e i [single (a i), single (b i), single (d i)]
          (addNum e.rm (single (d i)) (mulNum (single (a i)) (single (b i)))) else (d i + a i * b i, Ev.zero)))
    ∧ (Runs s .vfms w e t → lanes (.vfms w) (fun i => if float then
        rounded e i [single (a i), single (b i), single (d i)]
          (addNum e.rm (single (d i)) (mulNum (single (a i)) (single (b i))).flip) else (d i - a i * b i, Ev.zero)))
    ∧ (let nan : BitVec 32 := 0x7FC00000
      (Runs s .vmin w e t → plain (.vmin w) (fun i =>
        if float then
          if (single (a i)).isNan || (single (b i)).isNan then nan
          else if (single (b i)).below (single (a i)) then b i else a i
        else if w.ty = .i32 then (if (a i).sle (b i) then a i else b i) else if a i ≤ b i then a i else b i))
      ∧ (Runs s .vmax w e t → plain (.vmax w) (fun i =>
        if float then
          if (single (a i)).isNan || (single (b i)).isNan then nan
          else if (single (a i)).below (single (b i)) then b i else a i
        else if w.ty = .i32 then (if (b i).sle (a i) then a i else b i) else if b i ≤ a i then a i else b i))
      ∧ (Runs s .vabs w e t → plain (.vabs w) (fun i =>
        if float then (if (single (a i)).isNan then nan else a i &&& 0x7FFFFFFF)
        else if (a i).toInt < 0 then 0 - a i else a i))
      ∧ (Runs s .vneg w e t → plain (.vneg w) (fun i =>
        if float then (if (single (a i)).isNan then nan else a i ^^^ 0x80000000) else 0 - a i))
      ∧ (Runs s .vclamp w e t → plain (.vclamp w) (fun i =>
        let m := b i &&& 0x7FFFFFFF
        if float then
          if (single (a i)).isNan || (single (b i)).isNan then nan
          else if (single m).lt (single (a i)) then m
          else if (single (a i)).lt (single m).flip then m ||| 0x80000000 else a i
        else if w.ty = .i32 then
          let n : Int := if (b i).toInt = -2147483648 then 2147483647 else if (b i).toInt < 0 then -(b i).toInt else (b i).toInt
          if n < (a i).toInt then BitVec.ofInt 32 n else if (a i).toInt < -n then BitVec.ofInt 32 (-n) else a i
        else if a i ≤ b i then a i else b i)))
    ∧ (Runs s .vand w e t → plain (.vand w) (fun i => a i &&& b i))
    ∧ (Runs s .vor w e t → plain (.vor w) (fun i => a i ||| b i))
    ∧ (Runs s .vxor w e t → plain (.vxor w) (fun i => a i ^^^ b i))
    ∧ (Runs s .vshl w e t → plain (.vshl w) (fun i =>
        if (b i).toNat < 32 then BitVec.ofNat 32 ((a i).toNat * 2 ^ (b i).toNat) else 0))
    ∧ (Runs s .vshr w e t → plain (.vshr w) (fun i =>
        if (b i).toNat < 32 then BitVec.ofNat 32 ((a i).toNat / 2 ^ (b i).toNat) else 0))
    ∧ (Runs s .vsar w e t → plain (.vsar w) (fun i =>
        if (b i).toNat < 32 then BitVec.ofInt 32 ((a i).toInt / 2 ^ (b i).toNat)
        else if (a i).toInt < 0 then BitVec.ofInt 32 (-1) else 0))
    ∧ (Runs s .vcnt w e t → ∃ n : Nat → Nat, plain (.vcnt w) (fun i => BitVec.ofNat 32 (n i)) ∧ ∀ i, n i ≤ 32
        ∧ (w.os.extractLsb' 0 2 = 0 → n i = ((List.range 32).filter (fun k => (a i).getLsbD k)).length)
        ∧ (w.os.extractLsb' 0 2 = 1 → (∀ k, 32 - n i ≤ k → (a i).getLsbD k = false)
          ∧ (n i < 32 → (a i).getLsbD (31 - n i) = true))
        ∧ (w.os.extractLsb' 0 2 = 2 → (∀ k, k < n i → (a i).getLsbD k = false)
          ∧ (n i < 32 → (a i).getLsbD (n i) = true)))

/-- The special functions of R349 round the exact value once to nearest and give the special results of its
table, and VTANH rounds at each step of R350; VCVT converts each lane (R359) and VDOT adds a dot product to
each (R361).
Where the rules leave a point open, the choice is the model's, log entry 21. -/
def Obligations.VectorFunctions : Prop :=
  ∀ (s : State) (w : Fields) (e : Entry) (t : State),
    let a := slot e t w.fa e.addrStep
    let b := slot e t w.fb 0
    let d := slot e t w.fd 0
    let one : Machine.Num := .fin false 1 0 false
    let fun1 := fun (i : Instr) (f : Machine.Num → Machine.Num) =>
      Lanes (exec i s) t e (activeLane e t) (fun k => rounded e k [single (a k)] (f (single (a k))))
    (Runs s .vrcp w e t → fun1 (.vrcp w) (divNum one))
    ∧ (Runs s .vrsq w e t → fun1 (.vrsq w) rsqrtNum)
    ∧ (Runs s .vsqrt w e t → fun1 (.vsqrt w) sqrtNum)
    ∧ (Runs s .vexp2 w e t → fun1 (.vexp2 w) exp2Num)
    ∧ (Runs s .vlog2 w e t → fun1 (.vlog2 w) log2Num)
    ∧ (∀ x, divNum one (.inf x) = .zero x ∧ divNum one (.zero x) = .inf x ∧ rsqrtNum (.zero x) = .inf x
        ∧ sqrtNum (.zero x) = .zero x ∧ exp2Num (.zero x) = one ∧ log2Num (.zero x) = .inf true)
    ∧ (∀ m ex st, m ≠ 0 → rsqrtNum (.fin true m ex st) = .nan ∧ sqrtNum (.fin true m ex st) = .nan
        ∧ log2Num (.fin true m ex st) = .nan)
    ∧ (rsqrtNum (.inf true) = .nan ∧ sqrtNum (.inf true) = .nan ∧ exp2Num (.inf true) = .zero false
        ∧ log2Num (.inf true) = .nan ∧ rsqrtNum (.inf false) = .zero false ∧ sqrtNum (.inf false) = .inf false
        ∧ exp2Num (.inf false) = .inf false ∧ log2Num (.inf false) = .inf false)
    ∧ (Runs s .vtanh w e t →
        let r := fun (x : Machine.Num) => single (BitVec.ofNat 32 (roundTo (fmtF32 false) .rne 0 x).1)
        let same := fun (x : Machine.Num) => (roundTo (fmtF32 false) .rne 0 x).2.inexact = 0
        Lanes (exec (.vtanh w) s) t e (activeLane e t) (fun i =>
          let x := single (a i)
          if x.isNan then (0x7FC00000, Ev.zero)
          else if (a i &&& 0x7FFFFFFF) < 0x39800000 then (a i, Ev.zero)
          else
            let tt := (mulNum (single 0x4038AA3B) x.abs).flip
            let u := exp2Num (r tt)
            let n := addNum .rne (single 0x3F800000) (r u).flip
            let q := addNum .rne (single 0x3F800000) (r u)
            let y := divNum (r n) (r q)
            (BitVec.ofNat 32 ((fmtF32 false).withSign x.neg (roundTo (fmtF32 false) .rne 0 y).1),
              if same tt ∧ same u ∧ same n ∧ same q ∧ same y then Ev.zero else { inexact := 1 })))
    ∧ (Runs s .vcvt w e t →
        let src := fun (i : Nat) => if w.os.extractLsb' 6 2 = 0 then single (a i)
          else if w.os.extractLsb' 6 2 = 1 then Machine.Num.ofInt (a i).toInt else Machine.Num.ofInt ((a i).toNat : Nat)
        (isFloatElem w.ty = true → Lanes (exec (.vcvt w) s) t e (fun _ => true) (fun i =>
          let r := roundTo (elemFmt w.ty e.fmt e.sat) e.rm (e.draw i) (src i)
          (BitVec.ofNat 32 r.1, r.2)))
        ∧ (isFloatElem w.ty = false → Lanes (exec (.vcvt w) s) t e (fun _ => true) (fun i =>
          let r := toIntType (w.ty.signed || w.ty == .i4) (if w.ty = .i4 then 4 else bits w.ty) e.rm (e.draw i) (src i)
          (BitVec.ofInt 32 r.1, r.2))))
    ∧ (Runs s .vdot w e t →
        let sum := fun (n : Nat) (val : BitVec 32 → Nat → Int) (i : Nat) =>
          ((List.range n).map (fun k => val (a i) k * val (b i) k)).sum
        (w.ty = .i8 → Lanes (exec (.vdot w) s) t e (activeLane e t) (fun i =>
          (d i + BitVec.ofInt 32 (sum 4 (fun x k => (x.extractLsb' (8 * k) 8).toInt) i), Ev.zero)))
        ∧ (w.ty = .ui8 → Lanes (exec (.vdot w) s) t e (activeLane e t) (fun i =>
          (d i + BitVec.ofInt 32 (sum 4 (fun x k => ((x.extractLsb' (8 * k) 8).toNat : Int)) i), Ev.zero)))
        ∧ (w.ty = .i4 → Lanes (exec (.vdot w) s) t e (activeLane e t) (fun i =>
          (d i + BitVec.ofInt 32 (sum 8 (fun x k => (x.extractLsb' (4 * k) 4).toInt) i), Ev.zero)))
        ∧ (w.ty = .bf16 ∨ w.ty = .f16 → Lanes (exec (.vdot w) s) t e (activeLane e t) (fun i =>
          let half := fun (x : BitVec 32) (k : Nat) => (floatFmt w.ty false).decode (x.extractLsb' (16 * k) 16).toNat
          let z := single (d i)
          rounded e i [z, half (a i) 0, half (b i) 0, half (a i) 1, half (b i) 1]
            (addNum e.rm (addNum e.rm z (mulNum (half (a i) 0) (half (b i) 0))) (mulNum (half (a i) 1) (half (b i) 1))))))

/-- VCMP, VSEL, VIOTA, VMSK, VTAG and the lane movers of R355 give the lanes and bits of R351 to R355 and R365; they
count nothing. -/
def Obligations.VectorMoves : Prop :=
  ∀ (s : State) (w : Fields) (e : Entry) (t : State),
    let a := slot e t w.fa e.addrStep
    let b := slot e t w.fb 0
    let act := activeLane e t
    let old := e.vec t t.cur w.fd
    let n := (e.opB t t.cur).toNat % 32
    let plain := fun (i : Instr) (f : Nat → BitVec 32) => Lanes (exec i s) t e act (fun k => (f k, Ev.zero))
    let bitwise := fun (i : Instr) (f : Nat → Bool) => ∃ m : Mask, exec i s = result t e [(e.fdReg, m.setWidth 1024)]
      ∧ ∀ k, k < 32 → m.getLsbD k = f k
    let every := fun (i : Instr) (f : Nat → BitVec 32) => ∃ v : Vec, exec i s = result t e [(e.fdReg, v)]
      ∧ ∀ k, k < 32 → lane v k = f k
    (Runs s .vcmp w e t → bitwise (.vcmp w) (fun k =>
        let x := single (a k)
        let y := single (b k)
        let un := x.isNan || y.isNan
        let cond := if w.ty = .f32 then
            (if w.sz = 0 then x.eq y else if w.sz = 1 then un || !x.eq y else if w.sz = 2 then x.lt y
             else if w.sz = 3 then !un && !x.lt y else if w.sz = 6 then un else !un)
          else (if w.sz = 0 then a k == b k else if w.sz = 1 then a k != b k else if w.sz = 2 then (a k).slt (b k)
            else if w.sz = 3 then (b k).sle (a k) else if w.sz = 4 then (a k).ult (b k) else (b k).ule (a k))
        if act k then
          (if w.os.extractLsb' 0 2 = 0 then cond else if w.os.extractLsb' 0 2 = 1 then cond && old.getLsbD k
           else cond || old.getLsbD k)
        else !w.zm && old.getLsbD k))
    ∧ (Runs s .vsel w e t → every (.vsel w) (fun k => if act k then a k else b k))
    ∧ (Runs s .viota w e t → plain (.viota w) (fun k =>
        (e.opB t t.cur).setWidth 32 + BitVec.ofNat 32 ((List.range k).filter act).length))
    ∧ (Runs s .vmsk w e t → let src := e.vec t t.cur w.fa
        (w.os.extractLsb' 0 2 = 0 → bitwise (.vmsk w) (fun k => lane src k != 0))
        ∧ (w.os.extractLsb' 0 2 = 1 → every (.vmsk w) (fun k => if src.getLsbD k then 0xFFFFFFFF else 0))
        ∧ (w.os.extractLsb' 0 2 = 2 → bitwise (.vmsk w) (fun k =>
          src.getLsbD k && (List.range k).all (fun j => !src.getLsbD j))))
    ∧ (Runs s .vbcast w e t → plain (.vbcast w) (fun _ =>
        if w.fa.cls = .vector then lane (e.vec t t.cur w.fa) n else (e.opA t t.cur).setWidth 32))
    ∧ (Runs s .vext w e t → let x := lane (e.vec t t.cur w.fa) n
        exec (.vext w) s = toFd t e (if w.ty = .i32 then x.signExtend 64 else x.setWidth 64))
    ∧ (Runs s .vins w e t → every (.vins w) (fun k => if k = n then (e.opA t t.cur).setWidth 32 else lane old k))
    ∧ (Runs s .vshuf w e t → plain (.vshuf w) (fun k =>
        if (b k).getLsbD 31 then 0 else a ((b k).toNat % 32)))
    ∧ (Runs s .vperm w e t → plain (.vperm w) (fun k =>
        let j := (b k).toNat % 64
        if (b k).getLsbD 31 then 0 else if j < 32 then a j else slot e t w.fd 0 (j - 32)))
    ∧ (Runs s .vrot w e t → plain (.vrot w) (fun k => a ((k + n) % 32)))
    ∧ (Runs s .vtag w e t → every (.vtag w) (fun k =>
        let x := (a k).toInt + ((e.opB t t.cur).setWidth 32).toInt
        if act k = false ∨ (a k).toInt < 0 ∨ x < 0 ∨ 254 < x then 0xFF else BitVec.ofInt 32 x))

/-- VRED folds the active lanes to a scalar, integers exactly and F32 by the tree of R262 or lane by lane, and VSCAN
writes each active lane the fold of those up to it (R356, R357); VARGM writes the lowest index of the greatest or
least lane (R358); VPACK, VUNPK and VQNT pack and unpack elements (R360, R362), and VCVTO writes its outliers to the
side list as BF16 and moves its pointer past them (R363). Each completes, and counts its elements' events.
Where the rules leave a point open, the choice is the model's, log entries 23, 24 and 120. -/
def Obligations.VectorFolds : Prop :=
  ∀ (s : State) (w : Fields) (e : Entry) (t : State),
    let a := slot e t w.fa e.addrStep
    let act := (List.range 32).filter (activeLane e t)
    let op := w.os.extractLsb' 0 2
    let float := w.ty = .f32
    let least : BitVec 32 := if w.ty = .i32 then 0x80000000 else if w.ty = .ui32 then 0 else 0xFF800000
    let most : BitVec 32 := if w.ty = .i32 then 0x7FFFFFFF else if w.ty = .ui32 then 0xFFFFFFFF else 0x7F800000
    let empty : BitVec 32 := if op = 0 then 0 else if op = 1 then least else most
    let extend := fun (x : BitVec 32) => if w.ty = .i32 then x.signExtend 64 else x.setWidth 64
    let atLeast := fun (x y : BitVec 32) =>   -- x ≥ y among integers
      if w.ty = .i32 then y.toInt ≤ x.toInt else y.toNat ≤ x.toNat
    let better := fun (x y : BitVec 32) =>   -- whether x lies above y in VARGM's order
      if float then (single y).below (single x) = true
      else if w.ty = .i32 then y.toInt < x.toInt else y.toNat < x.toNat
    let nan : BitVec 32 := 0x7FC00000
    let first := fun (x : BitVec 32) => if float ∧ (single x).isNan = true then nan else x
    let pick := fun (x y : BitVec 32) =>   -- the greater or the lesser of two lanes (R346)
      if float ∧ ((single x).isNan || (single y).isNan) = true then nan
      else if (op = 1 ∧ better y x) ∨ (op ≠ 1 ∧ better x y) then y else x
    let add := fun (k : Nat) (x y : BitVec 32) =>
      rounded e k [single x, single y] (addNum e.rm (single x) (single y))
    let step := fun (k : Nat) (x y : BitVec 32) =>
      if op ≠ 0 then (pick x y, Ev.zero) else if float then add k x y else (x + y, Ev.zero)
    let fold := foldBack step first empty
    let leaf := fun (k : Nat) => if activeLane e t k then a k else 0
    let counts := fun (k : Nat) => ¬ float ∨ (single (a k)).isNan = false
    let width := elemWidth w.ty e.fmt
    let q := (e.opB t t.cur).toNat % (32 / width)
    (Runs s .vred w e t → w.ty = .i32 ∨ w.ty = .ui32 ∨ w.ty = .f32 → op ≠ 3 →
      ∃ (v : Word) (evs : List Ev), exec (.vred w) s = toFd (t.count (total evs)) e v
        ∧ (¬ float → total evs = Ev.zero)
        ∧ (act = [] → op ≠ 0 ∨ ¬ float ∨ w.os.getLsbD 2 = true → v = extend empty)
        ∧ (op = 0 → w.ty = .i32 → v = BitVec.ofInt 64 ((act.map (fun k => (a k).toInt)).sum))
        ∧ (op = 0 → w.ty = .ui32 → v = BitVec.ofNat 64 ((act.map (fun k => (a k).toNat)).sum))
        ∧ (op = 1 → ¬ float → act ≠ [] → ∃ k ∈ act, v = extend (a k) ∧ ∀ j ∈ act, atLeast (a k) (a j))
        ∧ (op = 2 → ¬ float → act ≠ [] → ∃ k ∈ act, v = extend (a k) ∧ ∀ j ∈ act, atLeast (a j) (a k))
        ∧ (float → op ≠ 0 ∨ w.os.getLsbD 2 = true → v = ((fold (act.map a).reverse).1).setWidth 64
          ∧ evs = ((List.range act.length).map (fun n => (fold ((act.take (n + 1)).map a).reverse).2)))
        ∧ (float → op = 0 → w.os.getLsbD 2 = false → act ≠ [] → v = ((treeNode add leaf 5 0).1).setWidth 64
          ∧ evs = (List.range 5).flatMap (fun l => (List.range (16 / 2 ^ l)).map (fun j => (treeNode add leaf (l + 1) j).2)))
        ∧ (float → op = 0 → act = [] → v = 0))
    ∧ (Runs s .vscan w e t → w.ty = .i32 ∨ w.ty = .ui32 ∨ w.ty = .f32 → op ≠ 3 →
        Lanes (exec (.vscan w) s) t e (activeLane e t) (fun i =>
          fold ((act.filter (fun j => decide (j < i) || (j == i && !w.os.getLsbD 2))).map a).reverse))
    ∧ (Runs s .vargm w e t → w.ty = .i32 ∨ w.ty = .ui32 ∨ w.ty = .f32 →
      ∃ v : Word, exec (.vargm w) s = toFd t e v
        ∧ ((∀ k ∈ act, ¬ counts k) → v = BitVec.ofInt 64 (-1))
        ∧ ((∃ k ∈ act, counts k) → ∃ k ∈ act, counts k ∧ v = BitVec.ofNat 64 k
          ∧ (∀ j ∈ act, counts j → (w.os.getLsbD 0 = false → ¬ better (a j) (a k)) ∧ (w.os.getLsbD 0 = true → ¬ better (a k) (a j)))
          ∧ (∀ j ∈ act, counts j → j < k → (w.os.getLsbD 0 = false → better (a k) (a j)) ∧ (w.os.getLsbD 0 = true → better (a j) (a k)))))
    ∧ (Runs s .vpack w e t → width ∈ [2, 4, 8, 16] →
        let range := intRange w.ty.signed width
        let element := fun (k : Nat) =>
          if isFloatElem w.ty then roundTo (elemFmt w.ty e.fmt e.sat) e.rm (e.draw k) (single (a k))
          else ((max range.1 (min range.2 (a k).toInt) % 2 ^ width).toNat,
            if (a k).toInt < range.1 ∨ range.2 < (a k).toInt then { overflow := 1 } else Ev.zero)
        ∃ v : Vec, exec (.vpack w) s = result (t.count (total ((List.range 32).map (fun k => (element k).2)))) e [(e.fdReg, v)]
          ∧ (∀ k, k < 32 → (v.extractLsb' (width * (32 * q + k)) width).toNat = (element k).1 % 2 ^ width)
          ∧ (∀ i, i < 1024 → (i < width * 32 * q ∨ width * 32 * (q + 1) ≤ i) →
            v.getLsbD i = (e.vec t t.cur w.fd).getLsbD i))
    ∧ (Runs s .vunpk w e t → width ∈ [2, 4, 8, 16] →
        let code := fun (k : Nat) => (e.vec t t.cur w.fa).extractLsb' (width * (32 * q + k)) width
        let element := fun (k : Nat) => roundTo (fmtF32 false) .rne 0 ((elemFmt w.ty e.fmt false).decode (code k).toNat)
        ∃ v : Vec, exec (.vunpk w) s = result (t.count (if isFloatElem w.ty then
              total ((List.range 32).map (fun k => (element k).2)) else Ev.zero)) e [(e.fdReg, v)]
          ∧ ∀ k, k < 32 → lane v k = if isFloatElem w.ty then BitVec.ofNat 32 (element k).1
            else if w.ty.signed then (code k).signExtend 32 else (code k).setWidth 32)
    ∧ (Runs s .vqnt w e t → ∀ f, e.fmt = some f → (f.desc.block = 16 ∨ f.desc.block = 32) → f.desc.width ≤ 16 →
        let block := fun (j : Nat) =>
          (List.range f.desc.block).map (fun i => single (lane (e.vec t t.cur w.fa) (f.desc.block * j + i)))
        let element := fun (k : Nat) => roundTo f.desc.fmt e.rm (e.draw k)
          (unscale (single (lane (e.vec t t.cur w.fa) k)) (chooseScale f.desc.fmt (block (k / f.desc.block))).2)
        ∃ v : Vec, exec (.vqnt w) s = result (t.count (total ((List.range 32).map (fun k => (element k).2)))) e [(e.fdReg, v)]
          ∧ (∀ j, j < 32 / f.desc.block →
            (v.extractLsb' (992 + 8 * j) 8).toNat = (chooseScale f.desc.fmt (block j)).1)
          ∧ (∀ k, k < 32 → (v.extractLsb' (f.desc.width * k) f.desc.width).toNat = (element k).1 % 2 ^ f.desc.width)
          ∧ (∀ i, (32 * f.desc.width ≤ i ∧ i < 992) ∨ 992 + 8 * (32 / f.desc.block) ≤ i → v.getLsbD i = false))
    ∧ (Runs s .vcvto w e t → t.mem.wf = true →
        let p := e.opB t t.cur
        let limit := (single ((e.second t t.cur w.fb).setWidth 32)).abs
        let out := (List.range 32).filter (fun i => limit.lt (single (a i)).abs)
        let kept := fun (i : Nat) => roundTo (elemFmt .nf e.fmt e.sat) e.rm (e.draw i) (single (a i))
        let side := fun (i : Nat) => roundTo (fmtBF16 false) .rne 0 (single (a i))
        let ev := total ((List.range 32).map (fun i => if i ∈ out then (side i).2.add { outliers := 1 } else (kept i).2))
        let keys := (List.range (2 * out.length)).map (fun i => spadKey t (p.toNat + i))
        let data := out.flatMap (fun i => bytesOfNat 2 (side i).1)
        (p.toNat % 2 ≠ 0 → exec (.vcvto w) s = trapped s e Cause.misaligned p)
        ∧ (p.toNat % 2 = 0 → 0x80000 - t.carve < p.toNat + 64 → exec (.vcvto w) s = trapped s e Cause.nearBounds p)
        ∧ (p.toNat % 2 = 0 → p.toNat + 64 ≤ 0x80000 - t.carve → ∃ (v : Vec) (m : Mask) (s1 : State),
          exec (.vcvto w) s = result s1 e [(e.fdReg, v), (.m (4 + (w.os.extractLsb' 6 2).setWidth 3), m.setWidth 1024),
            ((regAt e.depth w.fb).getD (.g 0), (p + BitVec.ofNat 64 (2 * out.length)).setWidth 1024)]
          ∧ (∀ i, i < 32 → m.getLsbD i = decide (i ∈ out)
            ∧ lane v i = if i ∈ out then 0 else BitVec.ofNat 32 (kept i).1)
          ∧ (t.spadNow t.cur true keys = true → s1 = (t.count ev).writeKeys ⟨t.cur.1, .s, true⟩ keys data
            ∧ Stored t.mem s1.mem keys (fun i => data.getD i 0))
          ∧ (t.spadNow t.cur true keys = false → ∃ f, s1.flights = t.flights ++ [f] ∧ f.kind = .store data ∧ f.keys = keys
            ∧ f.c = t.cur ∧ f.near = true ∧ s1.mem = t.mem ∧ (s1.ctx t.cur).file = ((t.count ev).ctx t.cur).file)))

/-! ## The matrix engine and the planes (R366 to R413) -/

/-- MMAS, MMAV, MMAR and MTQ with operands that R370, R371, R375 and R383 accept join the engine queue and the open
batch, or wait for room; MCOMMIT closes the batch and gives its number, MWAIT waits for one or all, MPOLL tests one,
MSTAT reads the status words, MCAP seals a token and MCMD starts a message to its target (R376, R377, R384,
R387, R388).
Where the rules leave a point open, the choice is the model's, log entries 22, 45 and 71. -/
def Obligations.MatrixInstructions : Prop :=
  ∀ (s : State) (w : Fields) (e : Entry) (t : State),
    let c := t.cur
    let x := t.ctx c
    let ab := e.opA t c
    let ap := e.second t c w.fa
    let bb := e.scalar t c w.fb
    let bp := e.second t c w.fb
    let b := e.opB t c
    let modFd := w.os.extractLsb' 0 6
    let own := fun (p : Word) => OpFmt.mk (if p.getLsbD 46 then p.extractLsb' 40 6 else modFd) true
    let n := fun (f : Option FmtRef) => 4096 / opWidth w.ty f
    let queues := fun (i : Instr) (kind : EngineKind) (fa fb : Option FmtRef) (targets : List Nat) (cost : Nat) =>
      (Room t cost → QueuesEngine (exec i s) t e kind fa fb targets cost) ∧ (¬ Room t cost → exec i s = waits s t)
    (Runs s .mmas w e t → ∀ d fa fb, Tile e t w.fd d → t.mulFmts w.ty (own ap) (own bp) = some (fa, fb) →
        let steps := 2 ^ (w.os.extractLsb' 6 2).toNat
        PairOk t w.ty fa ab ap steps (n fa) → PairOk t w.ty fb bb bp steps (n fb) →
        queues (.mmas w) (.mma d (.pair ab.toNat ap) (.pair bb.toNat bp) steps false) fa fb
          [d, d + 1, d + 2, d + 3] (128 * steps))
    ∧ (Runs s .mmav w e t → ∀ fa fb, (e.opD t c).toNat < 512 →
        (t.matrix.block ((e.opD t c).toNat / 8)).alloc.isSome = true →
        t.mulFmts w.ty ⟨modFd, false⟩ (own bp) = some (fa, fb) → PairOk t w.ty fb bb bp 1 (n fb) →
        ∃ row : BitVec 4096,
          queues (.mmav w) (.mmav ((e.opD t c).toNat / 8) ((e.opD t c).toNat % 8) (.row row) (.pair bb.toNat bp)) fa fb
            [(e.opD t c).toNat / 8] 8
          ∧ ∀ k r, (regsAt e.depth w.fa 4)[k]? = some r → k < 4 → row.extractLsb' (1024 * k) 1024 = e.reg t c r)
    ∧ (Runs s .mmar w e t → ∀ d fa fb, Tile e t w.fd d → (e.opA t c).toNat < 64 →
        let steps := if w.os.getLsbD 6 then 2 else 1
        (w.os.getLsbD 7 = true → bb.toNat < 64 → t.mulFmts w.ty ⟨modFd, false⟩ ⟨modFd, false⟩ = some (fa, fb) →
          queues (.mmar w) (.mma d (.slots (e.opA t c).toNat) (.slots bb.toNat) steps false) fa fb
            [d, d + 1, d + 2, d + 3] (128 * steps))
        ∧ (w.os.getLsbD 7 = false → t.mulFmts w.ty ⟨modFd, false⟩ (own bp) = some (fa, fb) →
          PairOk t w.ty fb bb bp steps (n fb) →
          queues (.mmar w) (.mma d (.slots (e.opA t c).toNat) (.pair bb.toNat bp) steps false) fa fb
            [d, d + 1, d + 2, d + 3] (128 * steps)))
    ∧ (Runs s .mtq w e t → let db := e.scalar t c w.fd
        let dp := e.second t c w.fd
        PairOk t .nf e.fmt ab ap 1 32 → PairOk t .nf e.fmt db dp 1 32 → ap.getLsbD 46 = false → dp.getLsbD 46 = false →
        rangesMeet (mtqRanges e.fmt ab.toNat ap) (mtqRanges e.fmt db.toNat dp) = false →
        queues (.mtq w) (.mtq (ab.toNat, ap) (db.toNat, dp)) e.fmt e.fmt [] 32)
    ∧ (Runs s .mcommit w e t → x.batches.length < 8 → ∃ s1,
        exec (.mcommit w) s = toFd s1 e (x.batchNext.setWidth 64) ∧ s1.mem = t.mem ∧ s1.matrix.acc = t.matrix.acc
        ∧ (s1.ctx c).batchNext = x.batchNext + 1 ∧ (s1.ctx c).openOps = 0
        ∧ s1.matrix.queue.length = t.matrix.queue.length
        ∧ (∀ (k : Nat) (q : EngineOp), t.matrix.queue[k]? = some q → ∃ q' : EngineOp, s1.matrix.queue[k]? = some q' ∧ q'.id = q.id ∧ q'.kind = q.kind
          ∧ q'.owner = (match q.owner with
            | .ctx d pc none => if d = c then .ctx c pc (some x.batchNext) else q.owner
            | o => o))
        ∧ ((∃ (q : EngineOp) (pc : Word), q ∈ t.matrix.queue ∧ q.owner = .ctx c pc none) → x.batchNext ∈ (s1.ctx c).batches))
    ∧ (Runs s .mcommit w e t → 8 ≤ x.batches.length → exec (.mcommit w) s = waits s t)
    ∧ (Runs s .mwait w e t → w.os.getLsbD 0 = true →
        exec (.mwait w) s = if x.batches = [] then result t e [] else waits s t)
    ∧ (Runs s .mwait w e t → w.os.getLsbD 0 = false →
        (7 < b.toNat → exec (.mwait w) s = trapped s e Cause.nearBounds b)
        ∧ (b.toNat ≤ 7 → exec (.mwait w) s = if BitVec.ofNat 3 b.toNat ∈ x.batches then waits s t else result t e []))
    ∧ (Runs s .mpoll w e t → (e.fdReg matches .p _) ∨ (e.fdReg matches .m _) → b.toNat ≤ 7 →
        let done := decide (BitVec.ofNat 3 b.toNat ∉ x.batches)
        exec (.mpoll w) s = result t e [(e.fdReg, match e.fdReg with
          | .p _ => if done then 1 else 0
          | _ => if done then 0xFFFFFFFF else 0)])
    ∧ (Runs s .mstat w e t →
        (w.os.extractLsb' 0 2 = 0 → ∃ v : Word, exec (.mstat w) s = toFd t e v
          ∧ v.getLsbD 0 = t.matrix.queue.any (·.running)
          ∧ (t.matrix.queue.length < 32 → (t.matrix.queue.map (·.cost)).sum < 65536 →
            (v.extractLsb' 16 5).toNat = t.matrix.queue.length
            ∧ (v.extractLsb' 32 16).toNat = (t.matrix.queue.map (·.cost)).sum))
        ∧ (w.os.extractLsb' 0 2 = 1 → (e.opA t c).toNat < 64 → ∃ v : Word, exec (.mstat w) s = toFd t e v
          ∧ let k := (e.opA t c).toNat
          v.getLsbD 0 = (t.matrix.block k).alloc.isSome ∧ v.getLsbD 2 = (t.matrix.block k).poison
          ∧ v.getLsbD 1 = (t.matrix.queue.any (fun q => q.targets.contains k)
              || t.liveCmds.any (fun m => (tileBlocks (recBlock m.record)).contains k))
          ∧ (∀ o f l, (t.matrix.block k).alloc = some (o, f, l) → (v.extractLsb' 4 4).toNat = o.1))
        ∧ (w.os.extractLsb' 0 2 = 2 → ∃ v : Word, exec (.mstat w) s = toFd t e v
          ∧ v.extractLsb' 16 3 = x.batchNext ∧ (v.extractLsb' 0 5).toNat = min x.openOps 31
          ∧ ∀ k : BitVec 3, v.getLsbD (8 + k.toNat) = x.batches.contains k))
    ∧ (Runs s .mcap w e t → let r := e.opA t c
        let base := (r.extractLsb' 14 6).toNat
        let len := 4 * 2 ^ (r.extractLsb' 12 2).toNat
        let from' := 8192 * (r.extractLsb' 6 6).toNat
        let to' := from' + 8192 * ((r.extractLsb' 0 6).toNat + 1)
        (r.extractLsb' 22 42 = 0 → base + len ≤ 64 → base % 4 = 0 → to' ≤ 0x80000 - t.carve →
          ∃ check : BitVec 24, exec (.mcap w) s = toFd t e (check ++ t.partyId ++ t.lrn ++ r.extractLsb' 0 22)
            ∧ check.toNat = natOfBytes ((sha512 (bytesOfNat 32 t.party.key.toNat
              ++ bytesOfNat 5 (t.partyId ++ t.lrn ++ r.extractLsb' 0 22 : BitVec 40).toNat)).take 3))
        ∧ ((r.extractLsb' 22 42 ≠ 0 ∨ 64 < base + len ∨ base % 4 ≠ 0 ∨ 0x80000 - t.carve < to') →
          exec (.mcap w) s = trapped s e Cause.nearBounds r))
    ∧ (Runs s .mcmd w e t → let a := e.opA t c
        (16 ≤ t.msgs.length ∨ t.readWaits c a.toNat 64 = true → exec (.mcmd w) s = waits s t)
        ∧ (t.msgs.length < 16 → t.readWaits c a.toNat 64 = false →
        (a.toNat % 64 ≠ 0 → exec (.mcmd w) s = trapped s e Cause.misaligned a)
        ∧ (a.toNat % 64 = 0 → ReadableSpad t a.toNat 64 →
          let r : BitVec 512 := BitVec.ofNat 512 (spadNat t a.toNat 64)
          (recReserved r = true → exec (.mcmd w) s = trapped s e Cause.nearBounds a)
          ∧ (recReserved r = false → t.mulFmts w.ty (own (recWord r 1)) (own (recWord r 3)) ≠ none →
            ∃ m s', exec (.mcmd w) s = .next s' ∧ s'.msgs = t.msgs ++ [m] ∧ m.kind = .mcmd ∧ m.c = c ∧ m.pc = e.pc
              ∧ m.dest = e.fdReg ∧ m.dev = r.extractLsb' 272 14 ∧ m.lrn = b.extractLsb' 22 10
              ∧ (∀ k, m.cmd = some k → k.record = r ∧ k.token = b ∧ k.ty = w.ty)
              ∧ (m.cmd.isSome = t.isSelf m.dev m.lrn)
              ∧ m.tr = w.hints.tr
              ∧ (e.fdReg.fixed = false → w.hints.tr = false → (s'.ctx c).isPending e.fdReg = true) ∧ s'.mem = t.mem))))

/-- ABALLOC gives the lowest free aligned run of blocks or traps ACC_EXHAUSTED, ABFREE frees an allocation,
ABZERO clears blocks, ABWRITE writes a tile row and ABREAD delivers one rounded; a block in flight traps ACC_BUSY
where it must stand still, and makes ABREAD's destination pending, behind which the two wait (R367, R378, R380 to
R382).
Where the rules leave a point open, the choice is the model's, log entries 56 and 72. -/
def Obligations.BlockInstructions : Prop :=
  ∀ (s : State) (w : Fields) (e : Entry) (t : State), t.matrix.acc.wf = true →
    let c := t.cur
    let x := t.ctx c
    let n := 2 ^ (w.os.extractLsb' 0 2).toNat
    let b := blockNumber e t w.fa e.addrStep
    let row := (e.opB t c).toNat
    let queued := fun (k : Nat) => ∃ q ∈ t.matrix.queue, k ∈ q.targets
    let busy := fun (k : Nat) => queued k
      ∨ (∃ m ∈ t.liveCmds, k ∈ tileBlocks (recBlock m.record))
    let noReads := ∀ k, t.readPending k = false
    (Runs s .aballoc w e t →
        (∀ f, f % n = 0 → f + n ≤ 64 → (∀ k, k < n → (t.matrix.block (f + k)).alloc = none) →
          (∀ g, g % n = 0 → g < f → ∃ k, k < n ∧ (t.matrix.block (g + k)).alloc ≠ none) →
          ∃ s1, exec (.aballoc w) s = toFd s1 e (BitVec.ofNat 64 f) ∧ s1.matrix.acc = t.matrix.acc ∧ s1.mem = t.mem
            ∧ ∀ k, k < 64 → (s1.matrix.block k).alloc =
                if f ≤ k ∧ k < f + n then some (c, f, n) else (t.matrix.block k).alloc)
        ∧ ((∀ g, g % n = 0 → g + n ≤ 64 → ∃ k, k < n ∧ (t.matrix.block (g + k)).alloc ≠ none) →
          exec (.aballoc w) s = trapped s e Cause.accExhausted (BitVec.ofNat 64 n)))
    ∧ (Runs s .abfree w e t → b < 64 → noReads →
        ((t.matrix.block b).alloc ≠ some (c, b, n) →
          exec (.abfree w) s = trapped s e Cause.nearBounds (BitVec.ofNat 64 b))
        ∧ ((t.matrix.block b).alloc = some (c, b, n) → (∀ k, b ≤ k → k < b + n → ¬ busy k) →
          ∃ s1, exec (.abfree w) s = result s1 e [] ∧ s1.matrix.acc = t.matrix.acc ∧ s1.mem = t.mem
            ∧ ∀ k, k < 64 → (s1.matrix.block k).alloc = if b ≤ k ∧ k < b + n then none else (t.matrix.block k).alloc))
    ∧ (Runs s .abzero w e t → b < 64 → noReads → (∀ k, k < n → (t.matrix.block (b + k)).alloc ≠ none) →
        ((∀ k, b ≤ k → k < b + n → ¬ busy k) →
          ∃ s1, exec (.abzero w) s = result s1 e [] ∧ s1.mem = t.mem
            ∧ (∀ k i, i < 256 → element s1 k i = if b ≤ k ∧ k < b + n then (0, 0) else element t k i)
            ∧ (∀ k, b ≤ k → k < b + n → (s1.matrix.block k).poison = false))
        ∧ (busy b → exec (.abzero w) s = trapped s e Cause.accBusy (BitVec.ofNat 64 b)))
    ∧ (Runs s .abzero w e t → b < 64 → (∀ k, k < n → (t.matrix.block (b + k)).alloc ≠ none) →
        (∃ k, b ≤ k ∧ k < b + n ∧ t.readPending k = true) → exec (.abzero w) s = waits s t)
    ∧ (Runs s .abwrite w e t → b < 64 → row < 8 → (t.matrix.block b).alloc ≠ none → noReads →
        (¬ busy b → ∃ s1, exec (.abwrite w) s = result s1 e [] ∧ s1.mem = t.mem
          ∧ ∀ k i, i < 256 → element s1 k i =
              if k = b ∧ i / 32 = row then
                let x := lane (e.vec t c w.fd) (i % 32)
                (if (single x).isNan then 0x7FC00000 else x, 0)
              else element t k i)
        ∧ (busy b → exec (.abwrite w) s = trapped s e Cause.accBusy (BitVec.ofNat 64 b)))
    ∧ (Runs s .abwrite w e t → b < 64 → row < 8 → (t.matrix.block b).alloc ≠ none → t.readPending b = true →
        exec (.abwrite w) s = waits s t)
    ∧ (Runs s .abread w e t → 7 < row → exec (.abread w) s = trapped s e Cause.nearBounds (e.opB t c))
    ∧ (Runs s .abread w e t → b < 64 → row < 8 → (t.matrix.block b).alloc ≠ none →
        (¬ busy b → (t.matrix.block b).poison = true → exec (.abread w) s = trapped s e Cause.poisoned e.pc)
        ∧ (busy b → ¬ queued b → (t.matrix.block b).poison = true → exec (.abread w) s =
            result (t.lateFault c ⟨Cause.poisoned, e.pc, none, none, x.inh, 0⟩) e [(e.fdReg, 0)])
        ∧ (¬ queued b → (t.matrix.block b).poison = false → ∃ (v : Vec) (ev : Ev),
          exec (.abread w) s = result (t.count ev) e [(e.fdReg, v)]
          ∧ ∀ k, k < 32 → let p := element t b (32 * row + k)
            let x := addNum .rne (single p.1) (single p.2)
            lane v k = if w.ty = .i32 then BitVec.ofInt 32 (toIntType true 32 .rne 0 x).1
              else BitVec.ofNat 32 (roundTo (elemFmt w.ty e.fmt e.sat) .rne 0 x).1)
        ∧ (queued b → ∃ (f : Flight) (s' : State), exec (.abread w) s = .next s' ∧ s'.flights = t.flights ++ [f]
          ∧ f.dest = some e.fdReg ∧ f.c = c ∧ f.tr = w.hints.tr ∧ s'.matrix = t.matrix ∧ s'.mem = t.mem
          ∧ (e.fdReg.fixed = false → w.hints.tr = false → (s'.ctx c).isPending e.fdReg = true)))

/-- WLOAD, WSWAP, WPASS, WGACC and WCHK whose operands are accepted join the plane queue with what they read at
issue, or wait for room; a pass's tokens take the slots the residency table gives their tags, and a miss that is not
tolerated traps TAG_MISS with nothing written; a WPASS with NB traps PLANE_BUSY while its plane loads or is checked; WRES, WCFG and WSTAT write and read the tables (R394 to R411). -/
def Obligations.PlaneInstructions : Prop :=
  ∀ (s : State) (w : Fields) (e : Entry) (t : State),
    let c := t.cur
    let x := t.ctx c
    let a := e.opA t c
    let b := e.opB t c
    let room := t.matrix.planeQueue.length < 8 ∧ Room t 0
    let idle := if t.matrix.activeView then 0 else 1
    let first := a
    let packed := e.second t c w.fa
    let tokens := (packed.extractLsb' 52 6).toNat
    let blk := (packed.extractLsb' 58 6).toNat
    let tag := fun (k : Nat) => if activeLane e t k then ((e.vec t c w.fb).extractLsb' (32 * k) 8).toNat else 255
    let queues := fun (i : Instr) (plane : Nat) (kind : PlaneKind) (targets : List Nat) (res : List (RegName × Vec))
        (after : State → Prop) =>
      (room → QueuesPlane (exec i s) t e plane kind targets res after) ∧ (¬ room → exec i s = waits s t)
    (Runs s .wload w e t → b.toNat < 4 →
        (w.os.getLsbD 0 = false → a.toNat % 8 = 0 → a.toNat + 33280 ≤ 0x80000 - t.carve →
          queues (.wload w) idle (.load b.toNat false a.toNat) [] [] (fun _ => True))
        ∧ (w.os.getLsbD 0 = true → a.toNat < 64 → queues (.wload w) idle (.load b.toNat true a.toNat) [] [] (fun _ => True))
        ∧ (w.os.getLsbD 0 = false → a.toNat % 8 ≠ 0 → exec (.wload w) s = trapped s e Cause.misaligned a))
    ∧ (Runs s .wswap w e t → queues (.wswap w) 0 .swap [] [] (fun s1 => s1.matrix.activeView = !t.matrix.activeView))
    ∧ (Runs s .wpass w e t → let p := if w.os.getLsbD 0 then 1 else 0
        t.passFault first packed (packed.extractLsb' 32 20 != 0 || packed.extractLsb' 0 16 != 0) ((tokens + 1) / 2) 4 4 = none →
        let busy := w.os.getLsbD 2 = true ∧ (t.matrix.loading p = true ∨ t.matrix.checking p = true)
        (busy → exec (.wpass w) s = trapped s e Cause.planeBusy (BitVec.ofNat 64 p)) ∧ (¬ busy →
        let missed := fun (k : Nat) => decide (tag k ≠ 255) && (t.matrix.slotOf p (tag k)).isNone
        ((x.planeCfg.getLsbD 2 = true ∨ ∀ k, k < tokens → missed k = false) →
          ∃ (slots : List (Option Nat)) (mask : Mask),
            queues (.wpass w) p (.pass (first.extractLsb' 0 32).toNat (first.extractLsb' 32 32).toNat
                (packed.extractLsb' 16 16).toNat blk tokens slots (x.planeCfg.getLsbD 0) (x.planeCfg.getLsbD 1))
              ((List.range ((tokens + 1) / 2)).map (blk + ·)) [(e.fdReg, mask.setWidth 1024)]
              (fun s1 => s1.counters = (t.count { tagMisses := ((List.range tokens).filter missed).length }).counters)
            ∧ slots.length = tokens
            ∧ ∀ k, k < tokens → slots[k]? = some (if tag k = 255 then none else t.matrix.slotOf p (tag k))
              ∧ mask.getLsbD k = missed k)
        ∧ (∀ k, x.planeCfg.getLsbD 2 = false → k < tokens → missed k = true → (∀ j, j < k → missed j = false) →
          exec (.wpass w) s = trapped s e Cause.tagMiss (BitVec.ofNat 64 (tag k + 256 * k)))))
    ∧ (Runs s .wgacc w e t → let p := if w.os.getLsbD 2 then 1 else 0
        let alt := (w.os.extractLsb' 0 2).toNat
        let entry := t.matrix.resident p alt
        let row0 := (packed.extractLsb' 32 9).toNat
        t.passFault first packed (packed.extractLsb' 41 11 != 0 || packed.extractLsb' 0 16 != 0 || row0 % 64 != 0) 32
          (packed.extractLsb' 16 16).toNat 512 = none →
        (entry.getLsbD 24 = false → exec (.wgacc w) s = trapped s e Cause.nearBounds (BitVec.ofNat 64 alt))
        ∧ (entry.getLsbD 24 = true →
          let sel := (List.range tokens).filter (fun k => tag k == (entry.extractLsb' 0 8).toNat)
          ∃ mask : Mask, queues (.wgacc w) p (.grad alt (first.extractLsb' 0 32).toNat (first.extractLsb' 32 32).toNat
              (packed.extractLsb' 16 16).toNat blk row0 sel) ((List.range 32).map (blk + ·))
              [(e.fdReg, mask.setWidth 1024)] (fun _ => True)
            ∧ ∀ k, k < 32 → mask.getLsbD k = decide (k ∈ sel)))
    ∧ (Runs s .wchk w e t → queues (.wchk w) (if w.os.getLsbD 0 then 1 else 0) (.check e.fdReg w.hints.tr) [] []
        (fun s1 => e.fdReg.fixed = false → w.hints.tr = false → (s1.ctx c).isPending e.fdReg = true))
    ∧ (Runs s .wres w e t → a.toNat < 4 → let p := if w.os.getLsbD 0 then 1 else 0
        let twice := ∃ k, k < 4 ∧ k ≠ a.toNat ∧ (t.matrix.resident p k).getLsbD 24 = true
          ∧ (t.matrix.resident p k).extractLsb' 0 8 = b.extractLsb' 0 8
        let bad := b.extractLsb' 25 39 ≠ 0 ∨ (b.getLsbD 24 = true ∧ (b.extractLsb' 0 8 = 255 ∨ twice))
        (bad → exec (.wres w) s = trapped s e Cause.nearBounds b)
        ∧ (¬ bad → ∃ s1, exec (.wres w) s = result s1 e [] ∧ s1.mem = t.mem ∧ s1.matrix.planeMem = t.matrix.planeMem
          ∧ s1.matrix.planeQueue = t.matrix.planeQueue
          ∧ ∀ p' k, p' < 2 → k < 4 → s1.matrix.resident p' k =
              if p' = p ∧ k = a.toNat then b else t.matrix.resident p' k))
    ∧ (Runs s .wcfg w e t →
        (a &&& ~~~0x107 ≠ 0 → exec (.wcfg w) s = trapped s e Cause.nearBounds a)
        ∧ (a &&& ~~~0x107 = 0 → exec (.wcfg w) s = result (t.modCtx c (fun x =>
          { x with planeCfg := (a &&& 7) ||| (if a.getLsbD 8 then 0 else x.planeCfg &&& 0x100) })) e []))
    ∧ (Runs s .wstat w e t → let p := if w.os.getLsbD 2 then 1 else 0
        (w.os.extractLsb' 0 2 ≠ 0 → exec (.wstat w) s = if a.toNat < 4 then toFd t e (t.matrix.resident p a.toNat)
          else trapped s e Cause.nearBounds a)
        ∧ (w.os.extractLsb' 0 2 = 0 → ∃ v : Word, exec (.wstat w) s = toFd t e v
          ∧ v.getLsbD 0 = decide (idle ≠ p) ∧ v.getLsbD 1 = t.matrix.loading p ∧ v.getLsbD 2 = t.matrix.checking p
          ∧ v.extractLsb' 12 4 = (t.matrix.checkLog.toList.getD p (0, 0)).1
          ∧ v.extractLsb' 5 7 = (t.matrix.checkLog.toList.getD p (0, 0)).2))

/-- The engine starts its oldest operation, and a multiply that completes has accumulated each element's groups in
ascending order and leaves (R372, R373); a plane starts its oldest operation, a load that completes has written its
image, a pass each token's counted dot products, whose sum without clipping is the exact one, a WGACC its selected
tokens' products, and a check its word (R395 to R410); MMAV accumulates one tile row and MTQ writes its tile's columns as
rows, scaled block by block, to its destination (R371, R383); a remote command is answered, kept while its target party is
not bound, or queued (R389, R391).
Where the rules leave a point open, the choice is the model's, log entries 69, 74 and 76. -/
def Obligations.EngineEvents : Prop :=
  (∀ (s : State), s.house.powered = true →
    (∀ q rest, s.matrix.queue = q :: rest → q.isPlane = false → q.running = false → (∀ p ∈ rest, q.id < p.id) →
      exec .engineOpStart s = .next { s with matrix := { s.matrix with queue := { q with running := true } :: rest } })
    ∧ (∀ q rest d a b steps, s.matrix.queue = q :: rest → q.running = true → q.kind = .mma d a b steps false →
      s.slotFilling q.readsSlot q.id = false → s.unseen = [] → s.matrix.acc.wf = true →
      let r := s.opAgent q.owner .m
      let rowA := fun (k i : Nat) => (s.readRow r a q.ty q.fa k i).1
      let rowB := fun (k j : Nat) => (s.readRow r b q.ty q.fb k j).1
      (∀ k i, k < steps → i < 32 → (rowA k i).2 = none ∧ (rowB k i).2 = none) →
      ∃ s', exec .engineOpComplete s = .next s' ∧ s'.mem = s.mem ∧ (∀ p ∈ s'.matrix.queue, p ∈ rest ∧ p.id ≠ q.id)
        ∧ (∀ i j, i < 32 → j < 32 → element s' (d + (32 * i + j) / 256) ((32 * i + j) % 256) =
            (accumulateAll ((List.range steps).flatMap (fun k => groups (rowA k i).1 (rowB k j).1))
              (element s (d + (32 * i + j) / 256) ((32 * i + j) % 256))).1)
        ∧ (∀ k i, i < 256 → (k < d ∨ d + 4 ≤ k) → element s' k i = element s k i))
    ∧ (∀ q rest blk row a b, s.matrix.queue = q :: rest → q.running = true → q.kind = .mmav blk row a b → row < 8 →
      s.slotFilling q.readsSlot q.id = false → s.unseen = [] → s.matrix.acc.wf = true →
      let r := s.opAgent q.owner .m
      let rowA := (s.readRow r a q.ty q.fa 0 0).1
      let rowB := fun (j : Nat) => (s.readRow r b q.ty q.fb 0 j).1
      rowA.2 = none → (∀ j, j < 32 → (rowB j).2 = none) →
      ∃ s', exec .engineOpComplete s = .next s' ∧ s'.mem = s.mem ∧ (∀ p ∈ s'.matrix.queue, p ∈ rest ∧ p.id ≠ q.id)
        ∧ (∀ j, j < 32 → element s' blk (32 * row + j) =
            (accumulateAll (groups rowA.1 (rowB j).1) (element s blk (32 * row + j))).1)
        ∧ (∀ k i, i < 256 → ¬(k = blk ∧ i / 32 = row) → element s' k i = element s k i))
    ∧ (∀ q rest src dst f, s.matrix.queue = q :: rest → q.running = true → q.kind = .mtq src dst → q.fa = some f →
      (f.desc.block = 16 ∨ f.desc.block = 32) → f.desc.width ≤ 16 →
      s.slotFilling q.readsSlot q.id = false → s.unseen = [] → s.mem.wf = true →
      let l := f.desc.block
      let width := f.desc.width
      let rows := fun (i : Nat) => rowRanges .nf q.fa (rowAddr src.1 src.2 0 i) 32
      let bytes := fun (x : Nat × Nat) => (s.nearKeys x.1 x.2).map s.mem.byteAt
      let value := fun (i j : Nat) => (rowElems .nf q.fa 32 (natOfBytes (bytes ((rows i).headD (0, 0))))
        (bytes ((rows i).getD 1 (0, 0)))).getD j (.zero false)
      let scale := fun (j h : Nat) => chooseScale f.desc.fmt ((List.range l).map (fun i => value (l * h + i) j))
      let code := fun (j i : Nat) => (roundTo f.desc.fmt .rne 0 (unscale (value i j) (scale j (i / l)).2)).1
      let codeKeys := fun (j : Nat) => s.nearKeys (rowAddr dst.1 dst.2 0 j) (4 * width)
      let scaleKeys := fun (j : Nat) => s.nearKeys (rowAddr dst.1 dst.2 0 j + f.desc.offset) (32 / l)
      let all := (List.range 32).flatMap (fun j => codeKeys j ++ scaleKeys j)
      plainKeys all → (∀ i, i < 32 → ∀ x ∈ rows i, s.poisonedAt (s.nearKeys x.1 x.2) = false) →
      ∃ s', exec .engineOpComplete s = .next s' ∧ (∀ p ∈ s'.matrix.queue, p ∈ rest ∧ p.id ≠ q.id)
        ∧ (∀ j i, j < 32 → i < 32 →
            natOfBytes ((codeKeys j).map s'.mem.get) / 2 ^ (width * i) % 2 ^ width = code j i % 2 ^ width)
        ∧ (∀ j h, j < 32 → h < 32 / l → ∀ k, (scaleKeys j)[h]? = some k → s'.mem.get k = BitVec.ofNat 8 (scale j h).1)
        ∧ (∀ k, k ∉ all → s'.mem.get k = s.mem.get k) ∧ s'.matrix.acc = s.matrix.acc)
    ∧ (∀ q rest, s.matrix.planeQueue = q :: rest → q.started = false → (∀ p ∈ rest, q.id < p.id) →
      s.rows.queue = [] → s.rows.running = [] → (∀ m ∈ s.matrix.queue, q.id ≤ m.id) →
      (q.kind ≠ .swap → exec (.planeOpStart 0) s =
        .next { s with matrix := { s.matrix with planeQueue := { q with started := true } :: rest } })
      ∧ (q.kind = .swap → ∃ s', exec (.planeOpStart 0) s = .next s' ∧ s'.matrix.planeQueue = rest
        ∧ s'.matrix.activePlane = !s.matrix.activePlane ∧ s'.matrix.planeMem = s.matrix.planeMem ∧ s'.mem = s.mem))
    ∧ (∀ (n : Nat) q (struck : List CellFlip), s.matrix.planeQueue[n]? = some q → q.started = true →
      let found := (s.matrix.strike q.plane struck).checked q.plane
      let planes := (s.matrix.strike q.plane struck).planeMem
      (∀ alt src, q.kind = .load alt false src → s.unseen = [] → s.matrix.planeMem.wf = true →
        s.poisonedAt (s.nearKeys src 33280) = false →
        ∃ s', exec (.planeOpComplete n struck) s = .next s' ∧ s'.mem = s.mem
          ∧ (∀ i, i < 33280 → s'.matrix.planeMem.get (altKey q.plane alt + i) =
              s.mem.byteAt ((s.nearKeys src 33280).getD i 0))
          ∧ (∀ k, (k < altKey q.plane alt ∨ altKey q.plane alt + 33280 ≤ k) →
              s'.matrix.planeMem.get k = planes.get k)
          ∧ s'.matrix.residency = s.matrix.residency)
      ∧ (∀ ab sb pitch blk tokens slots full clipTrap, q.kind = .pass ab sb pitch blk tokens slots full clipTrap →
        s.unseen = [] → s.matrix.acc.wf = true → slots.length ≤ 32 →
        (∀ k alt, slots[k]? = some (some alt) → s.poisonedAt (s.nearKeys (ab + k * pitch) 512) = false
          ∧ s.poisonedAt (s.nearKeys (sb + k * 4) 4) = false) →
        ∃ s', exec (.planeOpComplete n struck) s = .next s' ∧ s'.mem = s.mem ∧ s'.matrix.planeMem = planes
          ∧ (∀ k alt col, slots[k]? = some (some alt) → col < 128 →
            let acts := (s.nearKeys (ab + k * pitch) 512).map (fun i => (s.mem.byteAt i).toNat)
            let scale := (fmtF32 false).decode (natOfBytes ((s.nearKeys (sb + k * 4) 4).map s.mem.byteAt))
            element s' (blk + k / 2) (128 * (k % 2) + col) =
              (passElem planes q.plane alt col full acts scale
                (element s (blk + k / 2) (128 * (k % 2) + col))).1)
          ∧ (∀ k col, slots[k]? = some none → col < 128 →
            element s' (blk + k / 2) (128 * (k % 2) + col) = element s (blk + k / 2) (128 * (k % 2) + col)))
      ∧ (∀ alt xb db pitch blk row0 sel, q.kind = .grad alt xb db pitch blk row0 sel → s.unseen = [] →
        s.matrix.acc.wf = true →
        (∀ k ∈ sel, s.poisonedAt (s.nearKeys (xb + k * pitch) 512) = false
          ∧ s.poisonedAt (s.nearKeys (db + k * pitch) 512) = false) →
        let bytes := fun (at' : Nat) => (s.nearKeys at' 512).map s.mem.byteAt
        let act := fun (r k : Nat) => Machine.Num.ofInt (signedOf 8 ((bytes (xb + k * pitch)).getD (row0 + r) 0).toNat)
        let grad := fun (col k : Nat) =>
          (fmtF32 false).decode (natOfBytes (((bytes (db + k * pitch)).drop (4 * col)).take 4))
        ∃ s', exec (.planeOpComplete n struck) s = .next s' ∧ s'.mem = s.mem ∧ s'.matrix.planeMem = planes
          ∧ (∀ r col, r < 64 → col < 128 →
            let old := element s (blk + r / 2) (128 * (r % 2) + col)
            element s' (blk + r / 2) (128 * (r % 2) + col) =
              if sel = [] then old else (accumulateAll [sel.map (fun k => (act r k, grad col k))] old).1)
          ∧ (∀ k i, i < 256 → (k < blk ∨ blk + 32 ≤ k) → element s' k i = element s k i))
      ∧ (∀ dest c pc k, q.kind = .check dest false → q.owner = .ctx c pc k → q.plane < 2 → s.flights = [] →
        dest.fixed = false → resident (s.ctx c) dest →
        ∃ s', exec (.planeOpComplete n struck) s = .next s' ∧ s'.mem = s.mem
          ∧ (s'.ctx c).file dest = held dest (((if found.1 = 0 then 0#1 else 1#1) ++ 0#50 ++ BitVec.ofNat 1 q.plane
            ++ found.1 ++ 0#1 ++ found.2 : BitVec 64).setWidth 1024)
          ∧ s'.matrix.checkLog.toList[q.plane]? = some found))
    ∧ (∀ m : RemoteCmd, m.own = false →
      (m.member = false → exec (.mcmdArrive m) s = .next { s with
        cmds := s.cmds.erase m
        replies := s.replies ++ [⟨m.tag, .ok, bytesOfNat 8 (statusWord 5 s.ownDev s.lrn 0).toNat⟩] })
      ∧ (m.member = true → s.party.bound = false ∨ s.targetSaved m = true → exec (.mcmdArrive m) s =
        .next { s with cmds := if m ∈ s.cmds then s.cmds else s.cmds ++ [m] })
      ∧ (m.member = true → s.party.bound = true → s.targetSaved m = false →
        (m.token.extractLsb' 22 10 ≠ s.lrn ∨ m.token.extractLsb' 32 8 ≠ s.partyId ∨ m.token.getLsbD 20 = false
          ∨ (m.record.getLsbD 264 = true ∧ m.token.getLsbD 21 = false)) →
        exec (.mcmdArrive m) s = .next { s with
          cmds := s.cmds.erase m
          replies := s.replies ++ [⟨m.tag, .denied, []⟩] })
      ∧ (let fa := fmtOfPair m.ty (m.fmts.1, m.fmts.2.1)
        let fb := fmtOfPair m.ty (m.fmts.2.2.1, m.fmts.2.2.2)
        let d := (m.record.extractLsb' 256 6).toNat
        let steps := 2 ^ (m.record.extractLsb' 262 2).toNat
        m.member = true → s.party.bound = true → s.targetSaved m = false → s.granted m fa fb = true → d % 4 = 0 →
        (∀ k, k < 4 → (s.matrix.block (d + k)).alloc.isSome = true) →
        PairOk s m.ty fa (recWord m.record 0) (recWord m.record 1) steps (4096 / opWidth m.ty fa) →
        PairOk s m.ty fb (recWord m.record 2) (recWord m.record 3) steps (4096 / opWidth m.ty fb) →
        let first := ∀ k, s.liveCmds.head? = some k → k = m
        let room := s.matrix.queue.length < 16 ∧ (s.matrix.queue.map (·.cost)).sum + 128 * steps ≤ 3072
        (¬ (first ∧ room) → exec (.mcmdArrive m) s =
          .next { s with cmds := if m ∈ s.cmds then s.cmds else s.cmds ++ [m] })
        ∧ (first → room → ∃ (q : EngineOp) (s' : State), exec (.mcmdArrive m) s = .next s' ∧ s'.matrix.queue = s.matrix.queue ++ [q]
          ∧ q.owner = .remote m ∧ q.targets = [d, d + 1, d + 2, d + 3] ∧ q.cost = 128 * steps
          ∧ q.kind = .mma d (.pair (recWord m.record 0).toNat (recWord m.record 1))
              (.pair (recWord m.record 2).toNat (recWord m.record 3)) steps (m.record.getLsbD 264)
          ∧ s'.cmds = s.cmds.erase m ∧ s'.mem = s.mem ∧ s'.replies = s.replies))
      ∧ (∀ n : Nat, s.cmds[n]? = some m → s.party.bound = false ∨ s.targetSaved m = true → exec (.mcmdTimeout n) s = .next { s with
        cmds := s.cmds.erase m
        replies := s.replies ++ [⟨m.tag, .ok, bytesOfNat 8 (statusWord 2 s.ownDev s.lrn 0).toNat⟩] }))
    ∧ (∀ (n : Nat) (m : Msg) code dev lrn, s.msgs[n]? = some m → m.kind = .mcmd → s.isSelf m.dev m.lrn = false →
      ∃ s', exec (.mcmdStatusLand n (.landed code dev lrn)) s = .next s' ∧ s'.mem = s.mem
        ∧ s'.msgs = s.msgs.filter (fun k => k.id != m.id)
        ∧ (resident (s.ctx m.c) m.dest → m.dest.fixed = false → m.tr = false →
          (s'.ctx m.c).file m.dest = held m.dest ((statusWord code dev lrn 0).setWidth 1024))))
  ∧ (∀ acts ws : List Nat, acts.length = ws.length → (∀ a ∈ acts, a < 256) → (∀ x ∈ ws, x < 16) →
    countedDot true acts ws = (((acts.zip ws).map (fun p => signedOf 8 p.1 * signedOf 4 p.2)).sum, false))
  ∧ (∀ (m : Matrix) (p : Nat), m.planeMem.wf = true → (∀ a, a < 4 → (m.knownOf p a).length = 128) →
    let weights := fun a col => (columnCodes m.planeMem p a col).map (signedOf 4)
    let sums := fun a col => ((weights a col).map (fun w => -w) |>.sum,
      (weights a col).zipIdx.map (fun k => k.1 * (if k.2 % 2 = 0 then 85 else -86)) |>.sum)
    let differs := fun a col => a < 4 ∧ col < 128 ∧ (m.knownOf p a)[col]? ≠ some (sums a col)
    (∀ a, a < 4 → ((m.checked p).1.getLsbD a = true ↔ ∃ col, differs a col))
    ∧ ∀ a col, differs a col → (∀ a' col', differs a' col' → a < a' ∨ (a = a' ∧ col ≤ col')) →
      (m.checked p).2 = BitVec.ofNat 7 col)

/-! ## Launches and the scheduler (R138, R415 to R432) -/

/-- LAUNCH with a well-formed packet of its own VF in the scratchpad takes the lowest free ticket, answers its number
and hands the packet over, its class no more urgent than the party's, as ageing has left it; it waits without a ticket, and while a store of
its context has still to complete, and traps LAUNCH_RANGE on a packet R416 rejects. OWAIT waits for the record,
answers its word and frees the ticket, and OPOLL tests for it; a ticket of no use to the context traps NEAR_BOUNDS
(R419).
Where the rules leave a point open, the choice is the model's, log entries 45, 55, 92 and 96. -/
def Obligations.LaunchInstructions : Prop :=
  ∀ (s : State) (w : Fields) (e : Entry) (t : State),
    let c := t.cur
    let a := e.opA t c
    let ticket := fun (x : State) (k : Nat) => x.sched.tickets.toList.getD k none
    (Runs s .launch w e t → ∀ k, k < 32 → ticket t k = none → (∀ j, j < k → ticket t j ≠ none) → t.loadWaits c = false →
        (a.toNat % 64 ≠ 0 → exec (.launch w) s = trapped s e Cause.misaligned a)
        ∧ (a.toNat % 64 = 0 → 0x80000 - t.carve < a.toNat + 64 → exec (.launch w) s = trapped s e Cause.nearBounds a)
        ∧ (a.toNat % 64 = 0 → ReadableSpad t a.toNat 64 →
          let p : BitVec 512 := BitVec.ofNat 512 (spadNat t a.toNat 64)
          (launchReason p ≠ 0 → exec (.launch w) s =
            trapped s e Cause.launchRange ((BitVec.ofNat 64 (launchReason p) <<< 60) ||| (a &&& 0xFFFFFFFF)))
          ∧ (launchReason p = 0 → p.extractLsb' 16 6 ≠ t.vf → exec (.launch w) s =
            trapped s e Cause.launchRange ((6 <<< 60) ||| (a &&& 0xFFFFFFFF)))
          ∧ (launchReason p = 0 → p.extractLsb' 16 6 = t.vf → ∃ (s1 : State) (o : Outing),
            exec (.launch w) s = toFd s1 e (BitVec.ofNat 64 k) ∧ s1.mem = t.mem
            ∧ ticket s1 k = some ⟨c, t.sched.outings.length⟩ ∧ (∀ j, j < 32 → j ≠ k → ticket s1 j = ticket t j)
            ∧ s1.sched.outings[t.sched.outings.length]? = some o ∧ s1.sched.outings.length = t.sched.outings.length + 1
            ∧ o.vf = t.vf ∧ o.id = p.extractLsb' 160 32
            ∧ (t.partyCls < 4 → pkPrio o.packet = max (pkPrio p) t.partyCls)
            ∧ (∀ i, i < 512 → i ≠ 31 → i ≠ 32 → o.packet.getLsbD i = p.getLsbD i))))
    ∧ (Runs s .launch w e t → (∀ j, j < 32 → ticket t j ≠ none) ∨ t.loadWaits c = true → exec (.launch w) s = waits s t)
    ∧ (Runs s .owait w e t → ∀ k o, a.toNat < 32 → ticket t a.toNat = some k → k.owner = c →
        t.sched.outings[k.outing]? = some o →
        (o.recorded = false → exec (.owait w) s = waits s t)
        ∧ (o.recorded = true → ∃ s1,
          exec (.owait w) s = toFd s1 e (o.reason ++ o.status ++ 0#39 ++ 1#1 : BitVec 64) ∧ s1.mem = t.mem
          ∧ ticket s1 a.toNat = none ∧ (∀ j, j < 32 → j ≠ a.toNat → ticket s1 j = ticket t j)))
    ∧ (Runs s .opoll w e t → ∀ k o, (e.fdReg matches .p _) ∨ (e.fdReg matches .m _) →
        a.toNat < 32 → ticket t a.toNat = some k → k.owner = c → t.sched.outings[k.outing]? = some o →
        ∃ s1, exec (.opoll w) s = result s1 e [(e.fdReg, match e.fdReg with
            | .p _ => if o.recorded then 1 else 0
            | _ => if o.recorded then 0xFFFFFFFF else 0)]
          ∧ s1.mem = t.mem ∧ ticket s1 a.toNat = if o.recorded then none else some k)
    ∧ (Runs s .owait w e t → (32 ≤ a.toNat ∨ ∀ k, ticket t a.toNat = some k → k.owner ≠ c) →
        exec (.owait w) s = trapped s e Cause.nearBounds a)
    ∧ (Runs s .opoll w e t → (32 ≤ a.toNat ∨ ∀ k, ticket t a.toNat = some k → k.owner ≠ c) →
        exec (.opoll w) s = trapped s e Cause.nearBounds a)

/-- A launch packet is rejected, refused or becomes an outing; a done outing's record is written last; a
record in the slot table starts its party on an idle site, with its private memory zero but for its own copies of the
near sections, its control context at the packet's entry and every other context blank; an image that must be signed
is refused unless its signature verifies; the record of a party of several ranks, written free, halts the rank's part, and
frees the slot and the rank's number once no outside request that was admitted is outstanding;
a pre-emption halts the party and a halted one is saved; the
quantum, the ageing and the forecast are as R422, R423 and R432 say (R138, R289, R416, R417, R424, R425, R429).
Where the rules leave a point open, the choice is the model's, log entries 70, 91, 92, 94, 97, 124, 125, 126 and 133. -/
def Obligations.SchedulingEvents : Prop :=
  ∀ (s : State), s.house.powered = true →
    let add := fun (o : Outing) => { s with sched := { s.sched with outings := s.sched.outings ++ [o] } }
    (∀ (p : BitVec 512) (image : LoiImage),
      let o : Outing :=
        { vf := p.extractLsb' 16 6, id := p.extractLsb' 160 32, packet := p, state := .done, met := (false, false)
          cls := pkPrio p, agedAt := 0, readyAt := 0, begun := 0, done := [], ended := 0, failed := 0, first := 0
          reason := 0, status := 0, time := s.now, recorded := false, token := none }
      let head : BitVec 512 := BitVec.ofNat 512 (natOfBytes (image.file.take 64))
      let covered := image.file.take (head.extractLsb' 384 32).toNat
      let block : BitVec 1024 :=
        BitVec.ofNat 1024 (natOfBytes ((image.file.drop (head.extractLsb' 384 32).toNat).take 128))
      (launchReason p ≠ 0 → exec (.launchPacket ⟨p, image⟩) s =
        .next (add { o with status := 3, reason := BitVec.ofNat 16 (launchReason p) }))
      ∧ (launchReason p = 0 → s.refusal p ≠ 0 → exec (.launchPacket ⟨p, image⟩) s =
        .next (add { o with status := 4, reason := BitVec.ofNat 16 (s.refusal p) }))
      ∧ (launchReason p = 0 → s.refusal p = 0 → s.imageTaken image = false → ∃ reason : BitVec 16,
        exec (.launchPacket ⟨p, image⟩) s =
          .next { add { o with status := 4, reason := reason } with tick := s.tick + 1 })
      ∧ (s.imageTaken image = true ↔ imageSound image = true ∧ (s.house.secPolicy.getLsbD 0 = false
        ∨ (head.getLsbD 50 = true ∧ ∃ key ∈ s.trustedKeys (block.extractLsb' 768 64),
            Config.verify key (sha512 covered) (block.extractLsb' 0 512) = true)))
      ∧ (launchReason p = 0 → s.refusal p = 0 → s.imageTaken image = true → pkCount p ≠ 0 → p.getLsbD 29 = false → p.getLsbD 30 = false →
        (∀ x ∈ s.sched.outings, x.state ≠ .waiting) →
        exec (.launchPacket ⟨p, image⟩) s =
          .next ((add { o with state := .ready, met := (true, true), agedAt := s.wall, readyAt := s.wall }).noteImage
            (pkAsid p))))
    ∧ (∀ (vf : BitVec 6) (id : BitVec 32) o i ks peer ent s1, s.nextRecord vf id = some (o, i) → o.state = .done →
      s.sched.outings[i]? = some o →
      s.translate (pkAsid o.packet) (pkCompl o.packet) 32 .outWrite false 0 = (.ok ks peer ent, s1) →
      s1.mem.wf = true → plainKeys ks → ks.length = 32 → s1.sched = s.sched →
      ∃ s', exec (.outingComplete vf id) s = .next s'
        ∧ Stored s1.mem s'.mem ks (fun k => BitVec.ofNat 8 ((1 + o.status.toNat * 2 ^ 40 + o.reason.toNat * 2 ^ 48
            + o.first * 2 ^ 64 + o.ended * 2 ^ 96 + o.failed * 2 ^ 128 + o.id.toNat * 2 ^ 160
            + o.time % 2 ^ 64 * 2 ^ 192) / 256 ^ k))
        ∧ s'.sched.outings[i]? = some { o with recorded := true })
    ∧ (∀ (site : BitVec 10) (slot : Fin 12) (bits : BitVec 256) (asid : BitVec 8), s.isFused site = false →
      (bits.extractLsb' 0 2 ≠ 1 ∨ site ≠ s.party.site ∨ ∀ l ∈ s.rows.layers.toList, l.deep = false) →
      ∃ s', exec (.slotRecordWrite site slot ⟨bits, asid⟩) s = .next s'
        ∧ (s.gate = [] → ∀ k, k < 256 →
          (s'.slotRecord site slot).getLsbD k = if 3 ≤ k ∧ k < 96 then false else bits.getLsbD k)
        ∧ (∀ site' slot', (site' ≠ site ∨ slot' ≠ slot) → s'.slotRecord site' slot' = s.slotRecord site' slot')
        ∧ (site ≠ s.party.site → recState bits = 2 → s.mayName asid site bits = true → (asid, recLrn bits, some site) ∈ s'.rankMap)
        ∧ (let gone := site = s.party.site ∧ slot = s.party.slot ∧ 1 < s.party.size
            ∧ recState (s.slotRecord site slot) = 2 ∧ recState bits = 0
          (¬ gone → (site = s.party.site → s'.rankMap = s.rankMap) ∧ s'.mem = s.mem ∧ s'.ctxs = s.ctxs)
          ∧ (gone → s.party.bound = true → s'.party.bound = false ∧ (∀ c, s'.ctx c = Ctx.blank)
            ∧ s'.graph.streams = [] ∧ s'.sched.tickets = Vector.replicate 32 none
            ∧ (s.gate = [] → ∀ x ∈ s'.rankMap, x ∈ s.rankMap ∧ ¬ (x.1 = s.asid ∧ x.2.1 = s.lrn))
            ∧ ((∃ g ∈ s.gate, g.admitted = true) → s'.slotRecord site slot = s.slotRecord site slot
              ∧ s'.rankMap = s.rankMap ∧ s'.party.freeing.isSome = true))))
    ∧ (∀ (site : BitVec 10) (slot : Fin 12) (w : SlotWrite), s.isFused site = true ∨ (recState w.bits = 1
        ∧ site = s.party.site ∧ ∃ l ∈ s.rows.layers.toList, l.deep = true) →
      exec (.slotRecordWrite site slot w) s = .next s)
    ∧ (∀ d : BindInfo, let r := s.slotRecord d.site d.slot
      s.party.bound = false → s.house.bootStat.extractLsb' 4 4 = 8 → s.isFused d.site = false →
      s.siteIdle d.site d.slot = true → s.rankQuiet = true → soundBind d r = true → s.savedFor d r = none →
      s.partyReady d r = true → s.mayBind d r = true → d.packet.extractLsb' 320 64 = 0 →
      ∃ s', exec (.dispatchStart d) s = .next s' ∧ s'.party.bound = true ∧ s'.party.packet = d.packet
        ∧ s'.party.site = d.site ∧ s'.party.key = d.key ∧ s'.party.timeout = 50000
        ∧ (s'.ctx 0).cstate = .ready ∧ (s'.ctx 0).pc = d.packet.extractLsb' 256 64 ∧ (s'.ctx 0).depth = 0
        ∧ (s'.ctx 0).pending = [] ∧ (s'.ctx 0).hamper = [] ∧ (s'.ctx 0).deferMode = false
        ∧ (∀ q, q ≠ .p 0 → (s'.ctx 0).file q = 0) ∧ (∀ c, c ≠ 0 → s'.ctx c = Ctx.blank)
        ∧ s'.counters = Vector.replicate 8 0 ∧ s'.matrix = Matrix.blank
        ∧ (∀ k, k < 0x80000 → (∀ n ∈ d.near, k < n.addr.toNat ∨ n.addr.toNat + n.data.length ≤ k) →
          s'.mem.get (siteKey d.site (spadOff + k)) = 0)
        ∧ (s.mem.wf = true → ∀ (n : NearSection) (o : Nat) (addr : BitVec 32), d.near = [n] → n.addr.toNat < 0x80000 →
          n.rankrel = [(o, addr)] → o + 4 ≤ n.data.length → ∀ i, i < n.data.length →
          s'.mem.get (siteKey d.site (spadOff + n.addr.toNat + i)) =
            if o ≤ i ∧ i < o + 4 then BitVec.ofNat 8 ((if addr.toNat < 0x8000000 then 0x8000000 + addr.toNat
              else recLotBase r + (addr.toNat - 0x8000000)) / 256 ^ (i - o))
            else n.data.getD i 0)
        ∧ (∀ k, k < 65536 → s'.mem.get (slotKey 0 0 + k) = 0)
        ∧ recState (s'.slotRecord d.site d.slot) = 2
        ∧ ∀ site slot, site ∈ d.lrns.map (·.2) → recState (s.slotRecord site slot) = 1 →
          recPnum (s.slotRecord site slot) = recPnum r → recState (s'.slotRecord site slot) = 2)
    ∧ (let halted := { s with party := { s.party with preempting := true } }
      (s.party.bound = true → exec .preemptRequest s = .next halted)
      ∧ (s.party.bound = true → s.party.boundAt + s.sched.quantum.toNat * 1100 ≤ s.wall →
        (∃ o ∈ s.sched.outings, (o.state = .ready ∨ o.state = .running) ∧ o.begun < pkCount o.packet
          ∧ o.cls ≤ s.partyCls) → exec .quantumExpiry s = .next halted)
      ∧ (s.wall < s.party.boundAt + s.sched.quantum.toNat * 1100 → exec .quantumExpiry s = .next s))
    ∧ (s.halted = false → exec .partySaveComplete s = .next s)
    ∧ (s.halted = true → ∃ s' sv, exec .partySaveComplete s = .next s' ∧ s'.party.bound = false
      ∧ s'.sched.saved = s.sched.saved ++ [sv] ∧ sv.party.packet = s.party.packet ∧ sv.party.record = s.party.record
      ∧ sv.matrix = s.matrix ∧ sv.counters = s.counters ∧ (∀ c, (s.ctx c).settling = [] → (sv.ctxs.get c).file = (s.ctx c).file)
      ∧ (∀ c, (sv.ctxs.get c).bypass = []) ∧ sv.savedAt = s.wall
      ∧ (∀ c, s'.ctx c = Ctx.blank))
    ∧ (∀ (vf : BitVec 6) (id : BitVec 32), ∃ s', exec (.queueAging vf id) s = .next s' ∧ s'.mem = s.mem
      ∧ ∀ (i : Nat) (o : Outing), s.sched.outings[i]? = some o → s'.sched.outings[i]? = some (
          if o.vf = vf ∧ o.id = id ∧ o.state = .ready ∧ 0 < o.cls ∧ o.agedAt + 8800000 ≤ s.wall then
            { o with cls := o.cls - 1, agedAt := s.wall } else o))
    ∧ (∀ v : Word, let n := (v.extractLsb' 0 20).toNat
      let q : BitVec 20 := if n < 100 then 100 else if 100000 < n then 100000 else BitVec.ofNat 20 n
      exec (.schedQuantumWrite v) s = .next { s with sched := { s.sched with quantum := q } })
    ∧ (∀ (k : Fin 24) (v : Word), ∃ s', exec (.fcastWrite k v) s = .next s' ∧ s'.mem = s.mem
      ∧ s'.sched.fcast.get k = v &&& 0x0000FFFF00FFFFFF ∧ ∀ j, j ≠ k → s'.sched.fcast.get j = s.sched.fcast.get j)

/-! ## System registers, counters and translations (R103, R121 to R135, R449 to R454) -/

/-- CSRR answers a system register, and CSRW, CSRS and CSRC answer its old value and write its fields by their
access; an unassigned or a read-only number is illegal. EVRD and EVCLR read and clear the event counters, TLBINV
drops the address space's translations and completes once accesses that used them are over, and IDLE waits for a
count or a wake event (R449, R451 to R454).
Where the rules leave a point open, the choice is the model's, log entries 60, 62 and 105. -/
def Obligations.ControlRegisters : Prop :=
  ∀ (s : State) (w : Fields) (e : Entry) (t : State),
    let c := t.cur
    let x := t.ctx c
    let a := e.opA t c
    let b := e.opB t c
    let n := a.toNat
    let counter := fun (k : Nat) => t.counters.toList.getD k 0
    let writes := fun (i : Instr) (new : Word → Word) (ones : Bool) =>
      (n = 0x010 → ∃ s1, exec i s = toFd s1 e x.trapVec ∧ s1.mem = t.mem ∧ (∀ d, d ≠ c → s1.ctx d = t.ctx d)
        ∧ s1.ctx c = { x with trapVec := (x.trapVec &&& 0x7E00000000000002) ||| (new x.trapVec &&& 0x81FFFFFFFFFFFFFD) })
      ∧ (n = 0x012 → ∃ s1, exec i s = toFd s1 e x.trapPc ∧ s1.mem = t.mem ∧ (∀ d, d ≠ c → s1.ctx d = t.ctx d)
        ∧ s1.ctx c = { x with trapPc := (x.trapPc &&& 0xFE00000000000003) ||| (new x.trapPc &&& 0x01FFFFFFFFFFFFFC) })
      ∧ (n = 0x004 → ∃ s1, exec i s = toFd s1 e x.ovfl ∧ s1.mem = t.mem ∧ (∀ d, d ≠ c → s1.ctx d = t.ctx d)
        ∧ s1.ctx c = (if x.carve.oused ≠ 0 then x else
          { x with ovfl := (x.ovfl &&& 0x000C000000000000) ||| (new x.ovfl &&& 0xFFF3FFFFFFFFFFFF) }))
      ∧ (n = 0x000 → x.inh = false → ∃ s1 old, exec i s = toFd s1 e old
        ∧ old.getLsbD 0 = x.deferMode ∧ old.getLsbD 8 = x.tmode
        ∧ s1.ctx c = { x with deferMode := (new old).getLsbD 0 })
      ∧ (n = 0x120 → ∃ s1, exec i s = toFd s1 e (t.party.timeout.setWidth 64) ∧ s1.ctxs = t.ctxs
        ∧ s1.party = { t.party with timeout :=
            (let v := (new (t.party.timeout.setWidth 64)).extractLsb' 0 32; if v.toNat < 10 then 10 else v) })
      ∧ (n = 0x102 → ∃ s1, exec i s = toFd s1 e t.party.moved ∧ s1.ctxs = t.ctxs
        ∧ s1.party = { t.party with moved := if ones then t.party.moved &&& ~~~(b &&& 1) else t.party.moved })
      ∧ (n = 0x020 → ∃ s1, exec i s = toFd s1 e x.planeCfg
        ∧ s1.ctx c = { x with planeCfg := (let v := (x.planeCfg &&& ~~~7) ||| (new x.planeCfg &&& 7)
                                           if ones then v &&& ~~~(b &&& 0x100) else v) })
      ∧ (n ∈ [0x003, 0x005, 0x006, 0x011, 0x013, 0x014, 0x015, 0x016, 0x100, 0x101, 0x103, 0x110, 0x111, 0x112,
          0x113, 0x114, 0x130, 0x131, 0x140, 0x147, 0x200, 0x23F] ∨ 0xFFF < n →
        exec i s = trapped s e Cause.illegal (illegalInfo 0x0F e.parcel))
    (Runs s .csrr w e t →
        (∀ v, n ≤ 0xFFF → t.csr c n = some v → exec (.csrr w) s = toFd t e v)
        ∧ (n = 0x001 → exec (.csrr w) s = toFd t e x.fpctl)
        ∧ (n = 0x006 → exec (.csrr w) s = toFd t e (BitVec.ofNat 64 c.1))
        ∧ (n = 0x011 → exec (.csrr w) s = toFd t e x.trapCause) ∧ (n = 0x013 → exec (.csrr w) s = toFd t e x.trapInfo)
        ∧ (n = 0x100 → exec (.csrr w) s = toFd t e (t.lrn.setWidth 64))
        ∧ (n = 0x103 → exec (.csrr w) s = toFd t e (BitVec.ofNat 64 t.now))
        ∧ (∀ k, k < 8 → n = 0x140 + k → exec (.csrr w) s = toFd t e ((counter k).setWidth 64))
        ∧ (∀ k, k < 64 → n = 0x200 + k → exec (.csrr w) s =
          toFd t e (t.fmtWord t.asid (BitVec.ofNat 6 k) &&& ~~~0x4000000000000000))
        ∧ ((0x006 < n ∧ n < 0x010) ∨ (0x016 < n ∧ n < 0x020) ∨ (0x020 < n ∧ n < 0x100) ∨ (0x133 < n ∧ n < 0x140)
            ∨ (0x147 < n ∧ n < 0x200) ∨ 0x23F < n →
          exec (.csrr w) s = trapped s e Cause.illegal (illegalInfo 0x0F e.parcel)))
    ∧ (Runs s .csrw w e t → writes (.csrw w) (fun _ => b) true)
    ∧ (Runs s .csrs w e t → writes (.csrs w) (fun old => old ||| b) true)
    ∧ (Runs s .csrc w e t → writes (.csrc w) (fun old => old &&& ~~~b) false)
    ∧ (Runs s .evrd w e t → (7 < n → exec (.evrd w) s = trapped s e Cause.nearBounds a)
        ∧ (n ≤ 7 → ∃ s1, exec (.evrd w) s = toFd s1 e ((counter n).setWidth 64) ∧ s1.ctxs = t.ctxs
          ∧ ∀ k, k < 8 → s1.counters.toList.getD k 0 = if k = n ∧ w.os.getLsbD 0 = true then 0 else counter k))
    ∧ (Runs s .evclr w e t → (a.extractLsb' 8 56 ≠ 0 → exec (.evclr w) s = trapped s e Cause.nearBounds a)
        ∧ (a.extractLsb' 8 56 = 0 → ∃ s1, exec (.evclr w) s = result s1 e [] ∧ s1.ctxs = t.ctxs
          ∧ ∀ k, k < 8 → s1.counters.toList.getD k 0 = if a.getLsbD k then 0 else counter k))
    ∧ (Runs s .tlbinv w e t → x.tlbWait = none →
        (w.os.getLsbD 0 = false → n % 4096 ≠ 0 → exec (.tlbinv w) s = trapped s e Cause.misaligned a)
        ∧ (w.os.getLsbD 0 = false → n % 4096 = 0 → n < 2 ^ 57 → (b = 0 ∨ 1048575 < b.toNat) →
          exec (.tlbinv w) s = trapped s e Cause.nearBounds b)
        ∧ ((w.os.getLsbD 0 = true ∨ (n % 4096 = 0 ∧ n < 2 ^ 57 ∧ 0 < b.toNat ∧ b.toNat ≤ 1048575)) → t.invBusy c = false →
          let gone := fun (k : TlbEntry) => k.asid = t.asid
            ∧ (w.os.getLsbD 0 = false → k.va < n + 4096 * b.toNat ∧ n < k.va + k.size)
          ∃ s', exec (.tlbinv w) s = .next s' ∧ s'.mem = t.mem ∧ (s'.ctx c).pc = x.pc
            ∧ (s'.ctx c).tlbWait.isSome = true ∧ (∀ k, k ∈ s'.l1 ↔ k ∈ t.l1 ∧ ¬ gone k) ∧ (∀ k, k ∈ s'.l2 ↔ k ∈ t.l2 ∧ ¬ gone k)))
    ∧ (Runs s .tlbinv w e t → ∀ ids, x.tlbWait = some ids →
        let gone := fun (k : TlbEntry) => k.asid = t.asid
          ∧ (w.os.getLsbD 0 = false → k.va < n + 4096 * b.toNat ∧ n < k.va + k.size)
        (t.usersGone ids = false → exec (.tlbinv w) s = waits s t)
        ∧ (t.usersGone ids = true → (∀ f ∈ t.flights, f.near = true ∨ f.xl ≠ .ready) →
          (∀ k ∈ t.rows.queue ++ t.rows.running, ∀ b ks, k.kind ≠ .con b (.keys ks false) ∧ k.kind ≠ .wb b (.keys ks false)) →
          ∃ s1, exec (.tlbinv w) s = result s1 e [] ∧ s1.mem = t.mem
          ∧ s1.ctx c = { x with tlbWait := none } ∧ (∀ k, k ∈ s1.l1 ↔ k ∈ t.l1 ∧ ¬ gone k)
          ∧ (∀ k, k ∈ s1.l2 ↔ k ∈ t.l2 ∧ ¬ gone k)))
    ∧ (Runs s .idle w e t →
        (x.idle = none → n % 2 ^ 32 = 0 → exec (.idle w) s = toFd t e 0)
        ∧ (x.idle = none → n % 2 ^ 32 ≠ 0 → exec (.idle w) s =
          waits s (t.modCtx c (fun x => { x with idle := some ⟨t.now + n % 2 ^ 32, false⟩ })))
        ∧ (∀ i, x.idle = some i → i.until' = 0 →
          exec (.idle w) s = toFd (t.modCtx c (fun x => { x with idle := none })) e 0)
        ∧ (∀ i, x.idle = some i → i.until' ≠ 0 → i.woken = true →
          exec (.idle w) s = toFd (t.modCtx c (fun x => { x with idle := none })) e 1)
        ∧ (∀ i, x.idle = some i → i.until' ≠ 0 → i.woken = false → exec (.idle w) s = waits s t))

/-- A write of a register that arrives as an event changes what its fields' access allows and nothing else: the
floating-point control with its generators, the mode, the overflow area, the hamper's peak, the plane configuration,
the timeout, the row logs, CORE.MOVED, the fault queues, the thermal trips, the watchdogs and the address spaces
(R103, R111, R127, R169, R245, R288, R293, R304, R408, R428, R441, R462).
Where the rules leave a point open, the choice is the model's, log entries 62, 106 and 112. -/
def Obligations.RegisterWrites : Prop :=
  ∀ (s : State), s.house.powered = true →
    let val := fun (k : CsrKind) (old b : Word) => match k with | .w => b | .s => old ||| b | .c => old &&& ~~~b
    (∀ (c : Fin 11) (k : CsrKind) (b : Word), (s.ctx c).live = true → (s.ctx c).inh = false →
      let x := s.ctx c
      let only := fun (i : Instr) (y : Ctx → Prop) => ∃ s', exec i s = .next s' ∧ s'.mem = s.mem
        ∧ (∀ d, d ≠ c → s'.ctx d = s.ctx d) ∧ y (s'.ctx c)
      only (.fpctlWrite c k b) (fun y =>
          let v := val k x.fpctl b
          let seeds := k = .w ∨ b.extractLsb' 32 32 ≠ 0
          let rm : BitVec 3 := if 6 ≤ (v.extractLsb' 0 3).toNat then 0 else v.extractLsb' 0 3
          y.fpctl = (if seeds then v.extractLsb' 32 32 else x.fpctl.extractLsb' 32 32) ++ 0#28 ++ v.extractLsb' 3 1 ++ rm
          ∧ (∀ g, g < 33 → y.gens.toList.getD g 0 =
              if seeds then
                let m := v.extractLsb' 32 32 ^^^ BitVec.ofNat 32 ((g + 1) * 0x9E3779B9)
                if m = 0 then 1 else m
              else x.gens.toList.getD g 0))
      ∧ (s.drained c = true → only (.ctxModeWrite c k b) (fun y => y = { x with deferMode :=
          (match k with | .w => b.getLsbD 0 | .s => x.deferMode || b.getLsbD 0 | .c => x.deferMode && !b.getLsbD 0) }))
      ∧ only (.ovflWrite c k b) (fun y => y = if x.carve.oused ≠ 0 then x else
          { x with ovfl := (x.ovfl &&& 0x000C000000000000) ||| (val k x.ovfl b &&& 0xFFF3FFFFFFFFFFFF) })
      ∧ only (.hamperPeakWrite c k b) (fun y => y = { x with peak := x.hamper.length })
      ∧ only (.planeCfgWrite c k b) (fun y => y.planeCfg.extractLsb' 0 3 = (val k x.planeCfg b).extractLsb' 0 3
          ∧ y.planeCfg.getLsbD 8 = (x.planeCfg.getLsbD 8 && (k == .c || !b.getLsbD 8)))
      ∧ only (.registerWrite (.ctxReg c 0x010 k) (b.setWidth 256)) (fun y => y = { x with trapVec :=
          (x.trapVec &&& 0x7E00000000000002) ||| (val k x.trapVec b &&& 0x81FFFFFFFFFFFFFD) }))
    ∧ (∀ (k : CsrKind) (b : Word), let v := (val k (s.party.timeout.setWidth 64) b).extractLsb' 0 32
      exec (.collTimeoutWrite k b) s = .next { s with party := { s.party with timeout := if v.toNat < 10 then 10 else v } })
    ∧ (∀ (k : CsrKind) (b : Word), exec (.coreMovedClear k b) s = .next { s with party := { s.party with moved :=
        (match k with | .c => s.party.moved | _ => s.party.moved &&& ~~~(b &&& 1)) } })
    ∧ (∀ (k : CsrKind) (b : Word),
      exec (.rowLogClear false k b) s = .next (if k ≠ .c ∧ b.getLsbD 5 = true then
        { s with rows := { s.rows with cellLog := [], cellTotal := 0 } } else s)
      ∧ exec (.rowLogClear true k b) s = .next (if k ≠ .c ∧ b.getLsbD 5 = true then
        { s with rows := { s.rows with xferLog := [], xferTotal := 0 } } else s))
    ∧ (∀ (vf : BitVec 6) (v : Word), let q := s.queueOf vf
      ∃ s', exec (.fqCtlWrite vf v) s = .next s' ∧ s'.mem = s.mem ∧ (∀ u, u ≠ vf → s'.queueOf u = s.queueOf u)
        ∧ s'.queueOf vf = { q with
            head := v.extractLsb' 48 16
            logsize := if (v.extractLsb' 24 4).toNat ≤ 12 then v.extractLsb' 24 4 else q.logsize
            ovf := q.ovf && !v.getLsbD 2
            en := v.getLsbD 0 })
    ∧ (∀ (n : Fin 96) (v : Word), let shut := min (v.extractLsb' 48 8).toNat 125
      let order := (v.extractLsb' 32 8).toNat ≤ (v.extractLsb' 40 8).toNat ∧ (v.extractLsb' 40 8).toNat ≤ shut
      ∃ s', exec (.thermWrite n v) s = .next s' ∧ (¬ order → s' = s) ∧ (∀ m, m ≠ n → s'.house.therm[m] = s.house.therm[m])
        ∧ (order → s'.house.therm[n].extractLsb' 32 16 = v.extractLsb' 32 16
          ∧ (s'.house.therm[n].extractLsb' 48 8).toNat = shut
          ∧ s'.house.therm[n].extractLsb' 0 32 = s.house.therm[n].extractLsb' 0 32))
    ∧ (∀ (q : Fin 4) (b : BitVec 256), ∃ s', exec (.registerWrite (.seqWdog q) b) s = .next s' ∧ s'.mem = s.mem
      ∧ (∀ r, r ≠ q → s'.seq r = s.seq r)
      ∧ ((s'.seq q).wdog.extractLsb' 0 20).toNat = max (b.extractLsb' 0 20).toNat 100
      ∧ (s'.seq q).wdog.getLsbD 48 = b.getLsbD 48
      ∧ (s'.seq q).wdog.extractLsb' 32 16 = (s.seq q).wdog.extractLsb' 32 16)
    ∧ (∀ (asid : BitVec 8) (b : BitVec 256), s.party.bound = false → ∃ s',
      exec (.registerWrite (.xltAs asid) b) s = .next s' ∧ s'.mem = s.mem
        ∧ (∀ a, a ≠ asid → s'.asRec a = s.asRec a)
        ∧ (∀ i, i < 256 → (s'.asRec asid).getLsbD i =
            if (1 ≤ i ∧ i < 8) ∨ i = 14 ∨ (16 ≤ i ∧ i < 80) ∨ 248 ≤ i then false else b.getLsbD i))

/-- A waiting record is written at TAIL once its queue has room; a replay closes its record and walks what it
parked again, which goes on or parks anew, and a decline makes that fail; an invalidation keeps its written fields, drops the translations it names, is busy
until their users are over and then done, having dropped them again, and its moves are counted, the fourth within 10
ms anchoring its page; a link's generation advances; a hung sequencer is reset (R121, R122, R127 to R130, R133, R135,
R441 to R444).
Where the rules leave a point open, the choice is the model's, log entries 104, 105, 113, 122 and 137. -/
def Obligations.TranslationEvents : Prop :=
  ∀ (s : State), s.house.powered = true →
    (∀ (vf : BitVec 6) bits, s.pendingRecs.find? (fun r => r.vf == vf) = some (.other vf bits) →
      let q := s.queueOf vf
      let size := 2 ^ (q.logsize.toNat + 4)
      let full := (q.tail.toNat + 1) % size = q.head.toNat % size
      (q.en = false ∨ full → exec (.faultRecordWrite vf) s = .next s)
      ∧ (q.en = true → ¬ full → q.logsize.toNat ≤ 12 → s.mem.wf = true →
        let keys := (List.range 64).map (fun i => s.dpaKey (bits.extractLsb' 8 8) q.base.toNat + 64 * q.tail.toNat + i)
        plainKeys keys → ∃ s' rec', exec (.faultRecordWrite vf) s = .next s'
          ∧ Stored s.mem s'.mem keys (fun i => rec'.extractLsb' (8 * i) 8)
          ∧ rec'.extractLsb' 48 16 = q.seq ∧ rec'.extractLsb' 256 64 = BitVec.ofNat 64 s.now
          ∧ (∀ i, i < 512 → (i < 48 ∨ (64 ≤ i ∧ i < 256) ∨ 320 ≤ i) → (rec' : BitVec 512).getLsbD i = bits.getLsbD i)
          ∧ s'.pendingRecs = s.pendingRecs.erase (.other vf bits)
          ∧ (s'.queueOf vf).tail.toNat = (q.tail.toNat + 1) % size ∧ (s'.queueOf vf).seq = q.seq + 1))
    ∧ (∀ (vf : BitVec 6) (tok : BitVec 32),
      (s.outstanding vf tok = none → exec (.fqRespReplay vf tok) s = .next s ∧ exec (.fqRespDecline vf tok) s = .next s)
      ∧ (∀ k h c p, s.outstanding vf tok = some k → k.holders = [h] → h.who = .park c → (s.ctx c).park = some p →
        p.token = tok →
        let walk := (s.closeToken tok).translatePage k.asid h.va.toNat 1 (if k.out then .outWrite else h.kind)
          (h.fetch || (s.ctx c).inh) h.pc
        ∃ s1 s2, exec (.fqRespReplay vf tok) s = .next s1 ∧ exec (.fqRespDecline vf tok) s = .next s2
          ∧ ((∀ va why u, walk ≠ (.absent va why, u)) → (s1.ctx c).park = none
            ∧ (∀ j ∈ s1.tokens, j ∈ s.tokens ∧ j.token ≠ tok))
          ∧ (∀ va why u, walk = (.absent va why, u) → ∃ new, (s1.ctx c).park = some { p with token := new })
          ∧ (s2.ctx c).park = some { p with failed := some (1, 0) }
          ∧ (∀ j ∈ s2.tokens, j ∈ s.tokens ∧ j.token ≠ tok)
          ∧ (∀ d, d ≠ c → s1.ctx d = s.ctx d))
      ∧ (∀ k at', s.outstanding vf tok = some k → k.writtenAt = some at' →
        (s.partyWaits tok = true → s.party.bound = true → at' + 1100000 ≤ s.wall →
          exec (.notPresentTimeout vf tok) s = .next { s with party := { s.party with preempting := true } })
        ∧ (s.partyWaits tok = false ∨ s.wall < at' + 1100000 → exec (.notPresentTimeout vf tok) s = .next s)))
    ∧ (let covers := fun (w : BitVec 128) (k : TlbEntry) =>
        let asid : BitVec 8 := w.extractLsb' 24 8
        let page := (w.extractLsb' 64 57).toNat / 4096 * 4096
        if w.extractLsb' 16 2 = 0 then
          k.asid = asid ∧ k.va < page + 4096 * (w.extractLsb' 32 20).toNat ∧ page < k.va + k.size
        else if w.extractLsb' 16 2 = 2 then s.asVf k.asid = s.asVf asid else k.asid = asid
      (∀ (w : BitVec 128) (i : Instr),
        let written (move : BitVec 8 → BitVec 57 → InvPages → Instr) : Instr :=
          move (w.extractLsb' 24 8) (w.extractLsb' 64 57) ⟨w.extractLsb' 32 20, w.extractLsb' 16 2⟩
        (i = written .xltInvRange ∧ w.getLsbD 18 = false) ∨ (i = written .xltInvMove ∧ w.getLsbD 18 = true)
            ∨ i ∈ [Instr.xltInvAsid w, .xltInvVf w] →
        let empty := w.extractLsb' 16 2 = 3 ∨ (w.extractLsb' 16 2 = 0 ∧ w.extractLsb' 32 20 = 0)
        let page := (w.extractLsb' 64 57).toNat / 4096
        (s.xltInv.extractLsb' 62 2 = 1 → exec i s = .next s)
        ∧ (s.xltInv.extractLsb' 62 2 ≠ 1 → ∃ s', exec i s = .next s' ∧ s'.mem = s.mem
          ∧ s'.flights = s.flights ∧ s'.ctxs = s.ctxs
          ∧ (∀ n, (16 ≤ n ∧ n < 19) ∨ (24 ≤ n ∧ n < 52) ∨ (64 ≤ n ∧ n < 121) → s'.xltInv.getLsbD n = w.getLsbD n)
          ∧ (empty → s'.xltInv.extractLsb' 62 2 = 2 ∧ s'.xltInv.extractLsb' 60 2 = 0 ∧ s'.l1 = s.l1 ∧ s'.l2 = s.l2
            ∧ s'.tracker = s.tracker)
          ∧ (¬ empty → s'.xltInv.extractLsb' 62 2 = 1
            ∧ (∀ k, k ∈ s'.l1 ↔ k ∈ s.l1 ∧ ¬ covers w k) ∧ (∀ k, k ∈ s'.l2 ↔ k ∈ s.l2 ∧ ¬ covers w k)
            ∧ (w.getLsbD 18 = false → s'.xltInv.extractLsb' 60 2 = 0 ∧ s'.tracker = s.tracker)
            ∧ (w.getLsbD 18 = true → w.extractLsb' 16 2 = 0 → w.extractLsb' 32 20 = 1 →
              s.firstPage (w.extractLsb' 24 8) page = page →
              ∀ k, s.tracker.find? (fun r => r.asid == w.extractLsb' 24 8 && r.page == BitVec.ofNat 45 page) = some k →
                s'.xltInv.extractLsb' 60 2 = (if k.anchored.isSome ∨
                  3 ≤ (k.times.filter (fun x => decide (s.wall ≤ x + 11000000))).length then 1 else 0)))))
      ∧ ((∃ f ∈ s.flights, f.id ∈ s.invWait ∧ f.lost = false) → exec .xltInvComplete s = .next s)
      ∧ (s.xltInv.extractLsb' 62 2 = 1 → (∀ f ∈ s.flights, f.id ∈ s.invWait → f.lost = true) →
        (∀ f ∈ s.flights, f.near = true ∨ f.xl ≠ .ready) →
        (∀ k ∈ s.rows.queue ++ s.rows.running, ∀ b ks, k.kind ≠ .con b (.keys ks false) ∧ k.kind ≠ .wb b (.keys ks false)) →
        ∃ s', exec .xltInvComplete s = .next s' ∧ s'.xltInv.extractLsb' 62 2 = 2
          ∧ (∀ i, i < 128 → i ≠ 62 → i ≠ 63 → s'.xltInv.getLsbD i = s.xltInv.getLsbD i) ∧ s'.mem = s.mem
          ∧ (∀ k, k ∈ s'.l1 ↔ k ∈ s.l1 ∧ ¬ covers s.xltInv k) ∧ (∀ k, k ∈ s'.l2 ↔ k ∈ s.l2 ∧ ¬ covers s.xltInv k)))
    ∧ (∀ asid page, ∃ s', exec (.anchorExpiry asid page) s = .next s' ∧ s'.mem = s.mem ∧ ∀ k, k ∈ s'.tracker ↔
      k ∈ s.tracker ∧ ¬ (k.asid = asid ∧ k.page = page ∧ ∃ e, k.anchored = some e ∧ e ≤ s.wall))
    ∧ (∀ peer, s.flights = [] → s.msgs = [] → s.graph.inProgress = [] → (s.scope true).queue = [] →
      ∃ s', exec (.linkGenAdvance peer) s = .next s' ∧ s'.genOf peer = s.genOf peer + 1
        ∧ (∀ other, other ≠ peer → s'.genOf other = s.genOf other) ∧ s'.mem = s.mem ∧ s'.ctxs = s.ctxs)
    ∧ (∀ q : Fin 4,
      let limit := (s.seq q).lastDone + 1100 * ((s.seq q).wdog.extractLsb' 0 20).toNat
      ((s.seq q).resetting = true ∨ (s.seq q).wdog.getLsbD 48 = false ∨ s.wall < limit ∨ s.portQueued q = false →
        exec (.seqWdogReset q) s = .next s)
      ∧ ((s.seq q).resetting = false → (s.seq q).wdog.getLsbD 48 = true → limit ≤ s.wall → s.flights = [] → s.msgs = [] →
        s.graph.inProgress = [] → s.graph.streams = [] → (∀ b, (s.scope b).queue = []) →
        ∀ g, s.gate = [g] → g.admitted = true → g.token = none → g.what = .read → portKey q.1 (g.keys.headD 0) = true →
        g.keys ≠ [] →
        ∃ s', exec (.seqWdogReset q) s = .next s' ∧ (s'.seq q).resetting = true ∧ s'.mem = s.mem ∧ s'.ctxs = s.ctxs
          ∧ s'.gate = [] ∧ s'.replies = s.replies ++ [⟨g.req.requester, .seqReset, []⟩]
          ∧ (s'.seq q).wdog.extractLsb' 32 16 = (s.seq q).wdog.extractLsb' 32 16 + 1
          ∧ (∀ r, r ≠ q → s'.seq r = s.seq r))
      ∧ ∃ s', exec (.seqResetEnd q) s = .next s' ∧ (s'.seq q).resetting = false ∧ s'.mem = s.mem)
    ∧ (∀ n g, s.gate[n]? = some g → g.admitted = false → s.waitsReset g = true → g.arrived + 2200000 ≤ s.wall →
      ∃ s', exec (.seqResetHoldTimeout n) s = .next s' ∧ s'.gate = s.gate.eraseIdx n ∧ s'.mem = s.mem
        ∧ s'.replies = s.replies ++ [⟨g.req.requester, .seqReset, []⟩])

/-! ## Power and starts (R455 to R463) -/

/-- Without power no instruction runs: everything but a cold start ends in the fault of an unpowered machine. A cold start
leaves every context blank, no party and no debt, and BOOT.STAT at step 8, or failed at its step; one that comes through,
and one that brings the power, leaves the module's memory zero, row area and all. A warm one keeps memory where the saved
values exist. A module that a failed start has left in reset runs only a start; a cycle lasts twice as long in wall-clock
time while the core's island is stretched; a sample that is due acts on its trips, and one at SHUT takes the power; a
request for attestation is answered with the report of R461.
Where the rules leave a point open, the choice is the model's, log entries 11, 108, 109, 110, 111, 115 and 117. -/
def Obligations.PowerAndStarts : Prop :=
  (∀ (s : State) (i : Instr), s.house.powered = false → isColdStart i = false → exec i s = .fault .powerOff)
  ∧ (∀ (s : State) (b : BootRun), ∃ s', exec (.coldStart b) s = .next s'
    ∧ s'.house.powered = true ∧ s'.party.bound = false ∧ (∀ c, s'.ctx c = Ctx.blank)
    ∧ s'.counters = Vector.replicate 8 0 ∧ s'.flights = [] ∧ s'.msgs = [] ∧ (∀ l, l < 4 → (s'.rows.layer l).debt = 0)
    ∧ s'.house.bootStat.getLsbD 0 = false
    ∧ s'.house.bootStat.extractLsb' 32 32 =
        (if s.house.powered then s.house.bootStat.extractLsb' 32 32 + 1 else 1)
    ∧ (let failed := bootFailure b false
      s'.house.bootStat.extractLsb' 4 4 = BitVec.ofNat 4 (failed.getD 8)
        ∧ s'.house.bootStat.extractLsb' 8 4 = BitVec.ofNat 4 (failed.getD 0)
        ∧ s'.house.bootStat.getLsbD 2 = failed.isSome ∧ s'.house.failEnd = failed.map (fun _ => s.wall))
    ∧ (bootFailure b false = none ∨ s.house.powered = false → s'.matrix = Matrix.blank
      ∧ ∀ k, (2 * 2 ^ 52 ≤ k ∧ k < 3 * 2 ^ 52) ∨ (2 ^ 56 ≤ k ∧ k < 2 ^ 58) → s'.mem.get k = 0))
  ∧ (∀ (s : State) (b : BootRun) (v : Word), s.house.powered = true →
    (v.getLsbD 0 = false → exec (.bootCtlWarm v b) s = .next s)
    ∧ (v.getLsbD 0 = true → s.house.failEnd = none → ∃ s', exec (.bootCtlWarm v b) s = .next s'
      ∧ (∀ c, s'.ctx c = Ctx.blank) ∧ s'.party.bound = false
      ∧ s'.house.bootStat.getLsbD 0 = (s.house.trained && s.house.mapped.isSome)
      ∧ (s.house.trained = true → s.house.mapped ≠ none → s'.mem = s.mem ∧ s'.matrix.acc = s.matrix.acc
        ∧ s'.matrix.planeMem = s.matrix.planeMem)))
  ∧ (∀ s : State, s.house.powered = true → s.house.bootStat.getLsbD 2 = true →
    (∀ i rest, s.agenda = .event i :: rest → isStart i = false) →
    step s = .next ({ s with agenda := s.agenda.tail, turn := false }.elapse 1).settle)
  ∧ (∀ (s : State) (n : Nat), (s.elapse n).now = s.now + n
    ∧ (s.elapse n).wall = s.wall + (if s.coreStretched then 2 * n else n))
  ∧ (∀ (s : State) (n : Fin 96) (temp : BitVec 8), s.house.powered = true →
    let w := s.house.therm[n]
    (s.sampleDue n = false → exec (.thermSample n temp) s = .next s)
    ∧ (s.sampleDue n = true → ∃ s', exec (.thermSample n temp) s = .next s' ∧ s'.mem = s.mem ∧ s'.ctxs = s.ctxs
      ∧ s'.house.therm[n].extractLsb' 0 8 = temp ∧ s'.house.therm[n].extractLsb' 24 40 = w.extractLsb' 24 40
      ∧ (s'.house.powered = true ↔ temp.toNat < (w.extractLsb' 48 8).toNat)
      ∧ ((w.extractLsb' 32 8).toNat ≤ temp.toNat → n.1 ∉ s.house.above →
        (s'.house.therm[n].extractLsb' 8 16).toNat = min ((w.extractLsb' 8 16).toNat + 1) 0xFFFF)
      ∧ (temp.toNat < (w.extractLsb' 32 8).toNat → s'.house.therm[n].extractLsb' 8 16 = w.extractLsb' 8 16)))
  ∧ (∀ (s : State) (nonce : BitVec 256) (addr : Word), s.house.powered = true → addr.extractLsb' 52 12 = 1 →
    addr.extractLsb' 0 6 = 0 →
    exec (.secAttestRequest nonce addr) s = .next { s with house := { s.house with attest := some (nonce, addr, s.wall + 2200000) } })
  ∧ (∀ (s : State) (nonce : BitVec 256) (addr : Word) (by' : Nat), s.house.powered = true →
    s.house.attest = some (nonce, addr, by') →
    s.mem.wf = true → let keys := (List.range 256).map (fun i => addr.toNat + i)
    plainKeys keys → ∃ s' report, exec .attestReportWrite s = .next s' ∧ s'.house.attest = none
      ∧ Stored s.mem s'.mem keys (fun i => (report : BitVec 2048).extractLsb' (8 * i) 8)
      ∧ report.extractLsb' 0 256 = nonce ∧ report.extractLsb' 1280 32 = s.house.bootStat.extractLsb' 32 32
      ∧ report.extractLsb' 256 512 = s.house.firmware
      ∧ report.extractLsb' 768 512 = Config.mapDigest s.house.fused (s.house.mapped.getD []) ∧ report.extractLsb' 1312 224 = 0
      ∧ report.extractLsb' 1536 512 = Config.sign (report.extractLsb' 0 1536).toNat)

/-! ## Reset and the invariant -/

/-- What the registers of the configuration and of a rank read at reset, where the specification gives it: SEQ.WDOG,
SCHED.QUANTUM, THERM, CTX.FPCTL, CTX.MODE, BOOT.STAT, FQ.CTL and XLT.INV (R103, R121, R127, R293, R423, R441, R456,
R462); and the invariant holds. -/
def Obligations.ResetValues : Prop :=
  let s := State.reset
  (∀ q, (s.seq q).wdog.getLsbD 48 = true ∧ (s.seq q).wdog.extractLsb' 32 16 = 0 ∧ (s.seq q).wdog.extractLsb' 0 20 = 1000)
  ∧ s.sched.quantum = 2000
  ∧ (∀ n : Fin 96, s.house.therm[n].extractLsb' 48 8 = 115 ∧ s.house.therm[n].extractLsb' 40 8 = 105
      ∧ s.house.therm[n].extractLsb' 32 8 = 95 ∧ s.house.therm[n].extractLsb' 8 16 = 0)
  ∧ (∀ c, (s.ctx c).fpctl = 0 ∧ (s.ctx c).deferMode = false ∧ (s.ctx c).tmode = false ∧ (s.ctx c).trapVec = 0
      ∧ (s.ctx c).planeCfg = 0 ∧ (s.ctx c).ovfl = 0 ∧ (s.ctx c).file (.p 0) = 1)
  ∧ (∀ k, k < 8 → s.counters.toList.getD k 0 = 0) ∧ s.house.bootStat = 0
  ∧ (∀ vf, (s.queueOf vf).en = false ∧ (s.queueOf vf).ovf = false ∧ (s.queueOf vf).head = 0 ∧ (s.queueOf vf).tail = 0)
  ∧ s.xltInv = 0 ∧ Inv s

/-- Every step keeps memory, the accumulator blocks, the plane images and those of the saved parties in canonical
form.
Where the rules leave a point open, the choice is the model's, log entry 27. -/
def Obligations.StepKeepsInvariant : Prop := ∀ s s' : State, Inv s → step s = .next s' → Inv s'
end

