-- ==== Sys2Proof/Laws/Decode.lean ====
section
/-! SUPPORT. What the encoder lays out the decoder reads back: each field of an internal word and of an
S-form parcel (R25, R45), and each opcode from its code (R44, R49). -/

namespace Sys2Proof.Laws

open Sys2Proof

/-- An opcode is the one its own code selects. -/
theorem opcode_ofCode_code (o : Opcode) : Opcode.ofCode o.code = some o := by cases o <;> decide +kernel

/-- A short opcode is the one its own code selects. -/
theorem shortOp_ofCode_code (o : ShortOp) : ShortOp.ofCode o.code = some o := by cases o <;> decide +kernel

/-- Every element format is read back from its code. -/
theorem ty_ofCode_code (t : Ty) : Ty.ofCode t.code = some t := by cases t <;> rfl

/-- Every rounding mode is read back from its code. -/
theorem rm_ofCode_code (r : Rm) : Rm.ofCode r.code = some r := by cases r <;> rfl

/-- Every operand is read back from its eight bits. -/
theorem opd_ofCode_code (o : Opd) : Opd.ofCode o.code = o := by
  obtain ⟨c, n⟩ := o
  cases c <;> revert n <;> decide +kernel

/-- Fields read back from their own raw form. -/
theorem fields_raw (w : Fields) : w.raw.fields = some w := by
  simp only [Raw.fields, Fields.raw, ty_ofCode_code, rm_ofCode_code, opd_ofCode_code]

/-- An instruction built from an opcode and fields shows them. -/
theorem view_ofOp (o : Opcode) (w : Fields) : (Instr.ofOp o w).view = .op o w := by cases o <;> rfl

/-- An instruction built from a short opcode and fields shows them. -/
theorem view_ofShort (o : ShortOp) (f : SFields) : (Instr.ofShort o f).view = .short o f := by cases o <;> rfl

/-- An instruction is what its opcode and fields build. -/
theorem of_view (i : Instr) : match i.view with
    | .op o w => Instr.ofOp o w = i
    | .short o f => Instr.ofShort o f = i
    | .event => True := by cases i <;> first | rfl | trivial

/-- A field above the low part of a concatenation lies in its high part. -/
theorem extract_high {m n : Nat} (x : BitVec m) (y : BitVec n) (k len : Nat) (h : n ≤ k) :
    (x ++ y).extractLsb' k len = x.extractLsb' (k - n) len := by
  apply BitVec.eq_of_getLsbD_eq
  intro i hi
  simp only [BitVec.getLsbD_extractLsb', BitVec.getLsbD_append, if_neg (show ¬ k + i < n by omega)]
  rw [show k + i - n = k - n + i by omega]

/-- A field within the low part of a concatenation. -/
theorem extract_low {m n : Nat} (x : BitVec m) (y : BitVec n) (k len : Nat) (h : k + len ≤ n) :
    (x ++ y).extractLsb' k len = y.extractLsb' k len := by
  apply BitVec.eq_of_getLsbD_eq
  intro i hi
  simp only [BitVec.getLsbD_extractLsb', BitVec.getLsbD_append, if_pos (show k + i < n by omega)]

/-- A bit above the low part of a concatenation. -/
theorem bit_high {m n : Nat} (x : BitVec m) (y : BitVec n) (k : Nat) (h : n ≤ k) :
    (x ++ y).getLsbD k = x.getLsbD (k - n) := by
  rw [BitVec.getLsbD_append, if_neg (by omega)]

/-- A bit of the low part of a concatenation. -/
theorem bit_low {m n : Nat} (x : BitVec m) (y : BitVec n) (k : Nat) (h : k < n) :
    (x ++ y).getLsbD k = y.getLsbD k := by
  rw [BitVec.getLsbD_append, if_pos h]

/-- The bit of a flag. -/
theorem bit_ofBool (b : Bool) : (BitVec.ofBool b).getLsbD 0 = b := by cases b <;> rfl

/-- The word as a concatenation at its own width. -/
theorem word_cast (op : Opcode) (r : Raw) : r.word op = BitVec.cast (by decide)
    (r.lit ++ (r.ty ++ (r.rm ++ (r.sz ++ (r.os ++ (r.fb ++ (r.fa ++ (r.fd ++
      (BitVec.ofBool r.db ++ (BitVec.ofBool r.yd ++ (r.stall ++ (BitVec.ofBool r.tr ++
        (BitVec.ofBool r.gn ++ (r.gp ++ (op.code ++ r.form.code))))))))))))))) := rfl

/-- The S-form parcel as a concatenation at its own width. -/
theorem parcel_cast (o : ShortOp) (f : SFields) : f.parcel o = BitVec.cast (by decide)
    (BitVec.ofBool f.t ++ (f.p ++ (f.b ++ (f.a ++ (f.d ++ (o.code ++ Form.s.code)))))) := rfl

/-- Reading the fields back from the word the encoder lays them out in (R25). -/
theorem rawOf_word (op : Opcode) (r : Raw) : rawOf r.form (r.word op) = r := by
  obtain ⟨form, gn, gp, db, yd, stall, tr, fd, fa, fb, os, sz, rm, ty, lit⟩ := r
  simp (disch := decide) only [rawOf, word_cast, BitVec.extractLsb'_cast, BitVec.getLsbD_cast,
    extract_high, extract_low, bit_high, bit_low]
  simp only [Nat.reduceAdd, Nat.reduceSub, BitVec.extractLsb'_eq_self, bit_ofBool]

/-- The opcode field of an internal word. -/
theorem opcode_word (op : Opcode) (r : Raw) : (r.word op).extractLsb' 2 10 = op.code := by
  simp (disch := decide) only [word_cast, BitVec.extractLsb'_cast, extract_high, extract_low]
  simp only [Nat.reduceSub, BitVec.extractLsb'_eq_self]

/-- The length code of an internal word. -/
theorem form_word (op : Opcode) (r : Raw) : (r.word op).extractLsb' 0 2 = r.form.code := by
  simp (disch := decide) only [word_cast, BitVec.extractLsb'_cast, extract_low]
  simp only [BitVec.extractLsb'_eq_self]

/-- Reading the fields back from the S-form parcel (R45). -/
theorem shortOf_parcel (o : ShortOp) (f : SFields) : shortOf (f.parcel o) = f := by
  obtain ⟨t, p, b, a, d⟩ := f
  simp (disch := decide) only [shortOf, parcel_cast, BitVec.extractLsb'_cast, BitVec.getLsbD_cast,
    extract_high, extract_low, bit_high]
  simp only [Nat.reduceAdd, Nat.reduceSub, BitVec.extractLsb'_eq_self, bit_ofBool]

/-- The opcode field of an S-form parcel. -/
theorem shortCode_parcel (o : ShortOp) (f : SFields) : (f.parcel o).extractLsb' 2 8 = o.code := by
  simp (disch := decide) only [parcel_cast, BitVec.extractLsb'_cast, extract_high, extract_low]
  simp only [Nat.reduceSub, BitVec.extractLsb'_eq_self]

/-- The length code of an S-form parcel. -/
theorem shortForm_parcel (o : ShortOp) (f : SFields) : (f.parcel o).extractLsb' 0 2 = 1 := by
  simp (disch := decide) only [parcel_cast, BitVec.extractLsb'_cast, extract_low]
  simp only [BitVec.extractLsb'_eq_self]
  rfl

/-- The first parcel of a word shows the word's length code. -/
theorem parcels_word (op : Opcode) (r : Raw) :
    parcels ((r.word op).extractLsb' 0 32) = match r.form with | .s => 1 | .m => 2 | .l => 3 := by
  have h : ((r.word op).extractLsb' 0 32).extractLsb' 0 2 = r.form.code := by
    rw [← form_word op r]
    apply BitVec.eq_of_getLsbD_eq
    intro i hi
    simp only [BitVec.getLsbD_extractLsb', Nat.zero_add, hi, decide_true, Bool.true_and,
      show i < 32 by omega]
  unfold parcels
  rw [h]
  cases r.form <;> rfl

/-- An S-form parcel stands alone. -/
theorem parcels_parcel (o : ShortOp) (f : SFields) : parcels (f.parcel o) = 1 := by
  unfold parcels
  rw [shortForm_parcel]
  rfl

/-- A well-formed instruction takes as many parcels as its first parcel's length code says (R23). -/
theorem encode_length (i : Instr) (h : WellFormed i) (he : i.view ≠ .event) :
    (encode i).length = parcels ((encode i).getD 0 0) := by
  unfold WellFormed Instr.wf at h
  unfold encode
  cases hv : i.view with
  | event => exact absurd hv he
  | short o f => simp only [List.length_cons, List.length_nil, List.getD_cons_zero, parcels_parcel]
  | op o w =>
    rw [hv] at h
    have hf : w.form ≠ .s := by
      intro e
      simp [wfFields, e] at h
    have hp := parcels_word o w.raw
    rw [show w.raw.form = w.form from rfl] at hp
    cases hw : w.form with
    | s => exact absurd hw hf
    | m => rw [hw] at hp; simp [hw, hp]
    | l => rw [hw] at hp; simp [hw, hp]

end Sys2Proof.Laws
end

