-- ==== Sys2Proof/Laws/State.lean ====
section
/-! SUPPORT. What each named update of the state and of a context leaves alone and sets: one lemma per field. -/

namespace Sys2Proof.Laws
open Sys2Proof Sys2Proof.Machine

/-! ## setCtx -/

@[simp] theorem setCtx_now (s : State) (c : Fin 11) (x : Ctx) : (s.setCtx c x).now = s.now := rfl
@[simp] theorem setCtx_slow (s : State) (c : Fin 11) (x : Ctx) : (s.setCtx c x).slow = s.slow := rfl
@[simp] theorem setCtx_cur (s : State) (c : Fin 11) (x : Ctx) : (s.setCtx c x).cur = s.cur := rfl
@[simp] theorem setCtx_pipe (s : State) (c : Fin 11) (x : Ctx) : (s.setCtx c x).pipe = s.pipe := rfl
@[simp] theorem setCtx_lastWide (s : State) (c : Fin 11) (x : Ctx) : (s.setCtx c x).lastWide = s.lastWide := rfl
@[simp] theorem setCtx_lastScalar (s : State) (c : Fin 11) (x : Ctx) : (s.setCtx c x).lastScalar = s.lastScalar := rfl
@[simp] theorem setCtx_half (s : State) (c : Fin 11) (x : Ctx) : (s.setCtx c x).half = s.half := rfl
@[simp] theorem setCtx_divFree (s : State) (c : Fin 11) (x : Ctx) : (s.setCtx c x).divFree = s.divFree := rfl
@[simp] theorem setCtx_turn (s : State) (c : Fin 11) (x : Ctx) : (s.setCtx c x).turn = s.turn := rfl
@[simp] theorem setCtx_agenda (s : State) (c : Fin 11) (x : Ctx) : (s.setCtx c x).agenda = s.agenda := rfl
@[simp] theorem setCtx_tick (s : State) (c : Fin 11) (x : Ctx) : (s.setCtx c x).tick = s.tick := rfl
@[simp] theorem setCtx_caps (s : State) (c : Fin 11) (x : Ctx) : (s.setCtx c x).caps = s.caps := rfl
@[simp] theorem setCtx_mem (s : State) (c : Fin 11) (x : Ctx) : (s.setCtx c x).mem = s.mem := rfl
@[simp] theorem setCtx_poison (s : State) (c : Fin 11) (x : Ctx) : (s.setCtx c x).poison = s.poison := rfl
@[simp] theorem setCtx_unseen (s : State) (c : Fin 11) (x : Ctx) : (s.setCtx c x).unseen = s.unseen := rfl
@[simp] theorem setCtx_ctxs (s : State) (c : Fin 11) (x : Ctx) : (s.setCtx c x).ctxs = s.ctxs.set c.1 x c.2 := rfl
@[simp] theorem setCtx_flights (s : State) (c : Fin 11) (x : Ctx) : (s.setCtx c x).flights = s.flights := rfl
@[simp] theorem setCtx_nextId (s : State) (c : Fin 11) (x : Ctx) : (s.setCtx c x).nextId = s.nextId := rfl
@[simp] theorem setCtx_counters (s : State) (c : Fin 11) (x : Ctx) : (s.setCtx c x).counters = s.counters := rfl
@[simp] theorem setCtx_xltAs (s : State) (c : Fin 11) (x : Ctx) : (s.setCtx c x).xltAs = s.xltAs := rfl
@[simp] theorem setCtx_rankMap (s : State) (c : Fin 11) (x : Ctx) : (s.setCtx c x).rankMap = s.rankMap := rfl
@[simp] theorem setCtx_l1 (s : State) (c : Fin 11) (x : Ctx) : (s.setCtx c x).l1 = s.l1 := rfl
@[simp] theorem setCtx_l2 (s : State) (c : Fin 11) (x : Ctx) : (s.setCtx c x).l2 = s.l2 := rfl
@[simp] theorem setCtx_xltInv (s : State) (c : Fin 11) (x : Ctx) : (s.setCtx c x).xltInv = s.xltInv := rfl
@[simp] theorem setCtx_invWait (s : State) (c : Fin 11) (x : Ctx) : (s.setCtx c x).invWait = s.invWait := rfl
@[simp] theorem setCtx_tracker (s : State) (c : Fin 11) (x : Ctx) : (s.setCtx c x).tracker = s.tracker := rfl
@[simp] theorem setCtx_linkGens (s : State) (c : Fin 11) (x : Ctx) : (s.setCtx c x).linkGens = s.linkGens := rfl
@[simp] theorem setCtx_lost (s : State) (c : Fin 11) (x : Ctx) : (s.setCtx c x).lost = s.lost := rfl
@[simp] theorem setCtx_faultQueues (s : State) (c : Fin 11) (x : Ctx) : (s.setCtx c x).faultQueues = s.faultQueues := rfl
@[simp] theorem setCtx_tokens (s : State) (c : Fin 11) (x : Ctx) : (s.setCtx c x).tokens = s.tokens := rfl
@[simp] theorem setCtx_nextToken (s : State) (c : Fin 11) (x : Ctx) : (s.setCtx c x).nextToken = s.nextToken := rfl
@[simp] theorem setCtx_pendingRecs (s : State) (c : Fin 11) (x : Ctx) : (s.setCtx c x).pendingRecs = s.pendingRecs := rfl
@[simp] theorem setCtx_icache (s : State) (c : Fin 11) (x : Ctx) : (s.setCtx c x).icache = s.icache := rfl
@[simp] theorem setCtx_ilines (s : State) (c : Fin 11) (x : Ctx) : (s.setCtx c x).ilines = s.ilines := rfl
@[simp] theorem setCtx_gate (s : State) (c : Fin 11) (x : Ctx) : (s.setCtx c x).gate = s.gate := rfl
@[simp] theorem setCtx_replies (s : State) (c : Fin 11) (x : Ctx) : (s.setCtx c x).replies = s.replies := rfl
@[simp] theorem setCtx_beacons (s : State) (c : Fin 11) (x : Ctx) : (s.setCtx c x).beacons = s.beacons := rfl
@[simp] theorem setCtx_rows (s : State) (c : Fin 11) (x : Ctx) : (s.setCtx c x).rows = s.rows := rfl
@[simp] theorem setCtx_seqs (s : State) (c : Fin 11) (x : Ctx) : (s.setCtx c x).seqs = s.seqs := rfl
@[simp] theorem setCtx_graph (s : State) (c : Fin 11) (x : Ctx) : (s.setCtx c x).graph = s.graph := rfl
@[simp] theorem setCtx_msgs (s : State) (c : Fin 11) (x : Ctx) : (s.setCtx c x).msgs = s.msgs := rfl
@[simp] theorem setCtx_cmds (s : State) (c : Fin 11) (x : Ctx) : (s.setCtx c x).cmds = s.cmds := rfl
@[simp] theorem setCtx_arrivals (s : State) (c : Fin 11) (x : Ctx) : (s.setCtx c x).arrivals = s.arrivals := rfl
@[simp] theorem setCtx_scopes (s : State) (c : Fin 11) (x : Ctx) : (s.setCtx c x).scopes = s.scopes := rfl
@[simp] theorem setCtx_matrix (s : State) (c : Fin 11) (x : Ctx) : (s.setCtx c x).matrix = s.matrix := rfl
@[simp] theorem setCtx_party (s : State) (c : Fin 11) (x : Ctx) : (s.setCtx c x).party = s.party := rfl
@[simp] theorem setCtx_sched (s : State) (c : Fin 11) (x : Ctx) : (s.setCtx c x).sched = s.sched := rfl
@[simp] theorem setCtx_house (s : State) (c : Fin 11) (x : Ctx) : (s.setCtx c x).house = s.house := rfl

/-! ## modCtx -/

@[simp] theorem modCtx_now (s : State) (c : Fin 11) (f : Ctx → Ctx) : (s.modCtx c f).now = s.now := rfl
@[simp] theorem modCtx_slow (s : State) (c : Fin 11) (f : Ctx → Ctx) : (s.modCtx c f).slow = s.slow := rfl
@[simp] theorem modCtx_cur (s : State) (c : Fin 11) (f : Ctx → Ctx) : (s.modCtx c f).cur = s.cur := rfl
@[simp] theorem modCtx_pipe (s : State) (c : Fin 11) (f : Ctx → Ctx) : (s.modCtx c f).pipe = s.pipe := rfl
@[simp] theorem modCtx_lastWide (s : State) (c : Fin 11) (f : Ctx → Ctx) : (s.modCtx c f).lastWide = s.lastWide := rfl
@[simp] theorem modCtx_lastScalar (s : State) (c : Fin 11) (f : Ctx → Ctx) : (s.modCtx c f).lastScalar = s.lastScalar := rfl
@[simp] theorem modCtx_half (s : State) (c : Fin 11) (f : Ctx → Ctx) : (s.modCtx c f).half = s.half := rfl
@[simp] theorem modCtx_divFree (s : State) (c : Fin 11) (f : Ctx → Ctx) : (s.modCtx c f).divFree = s.divFree := rfl
@[simp] theorem modCtx_turn (s : State) (c : Fin 11) (f : Ctx → Ctx) : (s.modCtx c f).turn = s.turn := rfl
@[simp] theorem modCtx_agenda (s : State) (c : Fin 11) (f : Ctx → Ctx) : (s.modCtx c f).agenda = s.agenda := rfl
@[simp] theorem modCtx_tick (s : State) (c : Fin 11) (f : Ctx → Ctx) : (s.modCtx c f).tick = s.tick := rfl
@[simp] theorem modCtx_caps (s : State) (c : Fin 11) (f : Ctx → Ctx) : (s.modCtx c f).caps = s.caps := rfl
@[simp] theorem modCtx_mem (s : State) (c : Fin 11) (f : Ctx → Ctx) : (s.modCtx c f).mem = s.mem := rfl
@[simp] theorem modCtx_poison (s : State) (c : Fin 11) (f : Ctx → Ctx) : (s.modCtx c f).poison = s.poison := rfl
@[simp] theorem modCtx_unseen (s : State) (c : Fin 11) (f : Ctx → Ctx) : (s.modCtx c f).unseen = s.unseen := rfl
@[simp] theorem modCtx_ctxs (s : State) (c : Fin 11) (f : Ctx → Ctx) : (s.modCtx c f).ctxs = s.ctxs.set c.1 (f (s.ctx c)) c.2 := rfl
@[simp] theorem modCtx_flights (s : State) (c : Fin 11) (f : Ctx → Ctx) : (s.modCtx c f).flights = s.flights := rfl
@[simp] theorem modCtx_nextId (s : State) (c : Fin 11) (f : Ctx → Ctx) : (s.modCtx c f).nextId = s.nextId := rfl
@[simp] theorem modCtx_counters (s : State) (c : Fin 11) (f : Ctx → Ctx) : (s.modCtx c f).counters = s.counters := rfl
@[simp] theorem modCtx_xltAs (s : State) (c : Fin 11) (f : Ctx → Ctx) : (s.modCtx c f).xltAs = s.xltAs := rfl
@[simp] theorem modCtx_rankMap (s : State) (c : Fin 11) (f : Ctx → Ctx) : (s.modCtx c f).rankMap = s.rankMap := rfl
@[simp] theorem modCtx_l1 (s : State) (c : Fin 11) (f : Ctx → Ctx) : (s.modCtx c f).l1 = s.l1 := rfl
@[simp] theorem modCtx_l2 (s : State) (c : Fin 11) (f : Ctx → Ctx) : (s.modCtx c f).l2 = s.l2 := rfl
@[simp] theorem modCtx_xltInv (s : State) (c : Fin 11) (f : Ctx → Ctx) : (s.modCtx c f).xltInv = s.xltInv := rfl
@[simp] theorem modCtx_invWait (s : State) (c : Fin 11) (f : Ctx → Ctx) : (s.modCtx c f).invWait = s.invWait := rfl
@[simp] theorem modCtx_tracker (s : State) (c : Fin 11) (f : Ctx → Ctx) : (s.modCtx c f).tracker = s.tracker := rfl
@[simp] theorem modCtx_linkGens (s : State) (c : Fin 11) (f : Ctx → Ctx) : (s.modCtx c f).linkGens = s.linkGens := rfl
@[simp] theorem modCtx_lost (s : State) (c : Fin 11) (f : Ctx → Ctx) : (s.modCtx c f).lost = s.lost := rfl
@[simp] theorem modCtx_faultQueues (s : State) (c : Fin 11) (f : Ctx → Ctx) : (s.modCtx c f).faultQueues = s.faultQueues := rfl
@[simp] theorem modCtx_tokens (s : State) (c : Fin 11) (f : Ctx → Ctx) : (s.modCtx c f).tokens = s.tokens := rfl
@[simp] theorem modCtx_nextToken (s : State) (c : Fin 11) (f : Ctx → Ctx) : (s.modCtx c f).nextToken = s.nextToken := rfl
@[simp] theorem modCtx_pendingRecs (s : State) (c : Fin 11) (f : Ctx → Ctx) : (s.modCtx c f).pendingRecs = s.pendingRecs := rfl
@[simp] theorem modCtx_icache (s : State) (c : Fin 11) (f : Ctx → Ctx) : (s.modCtx c f).icache = s.icache := rfl
@[simp] theorem modCtx_ilines (s : State) (c : Fin 11) (f : Ctx → Ctx) : (s.modCtx c f).ilines = s.ilines := rfl
@[simp] theorem modCtx_gate (s : State) (c : Fin 11) (f : Ctx → Ctx) : (s.modCtx c f).gate = s.gate := rfl
@[simp] theorem modCtx_replies (s : State) (c : Fin 11) (f : Ctx → Ctx) : (s.modCtx c f).replies = s.replies := rfl
@[simp] theorem modCtx_beacons (s : State) (c : Fin 11) (f : Ctx → Ctx) : (s.modCtx c f).beacons = s.beacons := rfl
@[simp] theorem modCtx_rows (s : State) (c : Fin 11) (f : Ctx → Ctx) : (s.modCtx c f).rows = s.rows := rfl
@[simp] theorem modCtx_seqs (s : State) (c : Fin 11) (f : Ctx → Ctx) : (s.modCtx c f).seqs = s.seqs := rfl
@[simp] theorem modCtx_graph (s : State) (c : Fin 11) (f : Ctx → Ctx) : (s.modCtx c f).graph = s.graph := rfl
@[simp] theorem modCtx_msgs (s : State) (c : Fin 11) (f : Ctx → Ctx) : (s.modCtx c f).msgs = s.msgs := rfl
@[simp] theorem modCtx_cmds (s : State) (c : Fin 11) (f : Ctx → Ctx) : (s.modCtx c f).cmds = s.cmds := rfl
@[simp] theorem modCtx_arrivals (s : State) (c : Fin 11) (f : Ctx → Ctx) : (s.modCtx c f).arrivals = s.arrivals := rfl
@[simp] theorem modCtx_scopes (s : State) (c : Fin 11) (f : Ctx → Ctx) : (s.modCtx c f).scopes = s.scopes := rfl
@[simp] theorem modCtx_matrix (s : State) (c : Fin 11) (f : Ctx → Ctx) : (s.modCtx c f).matrix = s.matrix := rfl
@[simp] theorem modCtx_party (s : State) (c : Fin 11) (f : Ctx → Ctx) : (s.modCtx c f).party = s.party := rfl
@[simp] theorem modCtx_sched (s : State) (c : Fin 11) (f : Ctx → Ctx) : (s.modCtx c f).sched = s.sched := rfl
@[simp] theorem modCtx_house (s : State) (c : Fin 11) (f : Ctx → Ctx) : (s.modCtx c f).house = s.house := rfl

/-! ## bump -/

@[simp] theorem bump_now (s : State) : s.bump.now = s.now := rfl
@[simp] theorem bump_slow (s : State) : s.bump.slow = s.slow := rfl
@[simp] theorem bump_cur (s : State) : s.bump.cur = s.cur := rfl
@[simp] theorem bump_pipe (s : State) : s.bump.pipe = s.pipe := rfl
@[simp] theorem bump_lastWide (s : State) : s.bump.lastWide = s.lastWide := rfl
@[simp] theorem bump_lastScalar (s : State) : s.bump.lastScalar = s.lastScalar := rfl
@[simp] theorem bump_half (s : State) : s.bump.half = s.half := rfl
@[simp] theorem bump_divFree (s : State) : s.bump.divFree = s.divFree := rfl
@[simp] theorem bump_turn (s : State) : s.bump.turn = s.turn := rfl
@[simp] theorem bump_agenda (s : State) : s.bump.agenda = s.agenda := rfl
@[simp] theorem bump_tick (s : State) : s.bump.tick = s.tick + 1 := rfl
@[simp] theorem bump_caps (s : State) : s.bump.caps = s.caps := rfl
@[simp] theorem bump_mem (s : State) : s.bump.mem = s.mem := rfl
@[simp] theorem bump_poison (s : State) : s.bump.poison = s.poison := rfl
@[simp] theorem bump_unseen (s : State) : s.bump.unseen = s.unseen := rfl
@[simp] theorem bump_ctxs (s : State) : s.bump.ctxs = s.ctxs := rfl
@[simp] theorem bump_flights (s : State) : s.bump.flights = s.flights := rfl
@[simp] theorem bump_nextId (s : State) : s.bump.nextId = s.nextId := rfl
@[simp] theorem bump_counters (s : State) : s.bump.counters = s.counters := rfl
@[simp] theorem bump_xltAs (s : State) : s.bump.xltAs = s.xltAs := rfl
@[simp] theorem bump_rankMap (s : State) : s.bump.rankMap = s.rankMap := rfl
@[simp] theorem bump_l1 (s : State) : s.bump.l1 = s.l1 := rfl
@[simp] theorem bump_l2 (s : State) : s.bump.l2 = s.l2 := rfl
@[simp] theorem bump_xltInv (s : State) : s.bump.xltInv = s.xltInv := rfl
@[simp] theorem bump_invWait (s : State) : s.bump.invWait = s.invWait := rfl
@[simp] theorem bump_tracker (s : State) : s.bump.tracker = s.tracker := rfl
@[simp] theorem bump_linkGens (s : State) : s.bump.linkGens = s.linkGens := rfl
@[simp] theorem bump_lost (s : State) : s.bump.lost = s.lost := rfl
@[simp] theorem bump_faultQueues (s : State) : s.bump.faultQueues = s.faultQueues := rfl
@[simp] theorem bump_tokens (s : State) : s.bump.tokens = s.tokens := rfl
@[simp] theorem bump_nextToken (s : State) : s.bump.nextToken = s.nextToken := rfl
@[simp] theorem bump_pendingRecs (s : State) : s.bump.pendingRecs = s.pendingRecs := rfl
@[simp] theorem bump_icache (s : State) : s.bump.icache = s.icache := rfl
@[simp] theorem bump_ilines (s : State) : s.bump.ilines = s.ilines := rfl
@[simp] theorem bump_gate (s : State) : s.bump.gate = s.gate := rfl
@[simp] theorem bump_replies (s : State) : s.bump.replies = s.replies := rfl
@[simp] theorem bump_beacons (s : State) : s.bump.beacons = s.beacons := rfl
@[simp] theorem bump_rows (s : State) : s.bump.rows = s.rows := rfl
@[simp] theorem bump_seqs (s : State) : s.bump.seqs = s.seqs := rfl
@[simp] theorem bump_graph (s : State) : s.bump.graph = s.graph := rfl
@[simp] theorem bump_msgs (s : State) : s.bump.msgs = s.msgs := rfl
@[simp] theorem bump_cmds (s : State) : s.bump.cmds = s.cmds := rfl
@[simp] theorem bump_arrivals (s : State) : s.bump.arrivals = s.arrivals := rfl
@[simp] theorem bump_scopes (s : State) : s.bump.scopes = s.scopes := rfl
@[simp] theorem bump_matrix (s : State) : s.bump.matrix = s.matrix := rfl
@[simp] theorem bump_party (s : State) : s.bump.party = s.party := rfl
@[simp] theorem bump_sched (s : State) : s.bump.sched = s.sched := rfl
@[simp] theorem bump_house (s : State) : s.bump.house = s.house := rfl

/-! ## modGraph -/

@[simp] theorem modGraph_now (s : State) (f : Graph → Graph) : (s.modGraph f).now = s.now := rfl
@[simp] theorem modGraph_slow (s : State) (f : Graph → Graph) : (s.modGraph f).slow = s.slow := rfl
@[simp] theorem modGraph_cur (s : State) (f : Graph → Graph) : (s.modGraph f).cur = s.cur := rfl
@[simp] theorem modGraph_pipe (s : State) (f : Graph → Graph) : (s.modGraph f).pipe = s.pipe := rfl
@[simp] theorem modGraph_lastWide (s : State) (f : Graph → Graph) : (s.modGraph f).lastWide = s.lastWide := rfl
@[simp] theorem modGraph_lastScalar (s : State) (f : Graph → Graph) : (s.modGraph f).lastScalar = s.lastScalar := rfl
@[simp] theorem modGraph_half (s : State) (f : Graph → Graph) : (s.modGraph f).half = s.half := rfl
@[simp] theorem modGraph_divFree (s : State) (f : Graph → Graph) : (s.modGraph f).divFree = s.divFree := rfl
@[simp] theorem modGraph_turn (s : State) (f : Graph → Graph) : (s.modGraph f).turn = s.turn := rfl
@[simp] theorem modGraph_agenda (s : State) (f : Graph → Graph) : (s.modGraph f).agenda = s.agenda := rfl
@[simp] theorem modGraph_tick (s : State) (f : Graph → Graph) : (s.modGraph f).tick = s.tick := rfl
@[simp] theorem modGraph_caps (s : State) (f : Graph → Graph) : (s.modGraph f).caps = s.caps := rfl
@[simp] theorem modGraph_mem (s : State) (f : Graph → Graph) : (s.modGraph f).mem = s.mem := rfl
@[simp] theorem modGraph_poison (s : State) (f : Graph → Graph) : (s.modGraph f).poison = s.poison := rfl
@[simp] theorem modGraph_unseen (s : State) (f : Graph → Graph) : (s.modGraph f).unseen = s.unseen := rfl
@[simp] theorem modGraph_ctxs (s : State) (f : Graph → Graph) : (s.modGraph f).ctxs = s.ctxs := rfl
@[simp] theorem modGraph_flights (s : State) (f : Graph → Graph) : (s.modGraph f).flights = s.flights := rfl
@[simp] theorem modGraph_nextId (s : State) (f : Graph → Graph) : (s.modGraph f).nextId = s.nextId := rfl
@[simp] theorem modGraph_counters (s : State) (f : Graph → Graph) : (s.modGraph f).counters = s.counters := rfl
@[simp] theorem modGraph_xltAs (s : State) (f : Graph → Graph) : (s.modGraph f).xltAs = s.xltAs := rfl
@[simp] theorem modGraph_rankMap (s : State) (f : Graph → Graph) : (s.modGraph f).rankMap = s.rankMap := rfl
@[simp] theorem modGraph_l1 (s : State) (f : Graph → Graph) : (s.modGraph f).l1 = s.l1 := rfl
@[simp] theorem modGraph_l2 (s : State) (f : Graph → Graph) : (s.modGraph f).l2 = s.l2 := rfl
@[simp] theorem modGraph_xltInv (s : State) (f : Graph → Graph) : (s.modGraph f).xltInv = s.xltInv := rfl
@[simp] theorem modGraph_invWait (s : State) (f : Graph → Graph) : (s.modGraph f).invWait = s.invWait := rfl
@[simp] theorem modGraph_tracker (s : State) (f : Graph → Graph) : (s.modGraph f).tracker = s.tracker := rfl
@[simp] theorem modGraph_linkGens (s : State) (f : Graph → Graph) : (s.modGraph f).linkGens = s.linkGens := rfl
@[simp] theorem modGraph_lost (s : State) (f : Graph → Graph) : (s.modGraph f).lost = s.lost := rfl
@[simp] theorem modGraph_faultQueues (s : State) (f : Graph → Graph) : (s.modGraph f).faultQueues = s.faultQueues := rfl
@[simp] theorem modGraph_tokens (s : State) (f : Graph → Graph) : (s.modGraph f).tokens = s.tokens := rfl
@[simp] theorem modGraph_nextToken (s : State) (f : Graph → Graph) : (s.modGraph f).nextToken = s.nextToken := rfl
@[simp] theorem modGraph_pendingRecs (s : State) (f : Graph → Graph) : (s.modGraph f).pendingRecs = s.pendingRecs := rfl
@[simp] theorem modGraph_icache (s : State) (f : Graph → Graph) : (s.modGraph f).icache = s.icache := rfl
@[simp] theorem modGraph_ilines (s : State) (f : Graph → Graph) : (s.modGraph f).ilines = s.ilines := rfl
@[simp] theorem modGraph_gate (s : State) (f : Graph → Graph) : (s.modGraph f).gate = s.gate := rfl
@[simp] theorem modGraph_replies (s : State) (f : Graph → Graph) : (s.modGraph f).replies = s.replies := rfl
@[simp] theorem modGraph_beacons (s : State) (f : Graph → Graph) : (s.modGraph f).beacons = s.beacons := rfl
@[simp] theorem modGraph_rows (s : State) (f : Graph → Graph) : (s.modGraph f).rows = s.rows := rfl
@[simp] theorem modGraph_seqs (s : State) (f : Graph → Graph) : (s.modGraph f).seqs = s.seqs := rfl
@[simp] theorem modGraph_graph (s : State) (f : Graph → Graph) : (s.modGraph f).graph = f s.graph := rfl
@[simp] theorem modGraph_msgs (s : State) (f : Graph → Graph) : (s.modGraph f).msgs = s.msgs := rfl
@[simp] theorem modGraph_cmds (s : State) (f : Graph → Graph) : (s.modGraph f).cmds = s.cmds := rfl
@[simp] theorem modGraph_arrivals (s : State) (f : Graph → Graph) : (s.modGraph f).arrivals = s.arrivals := rfl
@[simp] theorem modGraph_scopes (s : State) (f : Graph → Graph) : (s.modGraph f).scopes = s.scopes := rfl
@[simp] theorem modGraph_matrix (s : State) (f : Graph → Graph) : (s.modGraph f).matrix = s.matrix := rfl
@[simp] theorem modGraph_party (s : State) (f : Graph → Graph) : (s.modGraph f).party = s.party := rfl
@[simp] theorem modGraph_sched (s : State) (f : Graph → Graph) : (s.modGraph f).sched = s.sched := rfl
@[simp] theorem modGraph_house (s : State) (f : Graph → Graph) : (s.modGraph f).house = s.house := rfl

/-! ## modMatrix -/

@[simp] theorem modMatrix_now (s : State) (f : Matrix → Matrix) : (s.modMatrix f).now = s.now := rfl
@[simp] theorem modMatrix_slow (s : State) (f : Matrix → Matrix) : (s.modMatrix f).slow = s.slow := rfl
@[simp] theorem modMatrix_cur (s : State) (f : Matrix → Matrix) : (s.modMatrix f).cur = s.cur := rfl
@[simp] theorem modMatrix_pipe (s : State) (f : Matrix → Matrix) : (s.modMatrix f).pipe = s.pipe := rfl
@[simp] theorem modMatrix_lastWide (s : State) (f : Matrix → Matrix) : (s.modMatrix f).lastWide = s.lastWide := rfl
@[simp] theorem modMatrix_lastScalar (s : State) (f : Matrix → Matrix) : (s.modMatrix f).lastScalar = s.lastScalar := rfl
@[simp] theorem modMatrix_half (s : State) (f : Matrix → Matrix) : (s.modMatrix f).half = s.half := rfl
@[simp] theorem modMatrix_divFree (s : State) (f : Matrix → Matrix) : (s.modMatrix f).divFree = s.divFree := rfl
@[simp] theorem modMatrix_turn (s : State) (f : Matrix → Matrix) : (s.modMatrix f).turn = s.turn := rfl
@[simp] theorem modMatrix_agenda (s : State) (f : Matrix → Matrix) : (s.modMatrix f).agenda = s.agenda := rfl
@[simp] theorem modMatrix_tick (s : State) (f : Matrix → Matrix) : (s.modMatrix f).tick = s.tick := rfl
@[simp] theorem modMatrix_caps (s : State) (f : Matrix → Matrix) : (s.modMatrix f).caps = s.caps := rfl
@[simp] theorem modMatrix_mem (s : State) (f : Matrix → Matrix) : (s.modMatrix f).mem = s.mem := rfl
@[simp] theorem modMatrix_poison (s : State) (f : Matrix → Matrix) : (s.modMatrix f).poison = s.poison := rfl
@[simp] theorem modMatrix_unseen (s : State) (f : Matrix → Matrix) : (s.modMatrix f).unseen = s.unseen := rfl
@[simp] theorem modMatrix_ctxs (s : State) (f : Matrix → Matrix) : (s.modMatrix f).ctxs = s.ctxs := rfl
@[simp] theorem modMatrix_flights (s : State) (f : Matrix → Matrix) : (s.modMatrix f).flights = s.flights := rfl
@[simp] theorem modMatrix_nextId (s : State) (f : Matrix → Matrix) : (s.modMatrix f).nextId = s.nextId := rfl
@[simp] theorem modMatrix_counters (s : State) (f : Matrix → Matrix) : (s.modMatrix f).counters = s.counters := rfl
@[simp] theorem modMatrix_xltAs (s : State) (f : Matrix → Matrix) : (s.modMatrix f).xltAs = s.xltAs := rfl
@[simp] theorem modMatrix_rankMap (s : State) (f : Matrix → Matrix) : (s.modMatrix f).rankMap = s.rankMap := rfl
@[simp] theorem modMatrix_l1 (s : State) (f : Matrix → Matrix) : (s.modMatrix f).l1 = s.l1 := rfl
@[simp] theorem modMatrix_l2 (s : State) (f : Matrix → Matrix) : (s.modMatrix f).l2 = s.l2 := rfl
@[simp] theorem modMatrix_xltInv (s : State) (f : Matrix → Matrix) : (s.modMatrix f).xltInv = s.xltInv := rfl
@[simp] theorem modMatrix_invWait (s : State) (f : Matrix → Matrix) : (s.modMatrix f).invWait = s.invWait := rfl
@[simp] theorem modMatrix_tracker (s : State) (f : Matrix → Matrix) : (s.modMatrix f).tracker = s.tracker := rfl
@[simp] theorem modMatrix_linkGens (s : State) (f : Matrix → Matrix) : (s.modMatrix f).linkGens = s.linkGens := rfl
@[simp] theorem modMatrix_lost (s : State) (f : Matrix → Matrix) : (s.modMatrix f).lost = s.lost := rfl
@[simp] theorem modMatrix_faultQueues (s : State) (f : Matrix → Matrix) : (s.modMatrix f).faultQueues = s.faultQueues := rfl
@[simp] theorem modMatrix_tokens (s : State) (f : Matrix → Matrix) : (s.modMatrix f).tokens = s.tokens := rfl
@[simp] theorem modMatrix_nextToken (s : State) (f : Matrix → Matrix) : (s.modMatrix f).nextToken = s.nextToken := rfl
@[simp] theorem modMatrix_pendingRecs (s : State) (f : Matrix → Matrix) : (s.modMatrix f).pendingRecs = s.pendingRecs := rfl
@[simp] theorem modMatrix_icache (s : State) (f : Matrix → Matrix) : (s.modMatrix f).icache = s.icache := rfl
@[simp] theorem modMatrix_ilines (s : State) (f : Matrix → Matrix) : (s.modMatrix f).ilines = s.ilines := rfl
@[simp] theorem modMatrix_gate (s : State) (f : Matrix → Matrix) : (s.modMatrix f).gate = s.gate := rfl
@[simp] theorem modMatrix_replies (s : State) (f : Matrix → Matrix) : (s.modMatrix f).replies = s.replies := rfl
@[simp] theorem modMatrix_beacons (s : State) (f : Matrix → Matrix) : (s.modMatrix f).beacons = s.beacons := rfl
@[simp] theorem modMatrix_rows (s : State) (f : Matrix → Matrix) : (s.modMatrix f).rows = s.rows := rfl
@[simp] theorem modMatrix_seqs (s : State) (f : Matrix → Matrix) : (s.modMatrix f).seqs = s.seqs := rfl
@[simp] theorem modMatrix_graph (s : State) (f : Matrix → Matrix) : (s.modMatrix f).graph = s.graph := rfl
@[simp] theorem modMatrix_msgs (s : State) (f : Matrix → Matrix) : (s.modMatrix f).msgs = s.msgs := rfl
@[simp] theorem modMatrix_cmds (s : State) (f : Matrix → Matrix) : (s.modMatrix f).cmds = s.cmds := rfl
@[simp] theorem modMatrix_arrivals (s : State) (f : Matrix → Matrix) : (s.modMatrix f).arrivals = s.arrivals := rfl
@[simp] theorem modMatrix_scopes (s : State) (f : Matrix → Matrix) : (s.modMatrix f).scopes = s.scopes := rfl
@[simp] theorem modMatrix_matrix (s : State) (f : Matrix → Matrix) : (s.modMatrix f).matrix = f s.matrix := rfl
@[simp] theorem modMatrix_party (s : State) (f : Matrix → Matrix) : (s.modMatrix f).party = s.party := rfl
@[simp] theorem modMatrix_sched (s : State) (f : Matrix → Matrix) : (s.modMatrix f).sched = s.sched := rfl
@[simp] theorem modMatrix_house (s : State) (f : Matrix → Matrix) : (s.modMatrix f).house = s.house := rfl

/-! ## modSched -/

@[simp] theorem modSched_now (s : State) (f : Scheduler → Scheduler) : (s.modSched f).now = s.now := rfl
@[simp] theorem modSched_slow (s : State) (f : Scheduler → Scheduler) : (s.modSched f).slow = s.slow := rfl
@[simp] theorem modSched_cur (s : State) (f : Scheduler → Scheduler) : (s.modSched f).cur = s.cur := rfl
@[simp] theorem modSched_pipe (s : State) (f : Scheduler → Scheduler) : (s.modSched f).pipe = s.pipe := rfl
@[simp] theorem modSched_lastWide (s : State) (f : Scheduler → Scheduler) : (s.modSched f).lastWide = s.lastWide := rfl
@[simp] theorem modSched_lastScalar (s : State) (f : Scheduler → Scheduler) : (s.modSched f).lastScalar = s.lastScalar := rfl
@[simp] theorem modSched_half (s : State) (f : Scheduler → Scheduler) : (s.modSched f).half = s.half := rfl
@[simp] theorem modSched_divFree (s : State) (f : Scheduler → Scheduler) : (s.modSched f).divFree = s.divFree := rfl
@[simp] theorem modSched_turn (s : State) (f : Scheduler → Scheduler) : (s.modSched f).turn = s.turn := rfl
@[simp] theorem modSched_agenda (s : State) (f : Scheduler → Scheduler) : (s.modSched f).agenda = s.agenda := rfl
@[simp] theorem modSched_tick (s : State) (f : Scheduler → Scheduler) : (s.modSched f).tick = s.tick := rfl
@[simp] theorem modSched_caps (s : State) (f : Scheduler → Scheduler) : (s.modSched f).caps = s.caps := rfl
@[simp] theorem modSched_mem (s : State) (f : Scheduler → Scheduler) : (s.modSched f).mem = s.mem := rfl
@[simp] theorem modSched_poison (s : State) (f : Scheduler → Scheduler) : (s.modSched f).poison = s.poison := rfl
@[simp] theorem modSched_unseen (s : State) (f : Scheduler → Scheduler) : (s.modSched f).unseen = s.unseen := rfl
@[simp] theorem modSched_ctxs (s : State) (f : Scheduler → Scheduler) : (s.modSched f).ctxs = s.ctxs := rfl
@[simp] theorem modSched_flights (s : State) (f : Scheduler → Scheduler) : (s.modSched f).flights = s.flights := rfl
@[simp] theorem modSched_nextId (s : State) (f : Scheduler → Scheduler) : (s.modSched f).nextId = s.nextId := rfl
@[simp] theorem modSched_counters (s : State) (f : Scheduler → Scheduler) : (s.modSched f).counters = s.counters := rfl
@[simp] theorem modSched_xltAs (s : State) (f : Scheduler → Scheduler) : (s.modSched f).xltAs = s.xltAs := rfl
@[simp] theorem modSched_rankMap (s : State) (f : Scheduler → Scheduler) : (s.modSched f).rankMap = s.rankMap := rfl
@[simp] theorem modSched_l1 (s : State) (f : Scheduler → Scheduler) : (s.modSched f).l1 = s.l1 := rfl
@[simp] theorem modSched_l2 (s : State) (f : Scheduler → Scheduler) : (s.modSched f).l2 = s.l2 := rfl
@[simp] theorem modSched_xltInv (s : State) (f : Scheduler → Scheduler) : (s.modSched f).xltInv = s.xltInv := rfl
@[simp] theorem modSched_invWait (s : State) (f : Scheduler → Scheduler) : (s.modSched f).invWait = s.invWait := rfl
@[simp] theorem modSched_tracker (s : State) (f : Scheduler → Scheduler) : (s.modSched f).tracker = s.tracker := rfl
@[simp] theorem modSched_linkGens (s : State) (f : Scheduler → Scheduler) : (s.modSched f).linkGens = s.linkGens := rfl
@[simp] theorem modSched_lost (s : State) (f : Scheduler → Scheduler) : (s.modSched f).lost = s.lost := rfl
@[simp] theorem modSched_faultQueues (s : State) (f : Scheduler → Scheduler) : (s.modSched f).faultQueues = s.faultQueues := rfl
@[simp] theorem modSched_tokens (s : State) (f : Scheduler → Scheduler) : (s.modSched f).tokens = s.tokens := rfl
@[simp] theorem modSched_nextToken (s : State) (f : Scheduler → Scheduler) : (s.modSched f).nextToken = s.nextToken := rfl
@[simp] theorem modSched_pendingRecs (s : State) (f : Scheduler → Scheduler) : (s.modSched f).pendingRecs = s.pendingRecs := rfl
@[simp] theorem modSched_icache (s : State) (f : Scheduler → Scheduler) : (s.modSched f).icache = s.icache := rfl
@[simp] theorem modSched_ilines (s : State) (f : Scheduler → Scheduler) : (s.modSched f).ilines = s.ilines := rfl
@[simp] theorem modSched_gate (s : State) (f : Scheduler → Scheduler) : (s.modSched f).gate = s.gate := rfl
@[simp] theorem modSched_replies (s : State) (f : Scheduler → Scheduler) : (s.modSched f).replies = s.replies := rfl
@[simp] theorem modSched_beacons (s : State) (f : Scheduler → Scheduler) : (s.modSched f).beacons = s.beacons := rfl
@[simp] theorem modSched_rows (s : State) (f : Scheduler → Scheduler) : (s.modSched f).rows = s.rows := rfl
@[simp] theorem modSched_seqs (s : State) (f : Scheduler → Scheduler) : (s.modSched f).seqs = s.seqs := rfl
@[simp] theorem modSched_graph (s : State) (f : Scheduler → Scheduler) : (s.modSched f).graph = s.graph := rfl
@[simp] theorem modSched_msgs (s : State) (f : Scheduler → Scheduler) : (s.modSched f).msgs = s.msgs := rfl
@[simp] theorem modSched_cmds (s : State) (f : Scheduler → Scheduler) : (s.modSched f).cmds = s.cmds := rfl
@[simp] theorem modSched_arrivals (s : State) (f : Scheduler → Scheduler) : (s.modSched f).arrivals = s.arrivals := rfl
@[simp] theorem modSched_scopes (s : State) (f : Scheduler → Scheduler) : (s.modSched f).scopes = s.scopes := rfl
@[simp] theorem modSched_matrix (s : State) (f : Scheduler → Scheduler) : (s.modSched f).matrix = s.matrix := rfl
@[simp] theorem modSched_party (s : State) (f : Scheduler → Scheduler) : (s.modSched f).party = s.party := rfl
@[simp] theorem modSched_sched (s : State) (f : Scheduler → Scheduler) : (s.modSched f).sched = f s.sched := rfl
@[simp] theorem modSched_house (s : State) (f : Scheduler → Scheduler) : (s.modSched f).house = s.house := rfl

/-! ## modHouse -/

@[simp] theorem modHouse_now (s : State) (f : Housekeeping → Housekeeping) : (s.modHouse f).now = s.now := rfl
@[simp] theorem modHouse_slow (s : State) (f : Housekeeping → Housekeeping) : (s.modHouse f).slow = s.slow := rfl
@[simp] theorem modHouse_cur (s : State) (f : Housekeeping → Housekeeping) : (s.modHouse f).cur = s.cur := rfl
@[simp] theorem modHouse_pipe (s : State) (f : Housekeeping → Housekeeping) : (s.modHouse f).pipe = s.pipe := rfl
@[simp] theorem modHouse_lastWide (s : State) (f : Housekeeping → Housekeeping) : (s.modHouse f).lastWide = s.lastWide := rfl
@[simp] theorem modHouse_lastScalar (s : State) (f : Housekeeping → Housekeeping) : (s.modHouse f).lastScalar = s.lastScalar := rfl
@[simp] theorem modHouse_half (s : State) (f : Housekeeping → Housekeeping) : (s.modHouse f).half = s.half := rfl
@[simp] theorem modHouse_divFree (s : State) (f : Housekeeping → Housekeeping) : (s.modHouse f).divFree = s.divFree := rfl
@[simp] theorem modHouse_turn (s : State) (f : Housekeeping → Housekeeping) : (s.modHouse f).turn = s.turn := rfl
@[simp] theorem modHouse_agenda (s : State) (f : Housekeeping → Housekeeping) : (s.modHouse f).agenda = s.agenda := rfl
@[simp] theorem modHouse_tick (s : State) (f : Housekeeping → Housekeeping) : (s.modHouse f).tick = s.tick := rfl
@[simp] theorem modHouse_caps (s : State) (f : Housekeeping → Housekeeping) : (s.modHouse f).caps = s.caps := rfl
@[simp] theorem modHouse_mem (s : State) (f : Housekeeping → Housekeeping) : (s.modHouse f).mem = s.mem := rfl
@[simp] theorem modHouse_poison (s : State) (f : Housekeeping → Housekeeping) : (s.modHouse f).poison = s.poison := rfl
@[simp] theorem modHouse_unseen (s : State) (f : Housekeeping → Housekeeping) : (s.modHouse f).unseen = s.unseen := rfl
@[simp] theorem modHouse_ctxs (s : State) (f : Housekeeping → Housekeeping) : (s.modHouse f).ctxs = s.ctxs := rfl
@[simp] theorem modHouse_flights (s : State) (f : Housekeeping → Housekeeping) : (s.modHouse f).flights = s.flights := rfl
@[simp] theorem modHouse_nextId (s : State) (f : Housekeeping → Housekeeping) : (s.modHouse f).nextId = s.nextId := rfl
@[simp] theorem modHouse_counters (s : State) (f : Housekeeping → Housekeeping) : (s.modHouse f).counters = s.counters := rfl
@[simp] theorem modHouse_xltAs (s : State) (f : Housekeeping → Housekeeping) : (s.modHouse f).xltAs = s.xltAs := rfl
@[simp] theorem modHouse_rankMap (s : State) (f : Housekeeping → Housekeeping) : (s.modHouse f).rankMap = s.rankMap := rfl
@[simp] theorem modHouse_l1 (s : State) (f : Housekeeping → Housekeeping) : (s.modHouse f).l1 = s.l1 := rfl
@[simp] theorem modHouse_l2 (s : State) (f : Housekeeping → Housekeeping) : (s.modHouse f).l2 = s.l2 := rfl
@[simp] theorem modHouse_xltInv (s : State) (f : Housekeeping → Housekeeping) : (s.modHouse f).xltInv = s.xltInv := rfl
@[simp] theorem modHouse_invWait (s : State) (f : Housekeeping → Housekeeping) : (s.modHouse f).invWait = s.invWait := rfl
@[simp] theorem modHouse_tracker (s : State) (f : Housekeeping → Housekeeping) : (s.modHouse f).tracker = s.tracker := rfl
@[simp] theorem modHouse_linkGens (s : State) (f : Housekeeping → Housekeeping) : (s.modHouse f).linkGens = s.linkGens := rfl
@[simp] theorem modHouse_lost (s : State) (f : Housekeeping → Housekeeping) : (s.modHouse f).lost = s.lost := rfl
@[simp] theorem modHouse_faultQueues (s : State) (f : Housekeeping → Housekeeping) : (s.modHouse f).faultQueues = s.faultQueues := rfl
@[simp] theorem modHouse_tokens (s : State) (f : Housekeeping → Housekeeping) : (s.modHouse f).tokens = s.tokens := rfl
@[simp] theorem modHouse_nextToken (s : State) (f : Housekeeping → Housekeeping) : (s.modHouse f).nextToken = s.nextToken := rfl
@[simp] theorem modHouse_pendingRecs (s : State) (f : Housekeeping → Housekeeping) : (s.modHouse f).pendingRecs = s.pendingRecs := rfl
@[simp] theorem modHouse_icache (s : State) (f : Housekeeping → Housekeeping) : (s.modHouse f).icache = s.icache := rfl
@[simp] theorem modHouse_ilines (s : State) (f : Housekeeping → Housekeeping) : (s.modHouse f).ilines = s.ilines := rfl
@[simp] theorem modHouse_gate (s : State) (f : Housekeeping → Housekeeping) : (s.modHouse f).gate = s.gate := rfl
@[simp] theorem modHouse_replies (s : State) (f : Housekeeping → Housekeeping) : (s.modHouse f).replies = s.replies := rfl
@[simp] theorem modHouse_beacons (s : State) (f : Housekeeping → Housekeeping) : (s.modHouse f).beacons = s.beacons := rfl
@[simp] theorem modHouse_rows (s : State) (f : Housekeeping → Housekeeping) : (s.modHouse f).rows = s.rows := rfl
@[simp] theorem modHouse_seqs (s : State) (f : Housekeeping → Housekeeping) : (s.modHouse f).seqs = s.seqs := rfl
@[simp] theorem modHouse_graph (s : State) (f : Housekeeping → Housekeeping) : (s.modHouse f).graph = s.graph := rfl
@[simp] theorem modHouse_msgs (s : State) (f : Housekeeping → Housekeeping) : (s.modHouse f).msgs = s.msgs := rfl
@[simp] theorem modHouse_cmds (s : State) (f : Housekeeping → Housekeeping) : (s.modHouse f).cmds = s.cmds := rfl
@[simp] theorem modHouse_arrivals (s : State) (f : Housekeeping → Housekeeping) : (s.modHouse f).arrivals = s.arrivals := rfl
@[simp] theorem modHouse_scopes (s : State) (f : Housekeeping → Housekeeping) : (s.modHouse f).scopes = s.scopes := rfl
@[simp] theorem modHouse_matrix (s : State) (f : Housekeeping → Housekeeping) : (s.modHouse f).matrix = s.matrix := rfl
@[simp] theorem modHouse_party (s : State) (f : Housekeeping → Housekeeping) : (s.modHouse f).party = s.party := rfl
@[simp] theorem modHouse_sched (s : State) (f : Housekeeping → Housekeeping) : (s.modHouse f).sched = s.sched := rfl
@[simp] theorem modHouse_house (s : State) (f : Housekeeping → Housekeeping) : (s.modHouse f).house = f s.house := rfl

/-! ## modRows -/

@[simp] theorem modRows_now (s : State) (f : RowPath → RowPath) : (s.modRows f).now = s.now := rfl
@[simp] theorem modRows_slow (s : State) (f : RowPath → RowPath) : (s.modRows f).slow = s.slow := rfl
@[simp] theorem modRows_cur (s : State) (f : RowPath → RowPath) : (s.modRows f).cur = s.cur := rfl
@[simp] theorem modRows_pipe (s : State) (f : RowPath → RowPath) : (s.modRows f).pipe = s.pipe := rfl
@[simp] theorem modRows_lastWide (s : State) (f : RowPath → RowPath) : (s.modRows f).lastWide = s.lastWide := rfl
@[simp] theorem modRows_lastScalar (s : State) (f : RowPath → RowPath) : (s.modRows f).lastScalar = s.lastScalar := rfl
@[simp] theorem modRows_half (s : State) (f : RowPath → RowPath) : (s.modRows f).half = s.half := rfl
@[simp] theorem modRows_divFree (s : State) (f : RowPath → RowPath) : (s.modRows f).divFree = s.divFree := rfl
@[simp] theorem modRows_turn (s : State) (f : RowPath → RowPath) : (s.modRows f).turn = s.turn := rfl
@[simp] theorem modRows_agenda (s : State) (f : RowPath → RowPath) : (s.modRows f).agenda = s.agenda := rfl
@[simp] theorem modRows_tick (s : State) (f : RowPath → RowPath) : (s.modRows f).tick = s.tick := rfl
@[simp] theorem modRows_caps (s : State) (f : RowPath → RowPath) : (s.modRows f).caps = s.caps := rfl
@[simp] theorem modRows_mem (s : State) (f : RowPath → RowPath) : (s.modRows f).mem = s.mem := rfl
@[simp] theorem modRows_poison (s : State) (f : RowPath → RowPath) : (s.modRows f).poison = s.poison := rfl
@[simp] theorem modRows_unseen (s : State) (f : RowPath → RowPath) : (s.modRows f).unseen = s.unseen := rfl
@[simp] theorem modRows_ctxs (s : State) (f : RowPath → RowPath) : (s.modRows f).ctxs = s.ctxs := rfl
@[simp] theorem modRows_flights (s : State) (f : RowPath → RowPath) : (s.modRows f).flights = s.flights := rfl
@[simp] theorem modRows_nextId (s : State) (f : RowPath → RowPath) : (s.modRows f).nextId = s.nextId := rfl
@[simp] theorem modRows_counters (s : State) (f : RowPath → RowPath) : (s.modRows f).counters = s.counters := rfl
@[simp] theorem modRows_xltAs (s : State) (f : RowPath → RowPath) : (s.modRows f).xltAs = s.xltAs := rfl
@[simp] theorem modRows_rankMap (s : State) (f : RowPath → RowPath) : (s.modRows f).rankMap = s.rankMap := rfl
@[simp] theorem modRows_l1 (s : State) (f : RowPath → RowPath) : (s.modRows f).l1 = s.l1 := rfl
@[simp] theorem modRows_l2 (s : State) (f : RowPath → RowPath) : (s.modRows f).l2 = s.l2 := rfl
@[simp] theorem modRows_xltInv (s : State) (f : RowPath → RowPath) : (s.modRows f).xltInv = s.xltInv := rfl
@[simp] theorem modRows_invWait (s : State) (f : RowPath → RowPath) : (s.modRows f).invWait = s.invWait := rfl
@[simp] theorem modRows_tracker (s : State) (f : RowPath → RowPath) : (s.modRows f).tracker = s.tracker := rfl
@[simp] theorem modRows_linkGens (s : State) (f : RowPath → RowPath) : (s.modRows f).linkGens = s.linkGens := rfl
@[simp] theorem modRows_lost (s : State) (f : RowPath → RowPath) : (s.modRows f).lost = s.lost := rfl
@[simp] theorem modRows_faultQueues (s : State) (f : RowPath → RowPath) : (s.modRows f).faultQueues = s.faultQueues := rfl
@[simp] theorem modRows_tokens (s : State) (f : RowPath → RowPath) : (s.modRows f).tokens = s.tokens := rfl
@[simp] theorem modRows_nextToken (s : State) (f : RowPath → RowPath) : (s.modRows f).nextToken = s.nextToken := rfl
@[simp] theorem modRows_pendingRecs (s : State) (f : RowPath → RowPath) : (s.modRows f).pendingRecs = s.pendingRecs := rfl
@[simp] theorem modRows_icache (s : State) (f : RowPath → RowPath) : (s.modRows f).icache = s.icache := rfl
@[simp] theorem modRows_ilines (s : State) (f : RowPath → RowPath) : (s.modRows f).ilines = s.ilines := rfl
@[simp] theorem modRows_gate (s : State) (f : RowPath → RowPath) : (s.modRows f).gate = s.gate := rfl
@[simp] theorem modRows_replies (s : State) (f : RowPath → RowPath) : (s.modRows f).replies = s.replies := rfl
@[simp] theorem modRows_beacons (s : State) (f : RowPath → RowPath) : (s.modRows f).beacons = s.beacons := rfl
@[simp] theorem modRows_rows (s : State) (f : RowPath → RowPath) : (s.modRows f).rows = f s.rows := rfl
@[simp] theorem modRows_seqs (s : State) (f : RowPath → RowPath) : (s.modRows f).seqs = s.seqs := rfl
@[simp] theorem modRows_graph (s : State) (f : RowPath → RowPath) : (s.modRows f).graph = s.graph := rfl
@[simp] theorem modRows_msgs (s : State) (f : RowPath → RowPath) : (s.modRows f).msgs = s.msgs := rfl
@[simp] theorem modRows_cmds (s : State) (f : RowPath → RowPath) : (s.modRows f).cmds = s.cmds := rfl
@[simp] theorem modRows_arrivals (s : State) (f : RowPath → RowPath) : (s.modRows f).arrivals = s.arrivals := rfl
@[simp] theorem modRows_scopes (s : State) (f : RowPath → RowPath) : (s.modRows f).scopes = s.scopes := rfl
@[simp] theorem modRows_matrix (s : State) (f : RowPath → RowPath) : (s.modRows f).matrix = s.matrix := rfl
@[simp] theorem modRows_party (s : State) (f : RowPath → RowPath) : (s.modRows f).party = s.party := rfl
@[simp] theorem modRows_sched (s : State) (f : RowPath → RowPath) : (s.modRows f).sched = s.sched := rfl
@[simp] theorem modRows_house (s : State) (f : RowPath → RowPath) : (s.modRows f).house = s.house := rfl

/-! ## dropFlight -/

@[simp] theorem dropFlight_now (s : State) (k : Nat) : (s.dropFlight k).now = s.now := rfl
@[simp] theorem dropFlight_slow (s : State) (k : Nat) : (s.dropFlight k).slow = s.slow := rfl
@[simp] theorem dropFlight_cur (s : State) (k : Nat) : (s.dropFlight k).cur = s.cur := rfl
@[simp] theorem dropFlight_pipe (s : State) (k : Nat) : (s.dropFlight k).pipe = s.pipe := rfl
@[simp] theorem dropFlight_lastWide (s : State) (k : Nat) : (s.dropFlight k).lastWide = s.lastWide := rfl
@[simp] theorem dropFlight_lastScalar (s : State) (k : Nat) : (s.dropFlight k).lastScalar = s.lastScalar := rfl
@[simp] theorem dropFlight_half (s : State) (k : Nat) : (s.dropFlight k).half = s.half := rfl
@[simp] theorem dropFlight_divFree (s : State) (k : Nat) : (s.dropFlight k).divFree = s.divFree := rfl
@[simp] theorem dropFlight_turn (s : State) (k : Nat) : (s.dropFlight k).turn = s.turn := rfl
@[simp] theorem dropFlight_agenda (s : State) (k : Nat) : (s.dropFlight k).agenda = s.agenda := rfl
@[simp] theorem dropFlight_tick (s : State) (k : Nat) : (s.dropFlight k).tick = s.tick := rfl
@[simp] theorem dropFlight_caps (s : State) (k : Nat) : (s.dropFlight k).caps = s.caps := rfl
@[simp] theorem dropFlight_mem (s : State) (k : Nat) : (s.dropFlight k).mem = s.mem := rfl
@[simp] theorem dropFlight_poison (s : State) (k : Nat) : (s.dropFlight k).poison = s.poison := rfl
@[simp] theorem dropFlight_unseen (s : State) (k : Nat) : (s.dropFlight k).unseen = s.unseen := rfl
@[simp] theorem dropFlight_ctxs (s : State) (k : Nat) : (s.dropFlight k).ctxs = s.ctxs := rfl
@[simp] theorem dropFlight_flights (s : State) (k : Nat) : (s.dropFlight k).flights = s.flights.filter (fun f => f.id != k) := rfl
@[simp] theorem dropFlight_nextId (s : State) (k : Nat) : (s.dropFlight k).nextId = s.nextId := rfl
@[simp] theorem dropFlight_counters (s : State) (k : Nat) : (s.dropFlight k).counters = s.counters := rfl
@[simp] theorem dropFlight_xltAs (s : State) (k : Nat) : (s.dropFlight k).xltAs = s.xltAs := rfl
@[simp] theorem dropFlight_rankMap (s : State) (k : Nat) : (s.dropFlight k).rankMap = s.rankMap := rfl
@[simp] theorem dropFlight_l1 (s : State) (k : Nat) : (s.dropFlight k).l1 = s.l1 := rfl
@[simp] theorem dropFlight_l2 (s : State) (k : Nat) : (s.dropFlight k).l2 = s.l2 := rfl
@[simp] theorem dropFlight_xltInv (s : State) (k : Nat) : (s.dropFlight k).xltInv = s.xltInv := rfl
@[simp] theorem dropFlight_invWait (s : State) (k : Nat) : (s.dropFlight k).invWait = s.invWait := rfl
@[simp] theorem dropFlight_tracker (s : State) (k : Nat) : (s.dropFlight k).tracker = s.tracker := rfl
@[simp] theorem dropFlight_linkGens (s : State) (k : Nat) : (s.dropFlight k).linkGens = s.linkGens := rfl
@[simp] theorem dropFlight_lost (s : State) (k : Nat) : (s.dropFlight k).lost = s.lost := rfl
@[simp] theorem dropFlight_faultQueues (s : State) (k : Nat) : (s.dropFlight k).faultQueues = s.faultQueues := rfl
@[simp] theorem dropFlight_tokens (s : State) (k : Nat) : (s.dropFlight k).tokens = s.tokens := rfl
@[simp] theorem dropFlight_nextToken (s : State) (k : Nat) : (s.dropFlight k).nextToken = s.nextToken := rfl
@[simp] theorem dropFlight_pendingRecs (s : State) (k : Nat) : (s.dropFlight k).pendingRecs = s.pendingRecs := rfl
@[simp] theorem dropFlight_icache (s : State) (k : Nat) : (s.dropFlight k).icache = s.icache := rfl
@[simp] theorem dropFlight_ilines (s : State) (k : Nat) : (s.dropFlight k).ilines = s.ilines := rfl
@[simp] theorem dropFlight_gate (s : State) (k : Nat) : (s.dropFlight k).gate = s.gate := rfl
@[simp] theorem dropFlight_replies (s : State) (k : Nat) : (s.dropFlight k).replies = s.replies := rfl
@[simp] theorem dropFlight_beacons (s : State) (k : Nat) : (s.dropFlight k).beacons = s.beacons := rfl
@[simp] theorem dropFlight_rows (s : State) (k : Nat) : (s.dropFlight k).rows = s.rows := rfl
@[simp] theorem dropFlight_seqs (s : State) (k : Nat) : (s.dropFlight k).seqs = s.seqs := rfl
@[simp] theorem dropFlight_graph (s : State) (k : Nat) : (s.dropFlight k).graph = s.graph := rfl
@[simp] theorem dropFlight_msgs (s : State) (k : Nat) : (s.dropFlight k).msgs = s.msgs := rfl
@[simp] theorem dropFlight_cmds (s : State) (k : Nat) : (s.dropFlight k).cmds = s.cmds := rfl
@[simp] theorem dropFlight_arrivals (s : State) (k : Nat) : (s.dropFlight k).arrivals = s.arrivals := rfl
@[simp] theorem dropFlight_scopes (s : State) (k : Nat) : (s.dropFlight k).scopes = s.scopes := rfl
@[simp] theorem dropFlight_matrix (s : State) (k : Nat) : (s.dropFlight k).matrix = s.matrix := rfl
@[simp] theorem dropFlight_party (s : State) (k : Nat) : (s.dropFlight k).party = s.party := rfl
@[simp] theorem dropFlight_sched (s : State) (k : Nat) : (s.dropFlight k).sched = s.sched := rfl
@[simp] theorem dropFlight_house (s : State) (k : Nat) : (s.dropFlight k).house = s.house := rfl

/-! ## Contexts read back -/

theorem ctx_setCtx (s : State) (c d : Fin 11) (x : Ctx) :
    (s.setCtx c x).ctx d = if c = d then x else s.ctx d := by
  show (s.ctxs.set c.1 x c.2)[d.1] = if c = d then x else s.ctxs[d.1]
  rw [Vector.getElem_set]
  simp [Fin.ext_iff]

@[simp] theorem ctx_setCtx_same (s : State) (c : Fin 11) (x : Ctx) : (s.setCtx c x).ctx c = x := by
  simp [ctx_setCtx]

theorem ctx_setCtx_other (s : State) {c d : Fin 11} (x : Ctx) (h : c ≠ d) : (s.setCtx c x).ctx d = s.ctx d := by
  simp [ctx_setCtx, h]

@[simp] theorem ctx_modCtx_same (s : State) (c : Fin 11) (f : Ctx → Ctx) : (s.modCtx c f).ctx c = f (s.ctx c) := by
  simp [State.modCtx]

theorem ctx_modCtx_other (s : State) {c d : Fin 11} (f : Ctx → Ctx) (h : c ≠ d) : (s.modCtx c f).ctx d = s.ctx d := by
  simp [State.modCtx, ctx_setCtx, h]

/-! ## Registers of a context -/

@[simp] theorem setFile_cstate (x : Ctx) (r : RegName) (a : Vec) : (x.setFile r a).cstate = x.cstate := by
  cases r <;> simp only [Ctx.setFile] <;> (try split) <;> (try split) <;> rfl
@[simp] theorem setFile_pc (x : Ctx) (r : RegName) (a : Vec) : (x.setFile r a).pc = x.pc := by
  cases r <;> simp only [Ctx.setFile] <;> (try split) <;> (try split) <;> rfl
@[simp] theorem setFile_depth (x : Ctx) (r : RegName) (a : Vec) : (x.setFile r a).depth = x.depth := by
  cases r <;> simp only [Ctx.setFile] <;> (try split) <;> (try split) <;> rfl
@[simp] theorem setFile_pending (x : Ctx) (r : RegName) (a : Vec) : (x.setFile r a).pending = x.pending := by
  cases r <;> simp only [Ctx.setFile] <;> (try split) <;> (try split) <;> rfl
@[simp] theorem setFile_bypass (x : Ctx) (r : RegName) (a : Vec) : (x.setFile r a).bypass = x.bypass := by
  cases r <;> simp only [Ctx.setFile] <;> (try split) <;> (try split) <;> rfl
@[simp] theorem setFile_owed (x : Ctx) (r : RegName) (a : Vec) : (x.setFile r a).owed = x.owed := by
  cases r <;> simp only [Ctx.setFile] <;> (try split) <;> (try split) <;> rfl
@[simp] theorem setFile_delivering (x : Ctx) (r : RegName) (a : Vec) : (x.setFile r a).delivering = x.delivering := by
  cases r <;> simp only [Ctx.setFile] <;> (try split) <;> (try split) <;> rfl
@[simp] theorem setFile_settling (x : Ctx) (r : RegName) (a : Vec) : (x.setFile r a).settling = x.settling := by
  cases r <;> simp only [Ctx.setFile] <;> (try split) <;> (try split) <;> rfl
@[simp] theorem setFile_busy (x : Ctx) (r : RegName) (a : Vec) : (x.setFile r a).busy = x.busy := by
  cases r <;> simp only [Ctx.setFile] <;> (try split) <;> (try split) <;> rfl
@[simp] theorem setFile_deferMode (x : Ctx) (r : RegName) (a : Vec) : (x.setFile r a).deferMode = x.deferMode := by
  cases r <;> simp only [Ctx.setFile] <;> (try split) <;> (try split) <;> rfl
@[simp] theorem setFile_tmode (x : Ctx) (r : RegName) (a : Vec) : (x.setFile r a).tmode = x.tmode := by
  cases r <;> simp only [Ctx.setFile] <;> (try split) <;> (try split) <;> rfl
@[simp] theorem setFile_fpctl (x : Ctx) (r : RegName) (a : Vec) : (x.setFile r a).fpctl = x.fpctl := by
  cases r <;> simp only [Ctx.setFile] <;> (try split) <;> (try split) <;> rfl
@[simp] theorem setFile_gens (x : Ctx) (r : RegName) (a : Vec) : (x.setFile r a).gens = x.gens := by
  cases r <;> simp only [Ctx.setFile] <;> (try split) <;> (try split) <;> rfl
@[simp] theorem setFile_hamper (x : Ctx) (r : RegName) (a : Vec) : (x.setFile r a).hamper = x.hamper := by
  cases r <;> simp only [Ctx.setFile] <;> (try split) <;> (try split) <;> rfl
@[simp] theorem setFile_peak (x : Ctx) (r : RegName) (a : Vec) : (x.setFile r a).peak = x.peak := by
  cases r <;> simp only [Ctx.setFile] <;> (try split) <;> (try split) <;> rfl
@[simp] theorem setFile_carve (x : Ctx) (r : RegName) (a : Vec) : (x.setFile r a).carve = x.carve := by
  cases r <;> simp only [Ctx.setFile] <;> (try split) <;> (try split) <;> rfl
@[simp] theorem setFile_ovfl (x : Ctx) (r : RegName) (a : Vec) : (x.setFile r a).ovfl = x.ovfl := by
  cases r <;> simp only [Ctx.setFile] <;> (try split) <;> (try split) <;> rfl
@[simp] theorem setFile_loop (x : Ctx) (r : RegName) (a : Vec) : (x.setFile r a).loop = x.loop := by
  cases r <;> simp only [Ctx.setFile] <;> (try split) <;> (try split) <;> rfl
@[simp] theorem setFile_trapVec (x : Ctx) (r : RegName) (a : Vec) : (x.setFile r a).trapVec = x.trapVec := by
  cases r <;> simp only [Ctx.setFile] <;> (try split) <;> (try split) <;> rfl
@[simp] theorem setFile_trapCause (x : Ctx) (r : RegName) (a : Vec) : (x.setFile r a).trapCause = x.trapCause := by
  cases r <;> simp only [Ctx.setFile] <;> (try split) <;> (try split) <;> rfl
@[simp] theorem setFile_trapPc (x : Ctx) (r : RegName) (a : Vec) : (x.setFile r a).trapPc = x.trapPc := by
  cases r <;> simp only [Ctx.setFile] <;> (try split) <;> (try split) <;> rfl
@[simp] theorem setFile_trapInfo (x : Ctx) (r : RegName) (a : Vec) : (x.setFile r a).trapInfo = x.trapInfo := by
  cases r <;> simp only [Ctx.setFile] <;> (try split) <;> (try split) <;> rfl
@[simp] theorem setFile_trapXlat (x : Ctx) (r : RegName) (a : Vec) : (x.setFile r a).trapXlat = x.trapXlat := by
  cases r <;> simp only [Ctx.setFile] <;> (try split) <;> (try split) <;> rfl
@[simp] theorem setFile_trapRcause (x : Ctx) (r : RegName) (a : Vec) : (x.setFile r a).trapRcause = x.trapRcause := by
  cases r <;> simp only [Ctx.setFile] <;> (try split) <;> (try split) <;> rfl
@[simp] theorem setFile_trapRinfo (x : Ctx) (r : RegName) (a : Vec) : (x.setFile r a).trapRinfo = x.trapRinfo := by
  cases r <;> simp only [Ctx.setFile] <;> (try split) <;> (try split) <;> rfl
@[simp] theorem setFile_faults (x : Ctx) (r : RegName) (a : Vec) : (x.setFile r a).faults = x.faults := by
  cases r <;> simp only [Ctx.setFile] <;> (try split) <;> (try split) <;> rfl
@[simp] theorem setFile_exitValue (x : Ctx) (r : RegName) (a : Vec) : (x.setFile r a).exitValue = x.exitValue := by
  cases r <;> simp only [Ctx.setFile] <;> (try split) <;> (try split) <;> rfl
@[simp] theorem setFile_held (x : Ctx) (r : RegName) (a : Vec) : (x.setFile r a).held = x.held := by
  cases r <;> simp only [Ctx.setFile] <;> (try split) <;> (try split) <;> rfl
@[simp] theorem setFile_planeCfg (x : Ctx) (r : RegName) (a : Vec) : (x.setFile r a).planeCfg = x.planeCfg := by
  cases r <;> simp only [Ctx.setFile] <;> (try split) <;> (try split) <;> rfl
@[simp] theorem setFile_batchNext (x : Ctx) (r : RegName) (a : Vec) : (x.setFile r a).batchNext = x.batchNext := by
  cases r <;> simp only [Ctx.setFile] <;> (try split) <;> (try split) <;> rfl
@[simp] theorem setFile_batches (x : Ctx) (r : RegName) (a : Vec) : (x.setFile r a).batches = x.batches := by
  cases r <;> simp only [Ctx.setFile] <;> (try split) <;> (try split) <;> rfl
@[simp] theorem setFile_openOps (x : Ctx) (r : RegName) (a : Vec) : (x.setFile r a).openOps = x.openOps := by
  cases r <;> simp only [Ctx.setFile] <;> (try split) <;> (try split) <;> rfl
@[simp] theorem setFile_park (x : Ctx) (r : RegName) (a : Vec) : (x.setFile r a).park = x.park := by
  cases r <;> simp only [Ctx.setFile] <;> (try split) <;> (try split) <;> rfl
@[simp] theorem setFile_idle (x : Ctx) (r : RegName) (a : Vec) : (x.setFile r a).idle = x.idle := by
  cases r <;> simp only [Ctx.setFile] <;> (try split) <;> (try split) <;> rfl
@[simp] theorem setFile_stallUntil (x : Ctx) (r : RegName) (a : Vec) : (x.setFile r a).stallUntil = x.stallUntil := by
  cases r <;> simp only [Ctx.setFile] <;> (try split) <;> (try split) <;> rfl
@[simp] theorem setFile_yielded (x : Ctx) (r : RegName) (a : Vec) : (x.setFile r a).yielded = x.yielded := by
  cases r <;> simp only [Ctx.setFile] <;> (try split) <;> (try split) <;> rfl
@[simp] theorem setFile_startAt (x : Ctx) (r : RegName) (a : Vec) : (x.setFile r a).startAt = x.startAt := by
  cases r <;> simp only [Ctx.setFile] <;> (try split) <;> (try split) <;> rfl
@[simp] theorem setFile_tlbWait (x : Ctx) (r : RegName) (a : Vec) : (x.setFile r a).tlbWait = x.tlbWait := by
  cases r <;> simp only [Ctx.setFile] <;> (try split) <;> (try split) <;> rfl
@[simp] theorem setFile_acqQueued (x : Ctx) (r : RegName) (a : Vec) : (x.setFile r a).acqQueued = x.acqQueued := by
  cases r <;> simp only [Ctx.setFile] <;> (try split) <;> (try split) <;> rfl
@[simp] theorem setFile_barWait (x : Ctx) (r : RegName) (a : Vec) : (x.setFile r a).barWait = x.barWait := by
  cases r <;> simp only [Ctx.setFile] <;> (try split) <;> (try split) <;> rfl

@[simp] theorem setPending_cstate (x : Ctx) (rs : List RegName) : (x.setPending rs).cstate = x.cstate := rfl
@[simp] theorem setPending_pc (x : Ctx) (rs : List RegName) : (x.setPending rs).pc = x.pc := rfl
@[simp] theorem setPending_g (x : Ctx) (rs : List RegName) : (x.setPending rs).g = x.g := rfl
@[simp] theorem setPending_frames (x : Ctx) (rs : List RegName) : (x.setPending rs).frames = x.frames := rfl
@[simp] theorem setPending_ahead (x : Ctx) (rs : List RegName) : (x.setPending rs).ahead = x.ahead := rfl
@[simp] theorem setPending_depth (x : Ctx) (rs : List RegName) : (x.setPending rs).depth = x.depth := rfl
@[simp] theorem setPending_v (x : Ctx) (rs : List RegName) : (x.setPending rs).v = x.v := rfl
@[simp] theorem setPending_p (x : Ctx) (rs : List RegName) : (x.setPending rs).p = x.p := rfl
@[simp] theorem setPending_m (x : Ctx) (rs : List RegName) : (x.setPending rs).m = x.m := rfl
@[simp] theorem setPending_bypass (x : Ctx) (rs : List RegName) : (x.setPending rs).bypass = x.bypass := rfl
@[simp] theorem setPending_owed (x : Ctx) (rs : List RegName) : (x.setPending rs).owed = x.owed := rfl
@[simp] theorem setPending_delivering (x : Ctx) (rs : List RegName) : (x.setPending rs).delivering = x.delivering := rfl
@[simp] theorem setPending_settling (x : Ctx) (rs : List RegName) : (x.setPending rs).settling = x.settling := rfl
@[simp] theorem setPending_busy (x : Ctx) (rs : List RegName) : (x.setPending rs).busy = x.busy := rfl
@[simp] theorem setPending_deferMode (x : Ctx) (rs : List RegName) : (x.setPending rs).deferMode = x.deferMode := rfl
@[simp] theorem setPending_tmode (x : Ctx) (rs : List RegName) : (x.setPending rs).tmode = x.tmode := rfl
@[simp] theorem setPending_fpctl (x : Ctx) (rs : List RegName) : (x.setPending rs).fpctl = x.fpctl := rfl
@[simp] theorem setPending_gens (x : Ctx) (rs : List RegName) : (x.setPending rs).gens = x.gens := rfl
@[simp] theorem setPending_hamper (x : Ctx) (rs : List RegName) : (x.setPending rs).hamper = x.hamper := rfl
@[simp] theorem setPending_peak (x : Ctx) (rs : List RegName) : (x.setPending rs).peak = x.peak := rfl
@[simp] theorem setPending_carve (x : Ctx) (rs : List RegName) : (x.setPending rs).carve = x.carve := rfl
@[simp] theorem setPending_ovfl (x : Ctx) (rs : List RegName) : (x.setPending rs).ovfl = x.ovfl := rfl
@[simp] theorem setPending_loop (x : Ctx) (rs : List RegName) : (x.setPending rs).loop = x.loop := rfl
@[simp] theorem setPending_trapVec (x : Ctx) (rs : List RegName) : (x.setPending rs).trapVec = x.trapVec := rfl
@[simp] theorem setPending_trapCause (x : Ctx) (rs : List RegName) : (x.setPending rs).trapCause = x.trapCause := rfl
@[simp] theorem setPending_trapPc (x : Ctx) (rs : List RegName) : (x.setPending rs).trapPc = x.trapPc := rfl
@[simp] theorem setPending_trapInfo (x : Ctx) (rs : List RegName) : (x.setPending rs).trapInfo = x.trapInfo := rfl
@[simp] theorem setPending_trapXlat (x : Ctx) (rs : List RegName) : (x.setPending rs).trapXlat = x.trapXlat := rfl
@[simp] theorem setPending_trapRcause (x : Ctx) (rs : List RegName) : (x.setPending rs).trapRcause = x.trapRcause := rfl
@[simp] theorem setPending_trapRinfo (x : Ctx) (rs : List RegName) : (x.setPending rs).trapRinfo = x.trapRinfo := rfl
@[simp] theorem setPending_faults (x : Ctx) (rs : List RegName) : (x.setPending rs).faults = x.faults := rfl
@[simp] theorem setPending_exitValue (x : Ctx) (rs : List RegName) : (x.setPending rs).exitValue = x.exitValue := rfl
@[simp] theorem setPending_held (x : Ctx) (rs : List RegName) : (x.setPending rs).held = x.held := rfl
@[simp] theorem setPending_planeCfg (x : Ctx) (rs : List RegName) : (x.setPending rs).planeCfg = x.planeCfg := rfl
@[simp] theorem setPending_batchNext (x : Ctx) (rs : List RegName) : (x.setPending rs).batchNext = x.batchNext := rfl
@[simp] theorem setPending_batches (x : Ctx) (rs : List RegName) : (x.setPending rs).batches = x.batches := rfl
@[simp] theorem setPending_openOps (x : Ctx) (rs : List RegName) : (x.setPending rs).openOps = x.openOps := rfl
@[simp] theorem setPending_park (x : Ctx) (rs : List RegName) : (x.setPending rs).park = x.park := rfl
@[simp] theorem setPending_idle (x : Ctx) (rs : List RegName) : (x.setPending rs).idle = x.idle := rfl
@[simp] theorem setPending_stallUntil (x : Ctx) (rs : List RegName) : (x.setPending rs).stallUntil = x.stallUntil := rfl
@[simp] theorem setPending_yielded (x : Ctx) (rs : List RegName) : (x.setPending rs).yielded = x.yielded := rfl
@[simp] theorem setPending_startAt (x : Ctx) (rs : List RegName) : (x.setPending rs).startAt = x.startAt := rfl
@[simp] theorem setPending_tlbWait (x : Ctx) (rs : List RegName) : (x.setPending rs).tlbWait = x.tlbWait := rfl
@[simp] theorem setPending_acqQueued (x : Ctx) (rs : List RegName) : (x.setPending rs).acqQueued = x.acqQueued := rfl
@[simp] theorem setPending_barWait (x : Ctx) (rs : List RegName) : (x.setPending rs).barWait = x.barWait := rfl

@[simp] theorem clearPending_cstate (x : Ctx) (r : RegName) : (x.clearPending r).cstate = x.cstate := rfl
@[simp] theorem clearPending_pc (x : Ctx) (r : RegName) : (x.clearPending r).pc = x.pc := rfl
@[simp] theorem clearPending_g (x : Ctx) (r : RegName) : (x.clearPending r).g = x.g := rfl
@[simp] theorem clearPending_frames (x : Ctx) (r : RegName) : (x.clearPending r).frames = x.frames := rfl
@[simp] theorem clearPending_ahead (x : Ctx) (r : RegName) : (x.clearPending r).ahead = x.ahead := rfl
@[simp] theorem clearPending_depth (x : Ctx) (r : RegName) : (x.clearPending r).depth = x.depth := rfl
@[simp] theorem clearPending_v (x : Ctx) (r : RegName) : (x.clearPending r).v = x.v := rfl
@[simp] theorem clearPending_p (x : Ctx) (r : RegName) : (x.clearPending r).p = x.p := rfl
@[simp] theorem clearPending_m (x : Ctx) (r : RegName) : (x.clearPending r).m = x.m := rfl
@[simp] theorem clearPending_bypass (x : Ctx) (r : RegName) : (x.clearPending r).bypass = x.bypass := rfl
@[simp] theorem clearPending_owed (x : Ctx) (r : RegName) : (x.clearPending r).owed = x.owed := rfl
@[simp] theorem clearPending_delivering (x : Ctx) (r : RegName) : (x.clearPending r).delivering = x.delivering := rfl
@[simp] theorem clearPending_settling (x : Ctx) (r : RegName) : (x.clearPending r).settling = x.settling := rfl
@[simp] theorem clearPending_busy (x : Ctx) (r : RegName) : (x.clearPending r).busy = x.busy := rfl
@[simp] theorem clearPending_deferMode (x : Ctx) (r : RegName) : (x.clearPending r).deferMode = x.deferMode := rfl
@[simp] theorem clearPending_tmode (x : Ctx) (r : RegName) : (x.clearPending r).tmode = x.tmode := rfl
@[simp] theorem clearPending_fpctl (x : Ctx) (r : RegName) : (x.clearPending r).fpctl = x.fpctl := rfl
@[simp] theorem clearPending_gens (x : Ctx) (r : RegName) : (x.clearPending r).gens = x.gens := rfl
@[simp] theorem clearPending_hamper (x : Ctx) (r : RegName) : (x.clearPending r).hamper = x.hamper := rfl
@[simp] theorem clearPending_peak (x : Ctx) (r : RegName) : (x.clearPending r).peak = x.peak := rfl
@[simp] theorem clearPending_carve (x : Ctx) (r : RegName) : (x.clearPending r).carve = x.carve := rfl
@[simp] theorem clearPending_ovfl (x : Ctx) (r : RegName) : (x.clearPending r).ovfl = x.ovfl := rfl
@[simp] theorem clearPending_loop (x : Ctx) (r : RegName) : (x.clearPending r).loop = x.loop := rfl
@[simp] theorem clearPending_trapVec (x : Ctx) (r : RegName) : (x.clearPending r).trapVec = x.trapVec := rfl
@[simp] theorem clearPending_trapCause (x : Ctx) (r : RegName) : (x.clearPending r).trapCause = x.trapCause := rfl
@[simp] theorem clearPending_trapPc (x : Ctx) (r : RegName) : (x.clearPending r).trapPc = x.trapPc := rfl
@[simp] theorem clearPending_trapInfo (x : Ctx) (r : RegName) : (x.clearPending r).trapInfo = x.trapInfo := rfl
@[simp] theorem clearPending_trapXlat (x : Ctx) (r : RegName) : (x.clearPending r).trapXlat = x.trapXlat := rfl
@[simp] theorem clearPending_trapRcause (x : Ctx) (r : RegName) : (x.clearPending r).trapRcause = x.trapRcause := rfl
@[simp] theorem clearPending_trapRinfo (x : Ctx) (r : RegName) : (x.clearPending r).trapRinfo = x.trapRinfo := rfl
@[simp] theorem clearPending_faults (x : Ctx) (r : RegName) : (x.clearPending r).faults = x.faults := rfl
@[simp] theorem clearPending_exitValue (x : Ctx) (r : RegName) : (x.clearPending r).exitValue = x.exitValue := rfl
@[simp] theorem clearPending_held (x : Ctx) (r : RegName) : (x.clearPending r).held = x.held := rfl
@[simp] theorem clearPending_planeCfg (x : Ctx) (r : RegName) : (x.clearPending r).planeCfg = x.planeCfg := rfl
@[simp] theorem clearPending_batchNext (x : Ctx) (r : RegName) : (x.clearPending r).batchNext = x.batchNext := rfl
@[simp] theorem clearPending_batches (x : Ctx) (r : RegName) : (x.clearPending r).batches = x.batches := rfl
@[simp] theorem clearPending_openOps (x : Ctx) (r : RegName) : (x.clearPending r).openOps = x.openOps := rfl
@[simp] theorem clearPending_park (x : Ctx) (r : RegName) : (x.clearPending r).park = x.park := rfl
@[simp] theorem clearPending_idle (x : Ctx) (r : RegName) : (x.clearPending r).idle = x.idle := rfl
@[simp] theorem clearPending_stallUntil (x : Ctx) (r : RegName) : (x.clearPending r).stallUntil = x.stallUntil := rfl
@[simp] theorem clearPending_yielded (x : Ctx) (r : RegName) : (x.clearPending r).yielded = x.yielded := rfl
@[simp] theorem clearPending_startAt (x : Ctx) (r : RegName) : (x.clearPending r).startAt = x.startAt := rfl
@[simp] theorem clearPending_tlbWait (x : Ctx) (r : RegName) : (x.clearPending r).tlbWait = x.tlbWait := rfl
@[simp] theorem clearPending_acqQueued (x : Ctx) (r : RegName) : (x.clearPending r).acqQueued = x.acqQueued := rfl
@[simp] theorem clearPending_barWait (x : Ctx) (r : RegName) : (x.clearPending r).barWait = x.barWait := rfl

@[simp] theorem forget_cstate (x : Ctx) (r : RegName) : (x.forget r).cstate = x.cstate := rfl
@[simp] theorem forget_pc (x : Ctx) (r : RegName) : (x.forget r).pc = x.pc := rfl
@[simp] theorem forget_g (x : Ctx) (r : RegName) : (x.forget r).g = x.g := rfl
@[simp] theorem forget_frames (x : Ctx) (r : RegName) : (x.forget r).frames = x.frames := rfl
@[simp] theorem forget_ahead (x : Ctx) (r : RegName) : (x.forget r).ahead = x.ahead := rfl
@[simp] theorem forget_depth (x : Ctx) (r : RegName) : (x.forget r).depth = x.depth := rfl
@[simp] theorem forget_v (x : Ctx) (r : RegName) : (x.forget r).v = x.v := rfl
@[simp] theorem forget_p (x : Ctx) (r : RegName) : (x.forget r).p = x.p := rfl
@[simp] theorem forget_m (x : Ctx) (r : RegName) : (x.forget r).m = x.m := rfl
@[simp] theorem forget_pending (x : Ctx) (r : RegName) : (x.forget r).pending = x.pending := rfl
@[simp] theorem forget_owed (x : Ctx) (r : RegName) : (x.forget r).owed = x.owed := rfl
@[simp] theorem forget_delivering (x : Ctx) (r : RegName) : (x.forget r).delivering = x.delivering := rfl
@[simp] theorem forget_settling (x : Ctx) (r : RegName) : (x.forget r).settling = x.settling := rfl
@[simp] theorem forget_busy (x : Ctx) (r : RegName) : (x.forget r).busy = x.busy := rfl
@[simp] theorem forget_deferMode (x : Ctx) (r : RegName) : (x.forget r).deferMode = x.deferMode := rfl
@[simp] theorem forget_tmode (x : Ctx) (r : RegName) : (x.forget r).tmode = x.tmode := rfl
@[simp] theorem forget_fpctl (x : Ctx) (r : RegName) : (x.forget r).fpctl = x.fpctl := rfl
@[simp] theorem forget_gens (x : Ctx) (r : RegName) : (x.forget r).gens = x.gens := rfl
@[simp] theorem forget_hamper (x : Ctx) (r : RegName) : (x.forget r).hamper = x.hamper := rfl
@[simp] theorem forget_peak (x : Ctx) (r : RegName) : (x.forget r).peak = x.peak := rfl
@[simp] theorem forget_carve (x : Ctx) (r : RegName) : (x.forget r).carve = x.carve := rfl
@[simp] theorem forget_ovfl (x : Ctx) (r : RegName) : (x.forget r).ovfl = x.ovfl := rfl
@[simp] theorem forget_loop (x : Ctx) (r : RegName) : (x.forget r).loop = x.loop := rfl
@[simp] theorem forget_trapVec (x : Ctx) (r : RegName) : (x.forget r).trapVec = x.trapVec := rfl
@[simp] theorem forget_trapCause (x : Ctx) (r : RegName) : (x.forget r).trapCause = x.trapCause := rfl
@[simp] theorem forget_trapPc (x : Ctx) (r : RegName) : (x.forget r).trapPc = x.trapPc := rfl
@[simp] theorem forget_trapInfo (x : Ctx) (r : RegName) : (x.forget r).trapInfo = x.trapInfo := rfl
@[simp] theorem forget_trapXlat (x : Ctx) (r : RegName) : (x.forget r).trapXlat = x.trapXlat := rfl
@[simp] theorem forget_trapRcause (x : Ctx) (r : RegName) : (x.forget r).trapRcause = x.trapRcause := rfl
@[simp] theorem forget_trapRinfo (x : Ctx) (r : RegName) : (x.forget r).trapRinfo = x.trapRinfo := rfl
@[simp] theorem forget_faults (x : Ctx) (r : RegName) : (x.forget r).faults = x.faults := rfl
@[simp] theorem forget_exitValue (x : Ctx) (r : RegName) : (x.forget r).exitValue = x.exitValue := rfl
@[simp] theorem forget_held (x : Ctx) (r : RegName) : (x.forget r).held = x.held := rfl
@[simp] theorem forget_planeCfg (x : Ctx) (r : RegName) : (x.forget r).planeCfg = x.planeCfg := rfl
@[simp] theorem forget_batchNext (x : Ctx) (r : RegName) : (x.forget r).batchNext = x.batchNext := rfl
@[simp] theorem forget_batches (x : Ctx) (r : RegName) : (x.forget r).batches = x.batches := rfl
@[simp] theorem forget_openOps (x : Ctx) (r : RegName) : (x.forget r).openOps = x.openOps := rfl
@[simp] theorem forget_park (x : Ctx) (r : RegName) : (x.forget r).park = x.park := rfl
@[simp] theorem forget_idle (x : Ctx) (r : RegName) : (x.forget r).idle = x.idle := rfl
@[simp] theorem forget_stallUntil (x : Ctx) (r : RegName) : (x.forget r).stallUntil = x.stallUntil := rfl
@[simp] theorem forget_yielded (x : Ctx) (r : RegName) : (x.forget r).yielded = x.yielded := rfl
@[simp] theorem forget_startAt (x : Ctx) (r : RegName) : (x.forget r).startAt = x.startAt := rfl
@[simp] theorem forget_tlbWait (x : Ctx) (r : RegName) : (x.forget r).tlbWait = x.tlbWait := rfl
@[simp] theorem forget_acqQueued (x : Ctx) (r : RegName) : (x.forget r).acqQueued = x.acqQueued := rfl
@[simp] theorem forget_barWait (x : Ctx) (r : RegName) : (x.forget r).barWait = x.barWait := rfl

@[simp] theorem wake_cstate (x : Ctx) : x.wake.cstate = x.cstate := rfl
@[simp] theorem wake_pc (x : Ctx) : x.wake.pc = x.pc := rfl
@[simp] theorem wake_g (x : Ctx) : x.wake.g = x.g := rfl
@[simp] theorem wake_frames (x : Ctx) : x.wake.frames = x.frames := rfl
@[simp] theorem wake_ahead (x : Ctx) : x.wake.ahead = x.ahead := rfl
@[simp] theorem wake_depth (x : Ctx) : x.wake.depth = x.depth := rfl
@[simp] theorem wake_v (x : Ctx) : x.wake.v = x.v := rfl
@[simp] theorem wake_p (x : Ctx) : x.wake.p = x.p := rfl
@[simp] theorem wake_m (x : Ctx) : x.wake.m = x.m := rfl
@[simp] theorem wake_pending (x : Ctx) : x.wake.pending = x.pending := rfl
@[simp] theorem wake_bypass (x : Ctx) : x.wake.bypass = x.bypass := rfl
@[simp] theorem wake_owed (x : Ctx) : x.wake.owed = x.owed := rfl
@[simp] theorem wake_delivering (x : Ctx) : x.wake.delivering = x.delivering := rfl
@[simp] theorem wake_settling (x : Ctx) : x.wake.settling = x.settling := rfl
@[simp] theorem wake_busy (x : Ctx) : x.wake.busy = x.busy := rfl
@[simp] theorem wake_deferMode (x : Ctx) : x.wake.deferMode = x.deferMode := rfl
@[simp] theorem wake_tmode (x : Ctx) : x.wake.tmode = x.tmode := rfl
@[simp] theorem wake_fpctl (x : Ctx) : x.wake.fpctl = x.fpctl := rfl
@[simp] theorem wake_gens (x : Ctx) : x.wake.gens = x.gens := rfl
@[simp] theorem wake_hamper (x : Ctx) : x.wake.hamper = x.hamper := rfl
@[simp] theorem wake_peak (x : Ctx) : x.wake.peak = x.peak := rfl
@[simp] theorem wake_carve (x : Ctx) : x.wake.carve = x.carve := rfl
@[simp] theorem wake_ovfl (x : Ctx) : x.wake.ovfl = x.ovfl := rfl
@[simp] theorem wake_loop (x : Ctx) : x.wake.loop = x.loop := rfl
@[simp] theorem wake_trapVec (x : Ctx) : x.wake.trapVec = x.trapVec := rfl
@[simp] theorem wake_trapCause (x : Ctx) : x.wake.trapCause = x.trapCause := rfl
@[simp] theorem wake_trapPc (x : Ctx) : x.wake.trapPc = x.trapPc := rfl
@[simp] theorem wake_trapInfo (x : Ctx) : x.wake.trapInfo = x.trapInfo := rfl
@[simp] theorem wake_trapXlat (x : Ctx) : x.wake.trapXlat = x.trapXlat := rfl
@[simp] theorem wake_trapRcause (x : Ctx) : x.wake.trapRcause = x.trapRcause := rfl
@[simp] theorem wake_trapRinfo (x : Ctx) : x.wake.trapRinfo = x.trapRinfo := rfl
@[simp] theorem wake_faults (x : Ctx) : x.wake.faults = x.faults := rfl
@[simp] theorem wake_exitValue (x : Ctx) : x.wake.exitValue = x.exitValue := rfl
@[simp] theorem wake_held (x : Ctx) : x.wake.held = x.held := rfl
@[simp] theorem wake_planeCfg (x : Ctx) : x.wake.planeCfg = x.planeCfg := rfl
@[simp] theorem wake_batchNext (x : Ctx) : x.wake.batchNext = x.batchNext := rfl
@[simp] theorem wake_batches (x : Ctx) : x.wake.batches = x.batches := rfl
@[simp] theorem wake_openOps (x : Ctx) : x.wake.openOps = x.openOps := rfl
@[simp] theorem wake_park (x : Ctx) : x.wake.park = x.park := rfl
@[simp] theorem wake_stallUntil (x : Ctx) : x.wake.stallUntil = x.stallUntil := rfl
@[simp] theorem wake_yielded (x : Ctx) : x.wake.yielded = x.yielded := rfl
@[simp] theorem wake_startAt (x : Ctx) : x.wake.startAt = x.startAt := rfl
@[simp] theorem wake_tlbWait (x : Ctx) : x.wake.tlbWait = x.tlbWait := rfl
@[simp] theorem wake_acqQueued (x : Ctx) : x.wake.acqQueued = x.acqQueued := rfl
@[simp] theorem wake_barWait (x : Ctx) : x.wake.barWait = x.barWait := rfl

end Sys2Proof.Laws
end

