-- ==== Sys2Proof/Laws/Issue.lean ====
section
/-! SUPPORT. What planning an instruction's issue can answer, what it takes at issue, and what retiring
leaves alone. -/

namespace Sys2Proof.Laws

open Sys2Proof Sys2Proof.Machine Sys2Proof.Claims

/-- What taking leaves of the state: everything but the context's generators, the streams and the count
of free values. -/
structure Taken (s : State) (c : Fin 11) (t : State) : Prop where
  eq : ∃ gens streams tick, t =
    { (s.modCtx c (fun x => { x with gens := gens })) with
      graph := { s.graph with streams := streams }
      tick := tick }

/-- A context whose generators are set to what they are is unchanged. -/
theorem modCtx_gens_self (s : State) (c : Fin 11) :
    s.modCtx c (fun x => { x with gens := (s.ctx c).gens }) = s := by
  have h : s.ctxs.set c.1 (s.ctx c) c.2 = s.ctxs := Vector.set_getElem_self ..
  simp only [State.modCtx, State.setCtx, h]

theorem Taken.refl (s : State) (c : Fin 11) : Taken s c s :=
  ⟨(s.ctx c).gens, s.graph.streams, s.tick, by rw [modCtx_gens_self]⟩

/-- Streams changed one by one change nothing but the streams. -/
theorem foldl_modStream (c : Fin 11) (f : State → BitVec 5 → Stream → Stream) (l : List (BitVec 5)) (s : State) :
    ∃ streams, l.foldl (fun s n => s.modStream c n (f s n)) s =
      { s with graph := { s.graph with streams := streams } } := by
  induction l generalizing s with
  | nil => exact ⟨s.graph.streams, rfl⟩
  | cons n l ih =>
    obtain ⟨ss, h⟩ := ih (s.modStream c n (f s n))
    exact ⟨ss, by rw [List.foldl_cons, h]; rfl⟩

/-- What an instruction takes changes only these parts of its entry and of the state. -/
theorem take_spec (s : State) (c : Fin 11) (e : Entry) (bound : List (BitVec 5)) :
    (∃ d pd cl p, (s.take c e bound).1 = { e with draws := d, pushDraws := pd, claims := cl, push := p }) ∧
      Taken s c (s.take c e bound).2 := by
  unfold State.take
  generalize s.claimsOf c bound = cp
  obtain ⟨claims, push⟩ := cp
  dsimp only
  split
  · exact ⟨⟨e.draws, e.pushDraws, e.claims, e.push, rfl⟩, Taken.refl s c⟩
  · refine ⟨⟨_, _, claims, push, rfl⟩, ?_⟩
    dsimp only
    generalize hg : (if push.isSome = true then _ else _ : List (BitVec 32) × Vector (BitVec 32) 33) = g2
    generalize (if (e.rm == .stoch && freeDrawing e.op && foldRounds e.op e.w) = true then s.tick + 66 else s.tick) = tick
    obtain ⟨ss, h⟩ := foldl_modStream c (fun s _ b => if b.out then
        { b with claimed := b.claimed + 1, buf := b.buf ++ [⟨b.claimed, none, e.pc, g2.1, b.rm, none, none, [], (s.ctx c).inh⟩] }
      else { b with claimed := b.claimed + 1 }) bound
        ({ s with tick := tick }.modCtx c (fun x => { x with gens := g2.2 }))
    exact ⟨g2.2, ss, tick, h⟩

/-- What an instruction that runs has read of itself. -/
structure OfSelf (s : State) (c : Fin 11) (op : Opcode) (w : Fields) (e : Entry) : Prop where
  code : e.op = op
  fields : e.w = w
  pc : e.pc = (s.ctx c).pc
  cap : e.cap = []
  rm : e.rm = (s.ctx c).effRm w
  sat : e.sat = (s.ctx c).sat
  fmt : s.issueFormat op w = some e.fmt
  step : e.addrStep = (s.ctx c).loopStep
  residual : e.residual = false
  depth : e.depth = (s.ctx c).depth
  seq : e.seq = s.nextId
  parcel : e.parcel = (s.ctx c).parcelOf op w

/-- Of two answers the other is given where the first is not the one given. -/
theorem of_ite {α : Type} {c : Prop} [Decidable c] {p q r : α} (hp : p ≠ r) (h : (if c then p else q) = r) :
    ¬c ∧ q = r := by
  by_cases hc : c
  · rw [if_pos hc] at h
    exact absurd h hp
  · rw [if_neg hc] at h
    exact ⟨hc, h⟩

/-- What planning can answer where an instruction runs: an entry of itself, and what it takes. -/
theorem plan_run {s : State} {c : Fin 11} {op : Opcode} {w : Fields} {e : Entry} {t : State}
    (h : s.plan c op w = .run e t) : OfSelf s c op w e ∧ Taken s c t := by
  unfold State.plan at h
  extract_lets x src dst bound gp late stoch can at h
  clear_value can stoch late gp bound dst src
  replace h := (of_ite (by simp) h).2
  replace h := (of_ite (by simp) h).2
  replace h := (of_ite (by simp) h).2
  replace h := (of_ite (by simp) h).2
  replace h := (of_ite (by simp) h).2
  replace h := (of_ite (by simp) h).2
  generalize s.streamWrong c op src dst bound = a1 at h
  cases a1 with
  | some _ => cases h
  | none =>
    dsimp only at h
    cases hfmt : s.issueFormat op w with
    | none => rw [hfmt] at h; cases h
    | some fmt =>
      rw [hfmt] at h
      dsimp only at h
      replace h := (of_ite (by simp) h).2
      generalize s.streamPast c bound = a2 at h
      cases a2 with
      | some _ => cases h
      | none =>
        dsimp only at h
        obtain ⟨⟨d, pd, cl, p, he⟩, ht⟩ := take_spec s c (x.entry op w fmt s.nextId) bound
        generalize s.take c (x.entry op w fmt s.nextId) bound = tk at h he ht
        replace h := (of_ite (by simp) h).2
        replace h := (of_ite (by intro h'; split at h' <;> (try split at h') <;> simp at h') h).2
        replace h := (of_ite (by simp) h).2
        replace h := (of_ite (by simp) h).2
        injection h with h1 h2
        subst h1 h2
        rw [he]
        exact ⟨⟨rfl, rfl, rfl, rfl, rfl, rfl, hfmt, rfl, rfl, rfl, rfl, rfl⟩, ht⟩

/-- A deferred instruction has taken what it takes. -/
theorem plan_defer {s : State} {c : Fin 11} {op : Opcode} {w : Fields} {e : Entry} {t : State}
    (h : s.plan c op w = .defer e t) : Taken s c t := by
  unfold State.plan at h
  extract_lets x src dst bound gp late stoch can at h
  clear_value can stoch late gp bound dst src
  replace h := (of_ite (by simp) h).2
  replace h := (of_ite (by simp) h).2
  replace h := (of_ite (by simp) h).2
  replace h := (of_ite (by simp) h).2
  replace h := (of_ite (by simp) h).2
  replace h := (of_ite (by simp) h).2
  generalize s.streamWrong c op src dst bound = a1 at h
  cases a1 with
  | some _ => cases h
  | none =>
    dsimp only at h
    cases hfmt : s.issueFormat op w with
    | none => rw [hfmt] at h; cases h
    | some fmt =>
      rw [hfmt] at h
      dsimp only at h
      replace h := (of_ite (by simp) h).2
      generalize s.streamPast c bound = a2 at h
      cases a2 with
      | some _ => cases h
      | none =>
        dsimp only at h
        obtain ⟨⟨d, pd, cl, p, he⟩, ht⟩ := take_spec s c (x.entry op w fmt s.nextId) bound
        generalize s.take c (x.entry op w fmt s.nextId) bound = tk at h he ht
        replace h := (of_ite (by simp) h).2
        split at h
        · replace h := (of_ite (by simp) h).2
          replace h := (of_ite (by simp) h).2
          injection h with h1 h2
          subst h2
          exact ht
        · replace h := (of_ite (by simp) h).2
          split at h <;> cases h

/-! ## What taking leaves alone -/

theorem Taken.cur {s t : State} {c : Fin 11} (h : Taken s c t) : t.cur = s.cur := by
  obtain ⟨g, ss, tk, rfl⟩ := h.eq; rfl

theorem Taken.mem {s t : State} {c : Fin 11} (h : Taken s c t) : t.mem = s.mem := by
  obtain ⟨g, ss, tk, rfl⟩ := h.eq; rfl

theorem Taken.now {s t : State} {c : Fin 11} (h : Taken s c t) : t.now = s.now := by
  obtain ⟨g, ss, tk, rfl⟩ := h.eq; rfl

theorem Taken.ctx {s t : State} {c : Fin 11} (h : Taken s c t) :
    ∃ g, t.ctx c = { s.ctx c with gens := g } := by
  obtain ⟨g, ss, tk, rfl⟩ := h.eq
  exact ⟨g, ctx_modCtx_same s c (fun x => { x with gens := g })⟩

/-! ## Issuing -/

/-- What an instruction takes leaves the turn. -/
theorem runs_cur {s : State} {op : Opcode} {w : Fields} {e : Entry} {t : State} (h : Runs s op w e t) :
    t.cur = s.cur := (plan_run h.plan).2.cur

/-- An instruction that runs comes to what its body answers. -/
theorem issue_runs {s : State} {op : Opcode} {w : Fields} {e : Entry} {t : State} (h : Runs s op w e t)
    (body : Body) : issue op w body s = .next (s.finish t.cur e (body t.cur e t)) := by
  rw [runs_cur h]
  simp [issue, powered, h.power, State.issueOn, h.live, h.plan]

/-- An entry carries the fields of its instruction. -/
theorem runs_fields {s : State} {op : Opcode} {w : Fields} {e : Entry} {t : State} (h : Runs s op w e t) :
    e.w = w := (plan_run h.plan).1.fields

/-! ## Issuing in a clear state -/

/-- With nothing pending no register is blocked. -/
theorem blocked_empty {x : Ctx} (h : x.pending = []) (r : RegName) : x.blocked r = false := by
  unfold Ctx.blocked
  split
  · rfl
  · split <;> simp [h]

/-- With no stream no register is bound. -/
theorem bound_empty {s : State} (h : s.graph.streams = []) (c : Fin 11) (rs) : boundRegs s c rs = [] := by
  simp [boundRegs, h]

/-- With nothing pending no operand waits. -/
theorem pendingOf_empty {x : Ctx} (h : x.pending = []) (b rs) : x.pendingOf b rs = [] := by
  simp [Ctx.pendingOf, blocked_empty h]

/-- With an empty hamper nothing is awaited. -/
theorem awaited_empty {x : Ctx} (h : x.hamper = []) (d) : x.awaited d = false := by
  simp [Ctx.awaited, h]

/-- In a clear state no instruction is held back at issue. -/
theorem barred_clear {s : State} (h : Clear s) (op w) : s.barred s.cur op w = false := by
  have h1 : s.drained s.cur = true := by
    unfold State.drained; split
    · simp [h.flights]
    · simp [show (s.ctx s.cur).hamper = [] from h.hamper, State.holding, h.flights]
  simp [State.barred, h1, State.holding, h.flights]

/-! ## What finishing an instruction comes to -/

theorem finish_done (s0 : State) (c : Fin 11) (e : Entry) (r : List (RegName × Vec)) (s : State) :
    s0.finish c e (.done r s) = s.retire c e r := rfl

theorem finish_jump (s0 : State) (c : Fin 11) (e : Entry) (r : List (RegName × Vec)) (s : State) (t : Word) :
    s0.finish c e (.jump r s t) = s.retireTo c e r t := rfl

theorem finish_trap (s0 : State) (c : Fin 11) (e : Entry) (k : BitVec 8) (i : Word) (x : Option Word) :
    s0.finish c e (.trap k i x) = s0.takeTrap c k e.pc i x none := rfl

theorem finish_trapIn (s0 s : State) (c : Fin 11) (e : Entry) (k : BitVec 8) (i : Word) (x : Option Word) :
    s0.finish c e (.trapIn s k i x) = s.takeTrap c k e.pc i x none := rfl

theorem finish_stay (s0 s : State) (c : Fin 11) (e : Entry) :
    s0.finish c e (.stay s) = (s.untake s0 c).waiting c := rfl

theorem finish_whole (s0 s : State) (c : Fin 11) (e : Entry) : s0.finish c e (.whole s) = s := rfl

end Sys2Proof.Laws
end

