-- ==== Sys2Proof/Laws/Exec.lean ====
section
/-! SUPPORT. What running an instruction comes to: every meaning but LINC's and YIELD's is the issue of a body. -/

namespace Sys2Proof.Laws

open Sys2Proof Sys2Proof.Machine Sys2Proof.Claims

/-- Whether an opcode's meaning is the issue of some body under its own opcode and fields. -/
def Issued (op : Opcode) : Prop :=
  ∀ w, ∃ body : Body, ∀ s, exec (Instr.ofOp op w) s = issue op w body s

/-- Opcodes of the table, part 1. -/
def opcodes1 : List Opcode := [
    .nop, .br, .jmp, .call, .callr, .ret, .jp, .waitp, .loop, .start, .join, .exit, .trap, .defer, .park,
    .add, .sub, .mul, .mulh, .mulhu, .div, .divu, .rem, .remu, .and, .or, .xor, .andn, .shl, .shr, .sar,
    .rot, .min, .max, .minu, .maxu, .clz, .ctz, .popc, .bext, .bins, .sext, .zext, .mov, .movl, .sel, .cmp,
    .pset, .pmov, .addr, .fadd, .fsub, .fmul, .ffma, .fdiv, .fsqrt, .fmin, .fmax, .fabs, .fneg]

theorem issued1 : ∀ op ∈ opcodes1, Issued op := by
  simp only [opcodes1, List.forall_mem_cons, List.not_mem_nil, false_implies, implies_true, and_true]
  refine ⟨?_, ?_, ?_, ?_, ?_, ?_, ?_, ?_, ?_, ?_, ?_, ?_, ?_, ?_, ?_, ?_, ?_, ?_, ?_, ?_, ?_, ?_, ?_, ?_, ?_, ?_, ?_, ?_, ?_, ?_, ?_, ?_, ?_, ?_, ?_, ?_, ?_, ?_, ?_, ?_, ?_, ?_, ?_, ?_, ?_, ?_, ?_, ?_, ?_, ?_, ?_, ?_, ?_, ?_, ?_, ?_, ?_, ?_, ?_, ?_⟩ <;> exact fun w => ⟨_, fun _ => rfl⟩

/-- Opcodes of the table, part 2. -/
def opcodes2 : List Opcode := [
    .fcmp, .fcvt, .fclass, .ld, .st, .ldv, .stv, .ldx, .stx, .atom, .cas, .pref, .bbind, .acq, .rel, .btry,
    .fence, .lbfence, .isync, .ract, .rcon, .rwb, .rpre, .rstat, .rref, .sbind, .sfree, .sdrain, .sstat,
    .iload, .irun, .iwait, .ipoll, .idrop, .send, .recv, .put, .get, .coll, .bar, .barc, .vadd, .vsub,
    .vmul, .vfma, .vfms, .vrcp, .vrsq, .vsqrt, .vexp2, .vlog2, .vtanh, .vmin, .vmax, .vabs, .vneg, .vand,
    .vor, .vxor, .vshl]

theorem issued2 : ∀ op ∈ opcodes2, Issued op := by
  simp only [opcodes2, List.forall_mem_cons, List.not_mem_nil, false_implies, implies_true, and_true]
  refine ⟨?_, ?_, ?_, ?_, ?_, ?_, ?_, ?_, ?_, ?_, ?_, ?_, ?_, ?_, ?_, ?_, ?_, ?_, ?_, ?_, ?_, ?_, ?_, ?_, ?_, ?_, ?_, ?_, ?_, ?_, ?_, ?_, ?_, ?_, ?_, ?_, ?_, ?_, ?_, ?_, ?_, ?_, ?_, ?_, ?_, ?_, ?_, ?_, ?_, ?_, ?_, ?_, ?_, ?_, ?_, ?_, ?_, ?_, ?_, ?_⟩ <;> exact fun w => ⟨_, fun _ => rfl⟩

/-- Opcodes of the table, part 3. -/
def opcodes3 : List Opcode := [
    .vshr, .vsar, .vcmp, .vsel, .vbcast, .vext, .vins, .vshuf, .vperm, .vrot, .vred, .vscan, .vcvt, .vcvto,
    .vpack, .vunpk, .vdot, .vtag, .vargm, .viota, .vmsk, .vcnt, .vclamp, .vqnt, .mmas, .mmav, .mmar,
    .mcommit, .mwait, .mpoll, .mcmd, .mcap, .aballoc, .abfree, .abzero, .abread, .abwrite, .mtq, .mstat,
    .wload, .wswap, .wpass, .wres, .wchk, .wgacc, .wcfg, .wstat, .launch, .owait, .opoll, .csrr, .csrw,
    .csrs, .csrc, .trapret, .tlbinv, .evrd, .evclr, .idle]

theorem issued3 : ∀ op ∈ opcodes3, Issued op := by
  simp only [opcodes3, List.forall_mem_cons, List.not_mem_nil, false_implies, implies_true, and_true]
  refine ⟨?_, ?_, ?_, ?_, ?_, ?_, ?_, ?_, ?_, ?_, ?_, ?_, ?_, ?_, ?_, ?_, ?_, ?_, ?_, ?_, ?_, ?_, ?_, ?_, ?_, ?_, ?_, ?_, ?_, ?_, ?_, ?_, ?_, ?_, ?_, ?_, ?_, ?_, ?_, ?_, ?_, ?_, ?_, ?_, ?_, ?_, ?_, ?_, ?_, ?_, ?_, ?_, ?_, ?_, ?_, ?_, ?_, ?_, ?_⟩ <;> exact fun w => ⟨_, fun _ => rfl⟩

/-- An instruction of the opcode table issues a body under its own opcode and fields. -/
theorem exec_issue (op : Opcode) (w : Fields) (h1 : op ≠ .linc) (h2 : op ≠ .yield) :
    ∃ body : Body, ∀ s, exec (Instr.ofOp op w) s = issue op w body s := by
  have h : op ∈ opcodes1 ++ opcodes2 ++ opcodes3 := by
    revert h1 h2
    cases op <;> decide
  simp only [List.mem_append] at h
  rcases h with (h | h) | h
  · exact issued1 op h w
  · exact issued2 op h w
  · exact issued3 op h w

end Sys2Proof.Laws
end

