-- ==== Sys2Proof/Laws/Memory.lean ====
section
/-! SUPPORT. Memory by key: a byte read back after a write, and the canonical form, which every memory
operation keeps. -/

namespace Sys2Proof.Laws

open Sys2Proof Sys2Proof.Machine

/-! ## Lists of cells in canonical form -/

/-- A canonical list from `lo` on is canonical from any lower key on. -/
theorem cellsWf_mono {lo hi : Nat} {l : List Host.Cell} (h : cellsWf hi l = true) (hlo : lo ≤ hi) :
    cellsWf lo l = true := by
  cases l with
  | nil => rfl
  | cons p rest =>
    obtain ⟨k, b⟩ := p
    simp only [cellsWf, Bool.and_eq_true, decide_eq_true_eq] at *
    exact ⟨⟨by omega, h.1.2⟩, h.2⟩

/-- Below its first key a canonical list reads as zero. -/
theorem cellsGet_below {lo k : Nat} {l : List Host.Cell} (h : cellsWf lo l = true) (hk : k < lo) :
    cellsGet k l = 0 := by
  cases l with
  | nil => rfl
  | cons p rest =>
    obtain ⟨a, b⟩ := p
    simp only [cellsWf, Bool.and_eq_true, decide_eq_true_eq] at h
    have h1 : a ≠ k := by omega
    have h2 : k < a := by omega
    simp [cellsGet, h1, h2]

/-- Setting a byte keeps the canonical form. -/
theorem cellsSet_wf {k : Nat} {v : Byte} {lo : Nat} {l : List Host.Cell} (h : cellsWf lo l = true) (hk : lo ≤ k) :
    cellsWf lo (cellsSet k v l) = true := by
  induction l generalizing lo with
  | nil =>
    simp only [cellsSet]
    split
    · rfl
    · rename_i hv
      simp only [cellsWf, Bool.and_eq_true, decide_eq_true_eq, bne_iff_ne]
      exact ⟨⟨hk, hv⟩, trivial⟩
  | cons p rest ih =>
    obtain ⟨a, b⟩ := p
    simp only [cellsWf, Bool.and_eq_true, decide_eq_true_eq] at h
    obtain ⟨⟨h1, h2⟩, h3⟩ := h
    simp only [cellsSet]
    split
    · split
      · simp only [cellsWf, Bool.and_eq_true, decide_eq_true_eq]
        exact ⟨⟨h1, h2⟩, h3⟩
      · rename_i hlt hv
        simp only [cellsWf, Bool.and_eq_true, decide_eq_true_eq, bne_iff_ne]
        exact ⟨⟨hk, hv⟩, ⟨by omega, bne_iff_ne.mp h2⟩, h3⟩
    · split
      · split
        · exact cellsWf_mono h3 (by omega)
        · rename_i heq hv
          simp only [cellsWf, Bool.and_eq_true, decide_eq_true_eq, bne_iff_ne]
          exact ⟨⟨hk, hv⟩, heq ▸ h3⟩
      · simp only [cellsWf, Bool.and_eq_true, decide_eq_true_eq]
        exact ⟨⟨h1, h2⟩, ih h3 (by omega)⟩

/-- The byte set is read back. -/
theorem cellsGet_set_same {k : Nat} {v : Byte} {lo : Nat} {l : List Host.Cell} (h : cellsWf lo l = true) :
    cellsGet k (cellsSet k v l) = v := by
  induction l generalizing lo with
  | nil =>
    simp only [cellsSet]
    split <;> rename_i hv
    · exact hv.symm
    · simp [cellsGet]
  | cons p rest ih =>
    obtain ⟨a, b⟩ := p
    simp only [cellsWf, Bool.and_eq_true, decide_eq_true_eq] at h
    simp only [cellsSet]
    split
    · rename_i hlt
      have h1 : a ≠ k := by omega
      split <;> rename_i hv
      · simp only [cellsGet, h1, hlt, if_false, if_true]
        exact hv.symm
      · simp [cellsGet]
    · split
      · rename_i heq
        split <;> rename_i hv
        · rw [hv]
          exact cellsGet_below h.2 (by omega)
        · simp [cellsGet]
      · rename_i hlt heq
        have h1 : a ≠ k := by omega
        simp only [cellsGet, h1, if_false, hlt]
        exact ih h.2

/-- Every other byte is left alone. -/
theorem cellsGet_set_other {j k : Nat} {v : Byte} {lo : Nat} {l : List Host.Cell} (h : cellsWf lo l = true)
    (hjk : j ≠ k) : cellsGet j (cellsSet k v l) = cellsGet j l := by
  induction l generalizing lo with
  | nil =>
    simp only [cellsSet]
    split
    · rfl
    · simp [cellsGet, Ne.symm hjk]
  | cons p rest ih =>
    obtain ⟨a, b⟩ := p
    simp only [cellsWf, Bool.and_eq_true, decide_eq_true_eq] at h
    simp only [cellsSet]
    split
    · rename_i hlt
      split
      · rfl
      · simp only [cellsGet, Ne.symm hjk, if_false]
        split
        · rename_i hj
          by_cases hja : a = j
          · omega
          · have : j < a := by omega
            simp [hja, this]
        · rfl
    · split
      · rename_i heq
        subst heq
        split
        · simp only [cellsGet, Ne.symm hjk, if_false]
          split
          · rename_i hj
            exact cellsGet_below h.2 (by omega)
          · rfl
        · simp [cellsGet, Ne.symm hjk]
      · simp only [cellsGet]
        split
        · rfl
        · split
          · rfl
          · exact ih h.2

/-- A filtered canonical list is canonical. -/
theorem cellsWf_filter {p : Host.Cell → Bool} {lo : Nat} {l : List Host.Cell} (h : cellsWf lo l = true) :
    cellsWf lo (l.filter p) = true := by
  induction l generalizing lo with
  | nil => rfl
  | cons c rest ih =>
    obtain ⟨a, b⟩ := c
    simp only [cellsWf, Bool.and_eq_true, decide_eq_true_eq] at h
    simp only [List.filter_cons]
    split
    · simp only [cellsWf, Bool.and_eq_true, decide_eq_true_eq]
      exact ⟨h.1, ih h.2⟩
    · exact cellsWf_mono (ih h.2) (by omega)

/-! ## One byte of a memory -/

theorem empty_wf : Memory.empty.wf = true := rfl

theorem set_wf {m : Memory} (h : m.wf = true) (k : Nat) (v : Byte) : (m.set k v).wf = true :=
  cellsSet_wf h (Nat.zero_le _)

theorem get_set_same {m : Memory} (h : m.wf = true) (k : Nat) (v : Byte) : (m.set k v).get k = v :=
  cellsGet_set_same h

theorem get_set_other {m : Memory} (h : m.wf = true) {j k : Nat} (v : Byte) (hjk : j ≠ k) :
    (m.set k v).get j = m.get j :=
  cellsGet_set_other h hjk

@[simp] theorem get_empty (k : Nat) : Memory.empty.get k = 0 := rfl

theorem clear_wf {m : Memory} (h : m.wf = true) (lo hi : Nat) : (m.clear lo hi).wf = true := cellsWf_filter h

/-! ## Runs of bytes -/

theorem setKeys_wf {m : Memory} (h : m.wf = true) (ks : List Nat) (bs : List Byte) : (m.setKeys ks bs).wf = true := by
  induction ks generalizing m bs with
  | nil => simpa [Memory.setKeys] using h
  | cons k ks ih =>
    cases bs with
    | nil => simpa [Memory.setKeys] using h
    | cons b bs => exact ih (set_wf h k b) bs

theorem get_setKeys_other {m : Memory} (h : m.wf = true) {j : Nat} (ks : List Nat) (bs : List Byte) (hj : j ∉ ks) :
    (m.setKeys ks bs).get j = m.get j := by
  induction ks generalizing m bs with
  | nil => simp [Memory.setKeys]
  | cons k ks ih =>
    cases bs with
    | nil => simp [Memory.setKeys]
    | cons b bs =>
      simp only [List.mem_cons, not_or] at hj
      simp only [Memory.setKeys]
      rw [ih (set_wf h k b) bs hj.2, get_set_other h b hj.1]

theorem setBytes_wf {m : Memory} (h : m.wf = true) (k : Nat) (bs : List Byte) : (m.setBytes k bs).wf = true :=
  setKeys_wf h _ _

theorem setNat_wf {m : Memory} (h : m.wf = true) (k n v : Nat) : (m.setNat k n v).wf = true := setBytes_wf h _ _

/-- A fold of steps that keep the form keeps it. -/
theorem foldl_wf {α : Type} {f : Memory → α → Memory} (hf : ∀ m a, m.wf = true → (f m a).wf = true) (l : List α)
    {m : Memory} (h : m.wf = true) : (l.foldl f m).wf = true := by
  induction l generalizing m with
  | nil => exact h
  | cons a l ih => exact ih (hf m a h)

theorem zvbWrite_wf {m : Memory} (h : m.wf = true) (frame meta' unit : Nat) (ws : List Nat) :
    (zvbWrite m frame meta' unit ws).wf = true :=
  setNat_wf (foldl_wf (fun _ _ h => setNat_wf h _ _ _) _ h) _ _ _

theorem expcWrite_wf {m : Memory} (h : m.wf = true) (frame meta' unit : Nat) (ws : List Nat) :
    (expcWrite m frame meta' unit ws).wf = true :=
  setNat_wf (foldl_wf (fun _ _ h => setNat_wf h _ _ _) _ h) _ _ _

theorem putAt_wf {m : Memory} (h : m.wf = true) (k : Nat) (b : Byte) : (m.putAt k b).wf = true := by
  simp only [Memory.putAt]
  split
  · split
    · exact zvbWrite_wf h _ _ _ _
    · exact expcWrite_wf h _ _ _ _
  · exact set_wf h k b

theorem putKeys_wf {m : Memory} (h : m.wf = true) (ks : List Nat) (bs : List Byte) : (m.putKeys ks bs).wf = true := by
  induction ks generalizing m bs with
  | nil => simpa [Memory.putKeys] using h
  | cons k ks ih =>
    cases bs with
    | nil => simpa [Memory.putKeys] using h
    | cons b bs => exact ih (putAt_wf h k b) bs

/-- Keys of plain storage: no key of a compressed page's bytes. -/
def Plain (ks : List Nat) : Prop := ∀ k ∈ ks, isPacked k = false

theorem byteAt_plain {m : Memory} {k : Nat} (hk : isPacked k = false) : m.byteAt k = m.get k := by
  simp [Memory.byteAt, hk]

/-- At plain keys the two ways of writing agree. -/
theorem putKeys_plain {m : Memory} {ks : List Nat} (bs : List Byte) (h : Plain ks) :
    m.putKeys ks bs = m.setKeys ks bs := by
  induction ks generalizing m bs with
  | nil => simp [Memory.putKeys, Memory.setKeys]
  | cons k ks ih =>
    cases bs with
    | nil => simp [Memory.putKeys, Memory.setKeys]
    | cons b bs =>
      have hk : isPacked k = false := h k (List.mem_cons_self ..)
      simp only [Memory.putKeys, Memory.setKeys, Memory.putAt, hk]
      exact ih bs (fun j hj => h j (List.mem_cons_of_mem _ hj))

/-! ## The larger operations -/

theorem accPut_wf {m : Memory} (h : m.wf = true) (b e : Nat) (p : BitVec 32 × BitVec 32) :
    (accPut m b e p).wf = true := by
  unfold accPut
  exact setNat_wf h _ _ _

theorem copyRange_wf {m : Memory} (h : m.wf = true) (lo hi target : Nat) : (m.copyRange lo hi target).wf = true :=
  foldl_wf (fun _ _ h => set_wf h _ _) _ (clear_wf h _ _)

/-- A fold of steps of the state that keep its memory's form keeps it. -/
theorem foldl_mem_wf {α : Type} {f : State → α → State} (hf : ∀ s a, s.mem.wf = true → (f s a).mem.wf = true) (l : List α)
    {s : State} (h : s.mem.wf = true) : (l.foldl f s).mem.wf = true := by
  induction l generalizing s with
  | nil => exact h
  | cons a l ih => exact ih (hf s a h)

@[simp] theorem freeBytes_mem (s : State) (n : Nat) : (s.freeBytes n).2.mem = s.mem := by
  induction n generalizing s with
  | zero => rfl
  | succ n ih => exact ih s.bump

theorem rawUnit_wf {s : State} (h : s.mem.wf = true) (k : Nat) (bs : List Byte) : (s.rawUnit k bs).mem.wf = true :=
  expcWrite_wf h ..

theorem recode_wf {s : State} (h : s.mem.wf = true) (ks : List Nat) : (s.recode ks).mem.wf = true :=
  foldl_mem_wf (fun s k h => by
    have h1 : (s.freeBytes 1024).2.mem.wf = true := by rw [freeBytes_mem]; exact h
    exact rawUnit_wf h1 k _) _ h

theorem writeKeys_wf {s : State} (h : s.mem.wf = true) (r : Agent) (ks : List Nat) (bs : List Byte) :
    (s.writeKeys r ks bs).mem.wf = true := by
  simp only [State.writeKeys]
  generalize hs : (if ks.any (undecodable s.mem) then s.recode ks else s) = s1
  have h1 : s1.mem.wf = true := by
    subst hs
    split
    · exact recode_wf h ks
    · exact h
  simp only [State.unmark]
  split <;> exact putKeys_wf h1 _ _

theorem setBeacon_wf {s : State} (h : s.mem.wf = true) (k : Nat) (b : BitVec 512) :
    (s.setBeacon k b).mem.wf = true := setNat_wf h _ _ _

/-- The memory after reset lists nothing. -/
theorem reset_mem_wf : State.reset.mem.wf = true := rfl

/-- Where no byte is poisoned and no key lies in compressed storage, nothing read there is poisoned. -/
theorem poisonedAt_plain {s : State} {ks : List Nat} (h : s.poison = []) (hk : ∀ k ∈ ks, isPacked k = false) :
    s.poisonedAt ks = false := by
  have h0 : ∀ k ∈ ks, undecodable s.mem k = false := fun k hm => by simp [undecodable, hk k hm]
  simp only [State.poisonedAt, h, List.isEmpty_nil, Bool.not_true, Bool.false_and, Bool.or_false]
  exact List.any_eq_false.2 (fun k hm => by simp [h0 k hm])

/-- Nor is there a first poisoned byte. -/
theorem firstPoison_plain {s : State} {ks : List Nat} (a : Nat) (h : s.poison = [])
    (hk : ∀ k ∈ ks, isPacked k = false) : s.firstPoison a ks = none := by
  simp [State.firstPoison, poisonedAt_plain h hk]

/-- Keys below the compressed storage. -/
theorem keysFrom_plain {k n : Nat} (h : k + n ≤ 2 ^ 200) : ∀ x ∈ keysFrom k n, isPacked x = false := by
  intro x hx
  obtain ⟨i, hi, rfl⟩ := List.mem_map.1 hx
  have := List.mem_range.1 hi
  simp only [isPacked, decide_eq_false_iff_not, Nat.not_le]
  omega

end Sys2Proof.Laws
end

