-- ==== Sys2Proof/Laws/Invariant.lean ====
section
/-! SUPPORT. What the shared operations keep of the invariant: every memory the state holds stays in its
canonical form through a change of a context, a record, a release, an issue and a trap. -/

namespace Sys2Proof.Laws

open Sys2Proof Sys2Proof.Machine

/-- The invariant reads the memories and what is saved of them, nothing else. -/
theorem Inv.of_eq {s t : State} (h : Inv s) (hm : t.mem = s.mem) (hx : t.matrix.acc = s.matrix.acc)
    (hp : t.matrix.planeMem = s.matrix.planeMem) (hs : t.sched.saved = s.sched.saved) : Inv t := by
  unfold Inv at *
  rw [hm, hx, hp, hs]
  exact h

/-- An operation that keeps the invariant keeps it when repeated over a list. -/
theorem Inv.foldl {α : Type} {f : State → α → State} (hf : ∀ s a, Inv s → Inv (f s a)) (l : List α) {s : State}
    (h : Inv s) : Inv (l.foldl f s) := by
  induction l generalizing s with
  | nil => exact h
  | cons a l ih => exact ih (hf s a h)

/-- A state whose memory is written keeps the invariant where the written memory is canonical. -/
theorem Inv.withMem {s : State} (h : Inv s) {m : Memory} (hm : m.wf = true) : Inv { s with mem := m } :=
  ⟨hm, h.2⟩

theorem Inv.setCtx {s : State} (h : Inv s) (c : Fin 11) (x : Ctx) : Inv (s.setCtx c x) := h
theorem Inv.modCtx {s : State} (h : Inv s) (c : Fin 11) (f : Ctx → Ctx) : Inv (s.modCtx c f) := h
theorem Inv.modStream {s : State} (h : Inv s) (c : Fin 11) (n : BitVec 5) (f : Stream → Stream) :
    Inv (s.modStream c n f) := h
theorem Inv.pass {s : State} (h : Inv s) (c : Fin 11) (w : Fields) : Inv (s.pass c w) := h
theorem Inv.waiting {s : State} (h : Inv s) (c : Fin 11) : Inv (s.waiting c) := h
theorem Inv.untake {s : State} (h : Inv s) (s0 : State) (c : Fin 11) : Inv (s.untake s0 c) := h
theorem Inv.enqueue {s : State} (h : Inv s) (c : Fin 11) (e : Entry) : Inv (s.enqueue c e) := h
theorem Inv.retireTo {s : State} (h : Inv s) (c : Fin 11) (e : Entry) (res : List (RegName × Vec)) (t : Word) :
    Inv (s.retireTo c e res t) := h

theorem Inv.lateFault {s : State} (h : Inv s) (c : Fin 11) (f : WaitingFault) : Inv (s.lateFault c f) := by
  unfold State.lateFault
  split <;> exact h

theorem Inv.popClaims {s : State} (h : Inv s) (c : Fin 11) (e : Entry) (inh : Bool) : Inv (s.popClaims c e inh) := by
  refine Inv.foldl (fun s cl hs => ?_) _ h
  dsimp only
  split
  · exact Inv.lateFault (Inv.modStream hs ..) ..
  · exact hs

theorem Inv.pushResult {s : State} (h : Inv s) (c : Fin 11) (e : Entry) (res : List (RegName × Vec)) :
    Inv (s.pushResult c e res).2 := by
  unfold State.pushResult
  split
  · exact h
  · split <;> exact h

theorem Inv.occupyDivider {s : State} (h : Inv s) (e : Entry) : Inv (s.occupyDivider e) := by
  unfold State.occupyDivider
  split <;> exact h

theorem Inv.retire {s : State} (h : Inv s) (c : Fin 11) (e : Entry) (res : List (RegName × Vec)) :
    Inv (s.retire c e res) :=
  Inv.pushResult (Inv.popClaims (Inv.occupyDivider h e) c e (s.ctx c).inh) c e res

theorem Inv.noteWait {s : State} (h : Inv s) (vf : BitVec 6) : Inv (s.noteWait vf) := by
  unfold State.noteWait
  split <;> exact h

theorem Inv.postRec {s : State} (h : Inv s) (vf : BitVec 6) (b : BitVec 512) : Inv (s.postRec vf b) :=
  Inv.noteWait (s := { s with pendingRecs := s.pendingRecs ++ [PendingRec.other vf b] }) h vf

theorem Inv.setBeacon {s : State} (h : Inv s) (k : Nat) (b : BitVec 512) : Inv (s.setBeacon k b) :=
  Inv.withMem h (setNat_wf h.1 ..)

theorem Inv.publish {s : State} (h : Inv s) (c : Fin 11) (k : Nat) : Inv (s.publish c k) := by
  unfold State.publish
  split <;> exact h

theorem Inv.releaseBeacon {s : State} (h : Inv s) (c : Fin 11) (k : Nat) (a : Word) (excl : Bool) :
    Inv (s.releaseBeacon c k a excl) := by
  unfold State.releaseBeacon
  dsimp only
  refine Inv.modCtx (Inv.setBeacon ?_ ..) ..
  split
  · exact Inv.publish h ..
  · exact h

theorem Inv.detach {s : State} (h : Inv s) (c : Fin 11) : Inv (s.detach c) := h

theorem Inv.setSlotState {s : State} (h : Inv s) (v : Nat) : Inv (s.setSlotState v) := h

theorem Inv.releasePart {s : State} (h : Inv s) : Inv s.releasePart := by
  unfold State.releasePart
  split
  · exact h
  · split
    · exact h
    · dsimp only
      split
      · exact h
      · split <;> exact h

theorem Inv.unstall {s : State} (h : Inv s) (c : Fin 11) : Inv (s.unstall c) := by
  unfold State.unstall
  split <;> exact h

theorem Inv.closeAll {s : State} (h : Inv s) : Inv s.closeAll := by
  unfold State.closeAll
  split <;> exact h

theorem Inv.endPart {s : State} (h : Inv s) (cause : Option (BitVec 8)) : Inv (s.endPart cause) := by
  have h1 : Inv (allCtx.foldl State.detach s) := Inv.foldl (fun s c hs => Inv.detach hs c) _ h
  have h2 : Inv ((allCtx.foldl (fun (s : State) c => s.unstall c) (allCtx.foldl State.detach s)).closeAll) :=
    Inv.closeAll (Inv.foldl (fun s c hs => Inv.unstall hs c) _ h1)
  unfold State.endPart
  generalize (allCtx.foldl (fun (s : State) c => s.unstall c) (allCtx.foldl State.detach s)).closeAll = s1 at h2
  exact Inv.releasePart (Inv.of_eq h2 rfl rfl rfl rfl)

/-- A context gives up what it holds. -/
theorem Inv.releaseOf {s : State} (h : Inv s) (d : Fin 11) : Inv ((s.ctx d).held.foldl
    (fun (s : State) k => s.releaseBeacon d k.2.1 k.1 k.2.2) s) := by
  generalize (s.ctx d).held = l
  induction l generalizing s with
  | nil => exact h
  | cons k l ih => exact ih (Inv.releaseBeacon h d k.2.1 k.1 k.2.2)

theorem Inv.releaseHeld {s : State} (h : Inv s) (l : List (Fin 11)) : Inv (s.releaseHeld l) := by
  unfold State.releaseHeld
  induction l generalizing s with
  | nil => exact h
  | cons d l ih =>
    rw [List.foldl_cons]
    exact ih (Inv.releaseOf h d)

theorem Inv.haltPart {s : State} (h : Inv s) : Inv s.haltPart := Inv.endPart (Inv.releaseHeld h _) _

theorem Inv.withFlights {s : State} (h : Inv s) (c : Fin 11) (fl : List Flight) :
    Inv { ((s.dropStreams c).dropRuns c).dropTickets c with flights := fl } :=
  Inv.of_eq h rfl rfl rfl rfl

theorem Inv.endContext {s : State} (h : Inv s) (c : Fin 11) (cause : BitVec 8) (resume info : Word)
    (xlat : Option Word) : Inv (s.endContext c cause resume info xlat) := by
  unfold State.endContext
  dsimp only
  generalize hl : (if (c == 0 || (s.ctx c).kill) = true then allCtx else [c]) = l
  have h1 : Inv ((s.postRec s.vf (s.contextEndRec c cause resume info xlat (s.ctx c).inh
      (c == 0 || (s.ctx c).kill))).releaseHeld l) := Inv.releaseHeld (Inv.postRec h ..) _
  generalize State.releaseHeld _ l = s2 at h1 ⊢
  generalize hf : List.filter _ _ = fl
  have h2 : Inv { ((s2.dropStreams c).dropRuns c).dropTickets c with flights := fl } := Inv.withFlights h1 c fl
  generalize ({ ((s2.dropStreams c).dropRuns c).dropTickets c with flights := fl } : State) = s4 at h2 ⊢
  split
  · exact Inv.endPart h2 _
  · exact Inv.modCtx (Inv.unstall (Inv.detach h2 c) c) ..

theorem Inv.withdraw {s : State} (h : Inv s) (c : Fin 11) : Inv (s.withdraw c) := by
  unfold State.withdraw
  split <;> exact h

theorem Inv.takeTrap {s : State} (h : Inv s) (c : Fin 11) (cause : BitVec 8) (resume info : Word)
    (xlat : Option Word) (inner : Option (Word × Word)) : Inv (s.takeTrap c cause resume info xlat inner) := by
  unfold State.takeTrap
  dsimp only
  split
  · exact Inv.endContext (Inv.unstall (Inv.withdraw h c) c) ..
  · exact Inv.setCtx (Inv.unstall (Inv.withdraw h c) c) ..

/-- What an instruction takes at issue keeps the invariant. -/
theorem Inv.taken {s t : State} {c : Fin 11} (h : Inv s) (ht : Taken s c t) : Inv t := by
  obtain ⟨g, ss, tk, rfl⟩ := ht.eq
  exact h

/-- Writes keep the invariant. -/
theorem Inv.unmark {s : State} (h : Inv s) (ws : List Nat) : Inv (s.unmark ws) := by
  unfold State.unmark
  split <;> exact h

theorem Inv.freeBytes {s : State} (h : Inv s) (n : Nat) : Inv (s.freeBytes n).2 := by
  induction n generalizing s with
  | zero => exact h
  | succ n ih => exact ih (s := s.bump) h

theorem Inv.rawUnit {s : State} (h : Inv s) (k : Nat) (bs : List Byte) : Inv (s.rawUnit k bs) :=
  Inv.of_eq (Inv.withMem h (expcWrite_wf h.1 ..)) rfl rfl rfl rfl

theorem Inv.recode {s : State} (h : Inv s) (ks : List Nat) : Inv (s.recode ks) :=
  Inv.foldl (fun _ k hs => Inv.rawUnit (Inv.freeBytes hs 1024) k _) _ h

theorem Inv.writeKeys {s : State} (h : Inv s) (r : Agent) (ks : List Nat) (bs : List Byte) :
    Inv (s.writeKeys r ks bs) := by
  simp only [State.writeKeys]
  generalize hs : (if ks.any (undecodable s.mem) then s.recode ks else s) = s1
  have h1 : Inv s1 := by
    subst hs
    split
    · exact Inv.recode h ks
    · exact h
  refine Inv.unmark ?_ _
  exact ⟨putKeys_wf h1.1 ks bs, h1.2⟩


/-- Reads keep the invariant: they change the count of free values at most. -/
theorem Inv.readWord {s : State} (h : Inv s) (r : Agent) (w : Nat) : Inv (s.readWord r w).2 := by
  unfold State.readWord
  dsimp only
  split <;> exact h

theorem Inv.readKeysFrom {s : State} (h : Inv s) (r : Agent) (ks : List Nat) (l : Option (Nat × Word)) :
    Inv (s.readKeysFrom r ks l).2 := by
  induction ks generalizing s l with
  | nil => exact h
  | cons k ks ih =>
    cases l with
    | none => exact ih (Inv.readWord h r (wordOf k)) _
    | some p =>
      unfold State.readKeysFrom
      dsimp only
      split
      · exact ih h _
      · exact ih (Inv.readWord h r (wordOf k)) _

theorem Inv.readKeys {s : State} (h : Inv s) (r : Agent) (ks : List Nat) : Inv (s.readKeys r ks).2 :=
  Inv.readKeysFrom h r ks none

/-- What a body's answer holds of the invariant: the state it leaves, where it leaves one. -/
def Act.Keeps : Act → Prop
  | .done _ s => Inv s
  | .jump _ s _ => Inv s
  | .trap _ _ _ => True
  | .trapIn s _ _ _ => Inv s
  | .stay s => Inv s
  | .whole s => Inv s

theorem Inv.finish {s0 : State} (h : Inv s0) (c : Fin 11) (e : Entry) {a : Act} (ha : Act.Keeps a) :
    Inv (s0.finish c e a) := by
  cases a with
  | done res s => exact Inv.retire ha ..
  | jump res s t => exact Inv.retireTo ha ..
  | trap k i x => exact Inv.takeTrap h ..
  | trapIn s k i x => exact Inv.takeTrap ha ..
  | stay s => exact Inv.waiting (Inv.untake ha s0 c) c
  | whole s => exact ha

/-- An issue keeps the invariant where the body does, from any state it may start in. -/
theorem Inv.issueOn {s : State} (h : Inv s) (c : Fin 11) (op : Opcode) (w : Fields) {body : Body}
    (hb : ∀ e t, Inv t → Act.Keeps (body c e t)) : Inv (s.issueOn c op w body) := by
  unfold State.issueOn
  split
  · exact h
  · split
    · exact Inv.waiting h c
    · exact Inv.pass h c w
    · exact Inv.takeTrap h ..
    · rename_i e s1 hp
      exact Inv.enqueue (Inv.taken h (plan_defer hp)) c _
    · rename_i e s1 hp
      exact Inv.finish h c e (hb e s1 (Inv.taken h (plan_run hp).2))

end Sys2Proof.Laws
end

