-- ==== Sys2Proof/Laws/PerInstr.lean ====
section
/-! SUPPORT. A family of statements about each instruction: its encoding is as long as its first parcel
says (R23). -/

namespace Sys2Proof.Laws

open Sys2Proof Sys2Proof.Machine

/-- A well-formed instruction takes as many parcels as the length code of its first parcel gives (R23). -/
def Lengths.Statement (i : Instr) : Prop :=
  WellFormed i → isEvent i = false → (encode i).length = parcels ((encode i).getD 0 0)

/-- The statement holds of every instruction, by the way the encoder lays a word out. -/
theorem Lengths.holds (i : Instr) : Lengths.Statement i := by
  intro h he
  refine encode_length i h ?_
  intro hv
  simp [isEvent, hv] at he

theorem Lengths.nop (w) : Lengths.Statement (.nop w) := Lengths.holds _
theorem Lengths.br (w) : Lengths.Statement (.br w) := Lengths.holds _
theorem Lengths.jmp (w) : Lengths.Statement (.jmp w) := Lengths.holds _
theorem Lengths.call (w) : Lengths.Statement (.call w) := Lengths.holds _
theorem Lengths.callr (w) : Lengths.Statement (.callr w) := Lengths.holds _
theorem Lengths.ret (w) : Lengths.Statement (.ret w) := Lengths.holds _
theorem Lengths.jp (w) : Lengths.Statement (.jp w) := Lengths.holds _
theorem Lengths.waitp (w) : Lengths.Statement (.waitp w) := Lengths.holds _
theorem Lengths.loop (w) : Lengths.Statement (.loop w) := Lengths.holds _
theorem Lengths.linc (w) : Lengths.Statement (.linc w) := Lengths.holds _
theorem Lengths.start (w) : Lengths.Statement (.start w) := Lengths.holds _
theorem Lengths.join (w) : Lengths.Statement (.join w) := Lengths.holds _
theorem Lengths.exit (w) : Lengths.Statement (.exit w) := Lengths.holds _
theorem Lengths.yield (w) : Lengths.Statement (.yield w) := Lengths.holds _
theorem Lengths.trap (w) : Lengths.Statement (.trap w) := Lengths.holds _
theorem Lengths.defer (w) : Lengths.Statement (.defer w) := Lengths.holds _
theorem Lengths.park (w) : Lengths.Statement (.park w) := Lengths.holds _
theorem Lengths.add (w) : Lengths.Statement (.add w) := Lengths.holds _
theorem Lengths.sub (w) : Lengths.Statement (.sub w) := Lengths.holds _
theorem Lengths.mul (w) : Lengths.Statement (.mul w) := Lengths.holds _
theorem Lengths.mulh (w) : Lengths.Statement (.mulh w) := Lengths.holds _
theorem Lengths.mulhu (w) : Lengths.Statement (.mulhu w) := Lengths.holds _
theorem Lengths.div (w) : Lengths.Statement (.div w) := Lengths.holds _
theorem Lengths.divu (w) : Lengths.Statement (.divu w) := Lengths.holds _
theorem Lengths.rem (w) : Lengths.Statement (.rem w) := Lengths.holds _
theorem Lengths.remu (w) : Lengths.Statement (.remu w) := Lengths.holds _
theorem Lengths.and (w) : Lengths.Statement (.and w) := Lengths.holds _
theorem Lengths.or (w) : Lengths.Statement (.or w) := Lengths.holds _
theorem Lengths.xor (w) : Lengths.Statement (.xor w) := Lengths.holds _
theorem Lengths.andn (w) : Lengths.Statement (.andn w) := Lengths.holds _
theorem Lengths.shl (w) : Lengths.Statement (.shl w) := Lengths.holds _
theorem Lengths.shr (w) : Lengths.Statement (.shr w) := Lengths.holds _
theorem Lengths.sar (w) : Lengths.Statement (.sar w) := Lengths.holds _
theorem Lengths.rot (w) : Lengths.Statement (.rot w) := Lengths.holds _
theorem Lengths.min (w) : Lengths.Statement (.min w) := Lengths.holds _
theorem Lengths.max (w) : Lengths.Statement (.max w) := Lengths.holds _
theorem Lengths.minu (w) : Lengths.Statement (.minu w) := Lengths.holds _
theorem Lengths.maxu (w) : Lengths.Statement (.maxu w) := Lengths.holds _
theorem Lengths.clz (w) : Lengths.Statement (.clz w) := Lengths.holds _
theorem Lengths.ctz (w) : Lengths.Statement (.ctz w) := Lengths.holds _
theorem Lengths.popc (w) : Lengths.Statement (.popc w) := Lengths.holds _
theorem Lengths.bext (w) : Lengths.Statement (.bext w) := Lengths.holds _
theorem Lengths.bins (w) : Lengths.Statement (.bins w) := Lengths.holds _
theorem Lengths.sext (w) : Lengths.Statement (.sext w) := Lengths.holds _
theorem Lengths.zext (w) : Lengths.Statement (.zext w) := Lengths.holds _
theorem Lengths.mov (w) : Lengths.Statement (.mov w) := Lengths.holds _
theorem Lengths.movl (w) : Lengths.Statement (.movl w) := Lengths.holds _
theorem Lengths.sel (w) : Lengths.Statement (.sel w) := Lengths.holds _
theorem Lengths.cmp (w) : Lengths.Statement (.cmp w) := Lengths.holds _
theorem Lengths.pset (w) : Lengths.Statement (.pset w) := Lengths.holds _
theorem Lengths.pmov (w) : Lengths.Statement (.pmov w) := Lengths.holds _
theorem Lengths.addr (w) : Lengths.Statement (.addr w) := Lengths.holds _
theorem Lengths.fadd (w) : Lengths.Statement (.fadd w) := Lengths.holds _
theorem Lengths.fsub (w) : Lengths.Statement (.fsub w) := Lengths.holds _
theorem Lengths.fmul (w) : Lengths.Statement (.fmul w) := Lengths.holds _
theorem Lengths.ffma (w) : Lengths.Statement (.ffma w) := Lengths.holds _
theorem Lengths.fdiv (w) : Lengths.Statement (.fdiv w) := Lengths.holds _
theorem Lengths.fsqrt (w) : Lengths.Statement (.fsqrt w) := Lengths.holds _
theorem Lengths.fmin (w) : Lengths.Statement (.fmin w) := Lengths.holds _
theorem Lengths.fmax (w) : Lengths.Statement (.fmax w) := Lengths.holds _
theorem Lengths.fabs (w) : Lengths.Statement (.fabs w) := Lengths.holds _
theorem Lengths.fneg (w) : Lengths.Statement (.fneg w) := Lengths.holds _
theorem Lengths.fcmp (w) : Lengths.Statement (.fcmp w) := Lengths.holds _
theorem Lengths.fcvt (w) : Lengths.Statement (.fcvt w) := Lengths.holds _
theorem Lengths.fclass (w) : Lengths.Statement (.fclass w) := Lengths.holds _
theorem Lengths.ld (w) : Lengths.Statement (.ld w) := Lengths.holds _
theorem Lengths.st (w) : Lengths.Statement (.st w) := Lengths.holds _
theorem Lengths.ldv (w) : Lengths.Statement (.ldv w) := Lengths.holds _
theorem Lengths.stv (w) : Lengths.Statement (.stv w) := Lengths.holds _
theorem Lengths.ldx (w) : Lengths.Statement (.ldx w) := Lengths.holds _
theorem Lengths.stx (w) : Lengths.Statement (.stx w) := Lengths.holds _
theorem Lengths.atom (w) : Lengths.Statement (.atom w) := Lengths.holds _
theorem Lengths.cas (w) : Lengths.Statement (.cas w) := Lengths.holds _
theorem Lengths.pref (w) : Lengths.Statement (.pref w) := Lengths.holds _
theorem Lengths.bbind (w) : Lengths.Statement (.bbind w) := Lengths.holds _
theorem Lengths.acq (w) : Lengths.Statement (.acq w) := Lengths.holds _
theorem Lengths.rel (w) : Lengths.Statement (.rel w) := Lengths.holds _
theorem Lengths.btry (w) : Lengths.Statement (.btry w) := Lengths.holds _
theorem Lengths.fence (w) : Lengths.Statement (.fence w) := Lengths.holds _
theorem Lengths.lbfence (w) : Lengths.Statement (.lbfence w) := Lengths.holds _
theorem Lengths.isync (w) : Lengths.Statement (.isync w) := Lengths.holds _
theorem Lengths.ract (w) : Lengths.Statement (.ract w) := Lengths.holds _
theorem Lengths.rcon (w) : Lengths.Statement (.rcon w) := Lengths.holds _
theorem Lengths.rwb (w) : Lengths.Statement (.rwb w) := Lengths.holds _
theorem Lengths.rpre (w) : Lengths.Statement (.rpre w) := Lengths.holds _
theorem Lengths.rstat (w) : Lengths.Statement (.rstat w) := Lengths.holds _
theorem Lengths.rref (w) : Lengths.Statement (.rref w) := Lengths.holds _
theorem Lengths.sbind (w) : Lengths.Statement (.sbind w) := Lengths.holds _
theorem Lengths.sfree (w) : Lengths.Statement (.sfree w) := Lengths.holds _
theorem Lengths.sdrain (w) : Lengths.Statement (.sdrain w) := Lengths.holds _
theorem Lengths.sstat (w) : Lengths.Statement (.sstat w) := Lengths.holds _
theorem Lengths.iload (w) : Lengths.Statement (.iload w) := Lengths.holds _
theorem Lengths.irun (w) : Lengths.Statement (.irun w) := Lengths.holds _
theorem Lengths.iwait (w) : Lengths.Statement (.iwait w) := Lengths.holds _
theorem Lengths.ipoll (w) : Lengths.Statement (.ipoll w) := Lengths.holds _
theorem Lengths.idrop (w) : Lengths.Statement (.idrop w) := Lengths.holds _
theorem Lengths.send (w) : Lengths.Statement (.send w) := Lengths.holds _
theorem Lengths.recv (w) : Lengths.Statement (.recv w) := Lengths.holds _
theorem Lengths.put (w) : Lengths.Statement (.put w) := Lengths.holds _
theorem Lengths.get (w) : Lengths.Statement (.get w) := Lengths.holds _
theorem Lengths.coll (w) : Lengths.Statement (.coll w) := Lengths.holds _
theorem Lengths.bar (w) : Lengths.Statement (.bar w) := Lengths.holds _
theorem Lengths.barc (w) : Lengths.Statement (.barc w) := Lengths.holds _
theorem Lengths.vadd (w) : Lengths.Statement (.vadd w) := Lengths.holds _
theorem Lengths.vsub (w) : Lengths.Statement (.vsub w) := Lengths.holds _
theorem Lengths.vmul (w) : Lengths.Statement (.vmul w) := Lengths.holds _
theorem Lengths.vfma (w) : Lengths.Statement (.vfma w) := Lengths.holds _
theorem Lengths.vfms (w) : Lengths.Statement (.vfms w) := Lengths.holds _
theorem Lengths.vrcp (w) : Lengths.Statement (.vrcp w) := Lengths.holds _
theorem Lengths.vrsq (w) : Lengths.Statement (.vrsq w) := Lengths.holds _
theorem Lengths.vsqrt (w) : Lengths.Statement (.vsqrt w) := Lengths.holds _
theorem Lengths.vexp2 (w) : Lengths.Statement (.vexp2 w) := Lengths.holds _
theorem Lengths.vlog2 (w) : Lengths.Statement (.vlog2 w) := Lengths.holds _
theorem Lengths.vtanh (w) : Lengths.Statement (.vtanh w) := Lengths.holds _
theorem Lengths.vmin (w) : Lengths.Statement (.vmin w) := Lengths.holds _
theorem Lengths.vmax (w) : Lengths.Statement (.vmax w) := Lengths.holds _
theorem Lengths.vabs (w) : Lengths.Statement (.vabs w) := Lengths.holds _
theorem Lengths.vneg (w) : Lengths.Statement (.vneg w) := Lengths.holds _
theorem Lengths.vand (w) : Lengths.Statement (.vand w) := Lengths.holds _
theorem Lengths.vor (w) : Lengths.Statement (.vor w) := Lengths.holds _
theorem Lengths.vxor (w) : Lengths.Statement (.vxor w) := Lengths.holds _
theorem Lengths.vshl (w) : Lengths.Statement (.vshl w) := Lengths.holds _
theorem Lengths.vshr (w) : Lengths.Statement (.vshr w) := Lengths.holds _
theorem Lengths.vsar (w) : Lengths.Statement (.vsar w) := Lengths.holds _
theorem Lengths.vcmp (w) : Lengths.Statement (.vcmp w) := Lengths.holds _
theorem Lengths.vsel (w) : Lengths.Statement (.vsel w) := Lengths.holds _
theorem Lengths.vbcast (w) : Lengths.Statement (.vbcast w) := Lengths.holds _
theorem Lengths.vext (w) : Lengths.Statement (.vext w) := Lengths.holds _
theorem Lengths.vins (w) : Lengths.Statement (.vins w) := Lengths.holds _
theorem Lengths.vshuf (w) : Lengths.Statement (.vshuf w) := Lengths.holds _
theorem Lengths.vperm (w) : Lengths.Statement (.vperm w) := Lengths.holds _
theorem Lengths.vrot (w) : Lengths.Statement (.vrot w) := Lengths.holds _
theorem Lengths.vred (w) : Lengths.Statement (.vred w) := Lengths.holds _
theorem Lengths.vscan (w) : Lengths.Statement (.vscan w) := Lengths.holds _
theorem Lengths.vcvt (w) : Lengths.Statement (.vcvt w) := Lengths.holds _
theorem Lengths.vcvto (w) : Lengths.Statement (.vcvto w) := Lengths.holds _
theorem Lengths.vpack (w) : Lengths.Statement (.vpack w) := Lengths.holds _
theorem Lengths.vunpk (w) : Lengths.Statement (.vunpk w) := Lengths.holds _
theorem Lengths.vdot (w) : Lengths.Statement (.vdot w) := Lengths.holds _
theorem Lengths.vtag (w) : Lengths.Statement (.vtag w) := Lengths.holds _
theorem Lengths.vargm (w) : Lengths.Statement (.vargm w) := Lengths.holds _
theorem Lengths.viota (w) : Lengths.Statement (.viota w) := Lengths.holds _
theorem Lengths.vmsk (w) : Lengths.Statement (.vmsk w) := Lengths.holds _
theorem Lengths.vcnt (w) : Lengths.Statement (.vcnt w) := Lengths.holds _
theorem Lengths.vclamp (w) : Lengths.Statement (.vclamp w) := Lengths.holds _
theorem Lengths.vqnt (w) : Lengths.Statement (.vqnt w) := Lengths.holds _
theorem Lengths.mmas (w) : Lengths.Statement (.mmas w) := Lengths.holds _
theorem Lengths.mmav (w) : Lengths.Statement (.mmav w) := Lengths.holds _
theorem Lengths.mmar (w) : Lengths.Statement (.mmar w) := Lengths.holds _
theorem Lengths.mcommit (w) : Lengths.Statement (.mcommit w) := Lengths.holds _
theorem Lengths.mwait (w) : Lengths.Statement (.mwait w) := Lengths.holds _
theorem Lengths.mpoll (w) : Lengths.Statement (.mpoll w) := Lengths.holds _
theorem Lengths.mcmd (w) : Lengths.Statement (.mcmd w) := Lengths.holds _
theorem Lengths.mcap (w) : Lengths.Statement (.mcap w) := Lengths.holds _
theorem Lengths.aballoc (w) : Lengths.Statement (.aballoc w) := Lengths.holds _
theorem Lengths.abfree (w) : Lengths.Statement (.abfree w) := Lengths.holds _
theorem Lengths.abzero (w) : Lengths.Statement (.abzero w) := Lengths.holds _
theorem Lengths.abread (w) : Lengths.Statement (.abread w) := Lengths.holds _
theorem Lengths.abwrite (w) : Lengths.Statement (.abwrite w) := Lengths.holds _
theorem Lengths.mtq (w) : Lengths.Statement (.mtq w) := Lengths.holds _
theorem Lengths.mstat (w) : Lengths.Statement (.mstat w) := Lengths.holds _
theorem Lengths.wload (w) : Lengths.Statement (.wload w) := Lengths.holds _
theorem Lengths.wswap (w) : Lengths.Statement (.wswap w) := Lengths.holds _
theorem Lengths.wpass (w) : Lengths.Statement (.wpass w) := Lengths.holds _
theorem Lengths.wres (w) : Lengths.Statement (.wres w) := Lengths.holds _
theorem Lengths.wchk (w) : Lengths.Statement (.wchk w) := Lengths.holds _
theorem Lengths.wgacc (w) : Lengths.Statement (.wgacc w) := Lengths.holds _
theorem Lengths.wcfg (w) : Lengths.Statement (.wcfg w) := Lengths.holds _
theorem Lengths.wstat (w) : Lengths.Statement (.wstat w) := Lengths.holds _
theorem Lengths.launch (w) : Lengths.Statement (.launch w) := Lengths.holds _
theorem Lengths.owait (w) : Lengths.Statement (.owait w) := Lengths.holds _
theorem Lengths.opoll (w) : Lengths.Statement (.opoll w) := Lengths.holds _
theorem Lengths.csrr (w) : Lengths.Statement (.csrr w) := Lengths.holds _
theorem Lengths.csrw (w) : Lengths.Statement (.csrw w) := Lengths.holds _
theorem Lengths.csrs (w) : Lengths.Statement (.csrs w) := Lengths.holds _
theorem Lengths.csrc (w) : Lengths.Statement (.csrc w) := Lengths.holds _
theorem Lengths.trapret (w) : Lengths.Statement (.trapret w) := Lengths.holds _
theorem Lengths.tlbinv (w) : Lengths.Statement (.tlbinv w) := Lengths.holds _
theorem Lengths.evrd (w) : Lengths.Statement (.evrd w) := Lengths.holds _
theorem Lengths.evclr (w) : Lengths.Statement (.evclr w) := Lengths.holds _
theorem Lengths.idle (w) : Lengths.Statement (.idle w) := Lengths.holds _
theorem Lengths.nopShort (f) : Lengths.Statement (.nopShort f) := Lengths.holds _
theorem Lengths.addI64Short (f) : Lengths.Statement (.addI64Short f) := Lengths.holds _
theorem Lengths.subI64Short (f) : Lengths.Statement (.subI64Short f) := Lengths.holds _
theorem Lengths.mulI64Short (f) : Lengths.Statement (.mulI64Short f) := Lengths.holds _
theorem Lengths.andI64Short (f) : Lengths.Statement (.andI64Short f) := Lengths.holds _
theorem Lengths.orI64Short (f) : Lengths.Statement (.orI64Short f) := Lengths.holds _
theorem Lengths.xorI64Short (f) : Lengths.Statement (.xorI64Short f) := Lengths.holds _
theorem Lengths.shlI64Short (f) : Lengths.Statement (.shlI64Short f) := Lengths.holds _
theorem Lengths.shrI64Short (f) : Lengths.Statement (.shrI64Short f) := Lengths.holds _
theorem Lengths.sarI64Short (f) : Lengths.Statement (.sarI64Short f) := Lengths.holds _
theorem Lengths.minI64Short (f) : Lengths.Statement (.minI64Short f) := Lengths.holds _
theorem Lengths.maxI64Short (f) : Lengths.Statement (.maxI64Short f) := Lengths.holds _
theorem Lengths.movI64Short (f) : Lengths.Statement (.movI64Short f) := Lengths.holds _
theorem Lengths.cmpI64EqShort (f) : Lengths.Statement (.cmpI64EqShort f) := Lengths.holds _
theorem Lengths.cmpI64NeShort (f) : Lengths.Statement (.cmpI64NeShort f) := Lengths.holds _
theorem Lengths.cmpI64LtShort (f) : Lengths.Statement (.cmpI64LtShort f) := Lengths.holds _
theorem Lengths.cmpI64GeShort (f) : Lengths.Statement (.cmpI64GeShort f) := Lengths.holds _
theorem Lengths.cmpI64LtuShort (f) : Lengths.Statement (.cmpI64LtuShort f) := Lengths.holds _
theorem Lengths.cmpI64GeuShort (f) : Lengths.Statement (.cmpI64GeuShort f) := Lengths.holds _
theorem Lengths.ldI64Short (f) : Lengths.Statement (.ldI64Short f) := Lengths.holds _
theorem Lengths.ldI32Short (f) : Lengths.Statement (.ldI32Short f) := Lengths.holds _
theorem Lengths.stI64Short (f) : Lengths.Statement (.stI64Short f) := Lengths.holds _
theorem Lengths.stI32Short (f) : Lengths.Statement (.stI32Short f) := Lengths.holds _
theorem Lengths.ldvShort (f) : Lengths.Statement (.ldvShort f) := Lengths.holds _
theorem Lengths.stvShort (f) : Lengths.Statement (.stvShort f) := Lengths.holds _
theorem Lengths.faddF32RneShort (f) : Lengths.Statement (.faddF32RneShort f) := Lengths.holds _
theorem Lengths.fsubF32RneShort (f) : Lengths.Statement (.fsubF32RneShort f) := Lengths.holds _
theorem Lengths.fmulF32RneShort (f) : Lengths.Statement (.fmulF32RneShort f) := Lengths.holds _
theorem Lengths.ffmaF32RneShort (f) : Lengths.Statement (.ffmaF32RneShort f) := Lengths.holds _
theorem Lengths.vaddF32RneShort (f) : Lengths.Statement (.vaddF32RneShort f) := Lengths.holds _
theorem Lengths.vsubF32RneShort (f) : Lengths.Statement (.vsubF32RneShort f) := Lengths.holds _
theorem Lengths.vmulF32RneShort (f) : Lengths.Statement (.vmulF32RneShort f) := Lengths.holds _
theorem Lengths.vfmaF32RneShort (f) : Lengths.Statement (.vfmaF32RneShort f) := Lengths.holds _
theorem Lengths.vminF32Short (f) : Lengths.Statement (.vminF32Short f) := Lengths.holds _
theorem Lengths.vmaxF32Short (f) : Lengths.Statement (.vmaxF32Short f) := Lengths.holds _
theorem Lengths.vaddI32Short (f) : Lengths.Statement (.vaddI32Short f) := Lengths.holds _
theorem Lengths.vsubI32Short (f) : Lengths.Statement (.vsubI32Short f) := Lengths.holds _
theorem Lengths.vandShort (f) : Lengths.Statement (.vandShort f) := Lengths.holds _
theorem Lengths.vorShort (f) : Lengths.Statement (.vorShort f) := Lengths.holds _
theorem Lengths.vxorShort (f) : Lengths.Statement (.vxorShort f) := Lengths.holds _
theorem Lengths.brShort (f) : Lengths.Statement (.brShort f) := Lengths.holds _
theorem Lengths.retShort (f) : Lengths.Statement (.retShort f) := Lengths.holds _
theorem Lengths.exitShort (f) : Lengths.Statement (.exitShort f) := Lengths.holds _
theorem Lengths.yieldShort (f) : Lengths.Statement (.yieldShort f) := Lengths.holds _
theorem Lengths.mcommitShort (f) : Lengths.Statement (.mcommitShort f) := Lengths.holds _
theorem Lengths.mwaitShort (f) : Lengths.Statement (.mwaitShort f) := Lengths.holds _
theorem Lengths.mpollShort (f) : Lengths.Statement (.mpollShort f) := Lengths.holds _
theorem Lengths.icacheFill (c) (addr) : Lengths.Statement (.icacheFill c addr) := Lengths.holds _
theorem Lengths.hamperEntryExecute (c) : Lengths.Statement (.hamperEntryExecute c) := Lengths.holds _
theorem Lengths.takeTrap (c) : Lengths.Statement (.takeTrap c) := Lengths.holds _
theorem Lengths.hintStallExpiry (c) : Lengths.Statement (.hintStallExpiry c) := Lengths.holds _
theorem Lengths.idleCountExpiry (c) : Lengths.Statement (.idleCountExpiry c) := Lengths.holds _
theorem Lengths.valueLands (n) : Lengths.Statement (.valueLands n) := Lengths.holds _
theorem Lengths.faultRecordWrite (vf) : Lengths.Statement (.faultRecordWrite vf) := Lengths.holds _
theorem Lengths.fqRespReplay (vf) (token) : Lengths.Statement (.fqRespReplay vf token) := Lengths.holds _
theorem Lengths.fqRespDecline (vf) (token) : Lengths.Statement (.fqRespDecline vf token) := Lengths.holds _
theorem Lengths.fqCtlWrite (vf) (value) : Lengths.Statement (.fqCtlWrite vf value) := Lengths.holds _
theorem Lengths.notPresentTimeout (vf) (token) : Lengths.Statement (.notPresentTimeout vf token) := Lengths.holds _
theorem Lengths.xltInvRange (asid) (va) (count) : Lengths.Statement (.xltInvRange asid va count) := Lengths.holds _
theorem Lengths.xltInvAsid (value) : Lengths.Statement (.xltInvAsid value) := Lengths.holds _
theorem Lengths.xltInvVf (value) : Lengths.Statement (.xltInvVf value) := Lengths.holds _
theorem Lengths.xltInvMove (asid) (va) (count) : Lengths.Statement (.xltInvMove asid va count) := Lengths.holds _
theorem Lengths.xltInvComplete : Lengths.Statement (.xltInvComplete) := Lengths.holds _
theorem Lengths.anchorExpiry (asid) (page) : Lengths.Statement (.anchorExpiry asid page) := Lengths.holds _
theorem Lengths.linkGenAdvance (peer) : Lengths.Statement (.linkGenAdvance peer) := Lengths.holds _
theorem Lengths.outsideRead (r) : Lengths.Statement (.outsideRead r) := Lengths.holds _
theorem Lengths.outsideWrite (r) (data) : Lengths.Statement (.outsideWrite r data) := Lengths.holds _
theorem Lengths.gateTimeout (n) (own) : Lengths.Statement (.gateTimeout n own) := Lengths.holds _
theorem Lengths.rowCommandStart : Lengths.Statement (.rowCommandStart) := Lengths.holds _
theorem Lengths.transferAttemptEnd (bad) : Lengths.Statement (.transferAttemptEnd bad) := Lengths.holds _
theorem Lengths.rowTransferComplete (errs) : Lengths.Statement (.rowTransferComplete errs) := Lengths.holds _
theorem Lengths.refreshDue (layer) : Lengths.Statement (.refreshDue layer) := Lengths.holds _
theorem Lengths.refreshComplete (layer) : Lengths.Statement (.refreshComplete layer) := Lengths.holds _
theorem Lengths.forcedBurst (layer) : Lengths.Statement (.forcedBurst layer) := Lengths.holds _
theorem Lengths.activationWindowEnd : Lengths.Statement (.activationWindowEnd) := Lengths.holds _
theorem Lengths.retrainDue : Lengths.Statement (.retrainDue) := Lengths.holds _
theorem Lengths.retrainStart : Lengths.Statement (.retrainStart) := Lengths.holds _
theorem Lengths.retrainEnd : Lengths.Statement (.retrainEnd) := Lengths.holds _
theorem Lengths.seqWdogReset (q) : Lengths.Statement (.seqWdogReset q) := Lengths.holds _
theorem Lengths.seqResetEnd (q) : Lengths.Statement (.seqResetEnd q) := Lengths.holds _
theorem Lengths.seqResetHoldTimeout (n) : Lengths.Statement (.seqResetHoldTimeout n) := Lengths.holds _
theorem Lengths.engineOpStart : Lengths.Statement (.engineOpStart) := Lengths.holds _
theorem Lengths.engineOpComplete : Lengths.Statement (.engineOpComplete) := Lengths.holds _
theorem Lengths.mcmdArrive (m) : Lengths.Statement (.mcmdArrive m) := Lengths.holds _
theorem Lengths.mcmdTimeout (n) : Lengths.Statement (.mcmdTimeout n) := Lengths.holds _
theorem Lengths.mcmdStatusLand (n) (r) : Lengths.Statement (.mcmdStatusLand n r) := Lengths.holds _
theorem Lengths.planeOpStart (n) : Lengths.Statement (.planeOpStart n) := Lengths.holds _
theorem Lengths.planeOpComplete (n) (bad) : Lengths.Statement (.planeOpComplete n bad) := Lengths.holds _
theorem Lengths.stopLaunch : Lengths.Statement (.stopLaunch) := Lengths.holds _
theorem Lengths.stopComplete (n) : Lengths.Statement (.stopComplete n) := Lengths.holds _
theorem Lengths.streamGroupArrive (n) : Lengths.Statement (.streamGroupArrive n) := Lengths.holds _
theorem Lengths.streamGroupWrite (n) : Lengths.Statement (.streamGroupWrite n) := Lengths.holds _
theorem Lengths.messageMatch (n) (p) : Lengths.Statement (.messageMatch n p) := Lengths.holds _
theorem Lengths.messageLand (n) (p) : Lengths.Statement (.messageLand n p) := Lengths.holds _
theorem Lengths.messageTimeout (n) : Lengths.Statement (.messageTimeout n) := Lengths.holds _
theorem Lengths.chunkArrive (k) : Lengths.Statement (.chunkArrive k) := Lengths.holds _
theorem Lengths.stepEntry (scope) : Lengths.Statement (.stepEntry scope) := Lengths.holds _
theorem Lengths.stepProgress (scope) (p) : Lengths.Statement (.stepProgress scope p) := Lengths.holds _
theorem Lengths.stepTimeout (scope) : Lengths.Statement (.stepTimeout scope) := Lengths.holds _
theorem Lengths.beaconGrant (dpa) : Lengths.Statement (.beaconGrant dpa) := Lengths.holds _
theorem Lengths.launchPacket (bits) : Lengths.Statement (.launchPacket bits) := Lengths.holds _
theorem Lengths.slotRecordWrite (site) (slot) (bits) : Lengths.Statement (.slotRecordWrite site slot bits) := Lengths.holds _
theorem Lengths.dispatchStart (d) : Lengths.Statement (.dispatchStart d) := Lengths.holds _
theorem Lengths.preemptRequest : Lengths.Statement (.preemptRequest) := Lengths.holds _
theorem Lengths.partySaveComplete : Lengths.Statement (.partySaveComplete) := Lengths.holds _
theorem Lengths.quantumExpiry : Lengths.Statement (.quantumExpiry) := Lengths.holds _
theorem Lengths.queueAging (vf) (outing) : Lengths.Statement (.queueAging vf outing) := Lengths.holds _
theorem Lengths.outingComplete (vf) (outing) : Lengths.Statement (.outingComplete vf outing) := Lengths.holds _
theorem Lengths.fcastWrite (island) (value) : Lengths.Statement (.fcastWrite island value) := Lengths.holds _
theorem Lengths.schedQuantumWrite (value) : Lengths.Statement (.schedQuantumWrite value) := Lengths.holds _
theorem Lengths.thermSample (n) (temp) : Lengths.Statement (.thermSample n temp) := Lengths.holds _
theorem Lengths.thermWrite (n) (value) : Lengths.Statement (.thermWrite n value) := Lengths.holds _
theorem Lengths.coldStart (b) : Lengths.Statement (.coldStart b) := Lengths.holds _
theorem Lengths.bootCtlWarm (value) (b) : Lengths.Statement (.bootCtlWarm value b) := Lengths.holds _
theorem Lengths.secAttestRequest (nonce) (addr) : Lengths.Statement (.secAttestRequest nonce addr) := Lengths.holds _
theorem Lengths.attestReportWrite : Lengths.Statement (.attestReportWrite) := Lengths.holds _
theorem Lengths.fpctlWrite (c) (k) (b) : Lengths.Statement (.fpctlWrite c k b) := Lengths.holds _
theorem Lengths.ctxModeWrite (c) (k) (b) : Lengths.Statement (.ctxModeWrite c k b) := Lengths.holds _
theorem Lengths.ovflWrite (c) (k) (b) : Lengths.Statement (.ovflWrite c k b) := Lengths.holds _
theorem Lengths.hamperPeakWrite (c) (k) (b) : Lengths.Statement (.hamperPeakWrite c k b) := Lengths.holds _
theorem Lengths.collTimeoutWrite (k) (b) : Lengths.Statement (.collTimeoutWrite k b) := Lengths.holds _
theorem Lengths.rowLogClear (xfer) (k) (b) : Lengths.Statement (.rowLogClear xfer k b) := Lengths.holds _
theorem Lengths.coreMovedClear (k) (b) : Lengths.Statement (.coreMovedClear k b) := Lengths.holds _
theorem Lengths.planeCfgWrite (c) (k) (b) : Lengths.Statement (.planeCfgWrite c k b) := Lengths.holds _
theorem Lengths.registerWrite (r) (b) : Lengths.Statement (.registerWrite r b) := Lengths.holds _
theorem Lengths.accessCompletesAtHome (n) : Lengths.Statement (.accessCompletesAtHome n) := Lengths.holds _
theorem Lengths.debtRepaymentStart (layer) : Lengths.Statement (.debtRepaymentStart layer) := Lengths.holds _

end Sys2Proof.Laws
end

