-- ==== Sys2Proof/Laws/Registers.lean ====
section
/-! SUPPORT. The register file: a register written reads back, every other one keeps its value. -/

namespace Sys2Proof.Laws

open Sys2Proof Sys2Proof.Machine Sys2Proof.Claims

theorem getD_toList {α : Type} {n : Nat} (v : Vector α n) {i : Nat} (h : i < n) (d : α) :
    v.toList.getD i d = v[i] := by
  simp [List.getD, h]

theorem setAt_same {α : Type} {n : Nat} (v : Vector α n) {i : Nat} (h : i < n) (a d : α) :
    (setAt v i a).toList.getD i d = a := by
  rw [getD_toList _ h]
  simp [setAt, h]

theorem setAt_other {α : Type} {n : Nat} (v : Vector α n) {i j : Nat} (hij : j ≠ i) (a d : α) :
    (setAt v i a).toList.getD j d = v.toList.getD j d := by
  unfold setAt
  split
  · by_cases hj : j < n
    · rw [getD_toList _ hj, getD_toList _ hj]
      simp [Ne.symm hij]
    · simp [List.getD, hj]
  · rfl

theorem get_setAt_same {α : Type} {n : Nat} (v : Vector α n) (i : Fin n) (a : α) : (setAt v i.1 a).get i = a := by
  rw [setAt, dif_pos i.2]
  exact Vector.getElem_set_self ..

theorem get_setAt_other {α : Type} {n : Nat} (v : Vector α n) {i j : Fin n} (h : j ≠ i) (a : α) :
    (setAt v i.1 a).get j = v.get j := by
  rw [setAt, dif_pos i.2]
  exact Vector.getElem_set_ne i.2 j.2 (fun e => h (Fin.ext e.symm))

/-- An element of a list replaced. -/
theorem setNth_get {α : Type} (i j : Nat) (a : α) (l : List α) :
    (setNth i a l)[j]? = if j = i then (l[j]?).map (fun _ => a) else l[j]? := by
  induction l generalizing i j with
  | nil => cases i <;> simp [setNth]
  | cons x xs ih =>
    cases i with
    | zero => cases j <;> simp [setNth]
    | succ i => cases j <;> simp [setNth, ih]

theorem setNth_length {α : Type} (i : Nat) (a : α) (l : List α) : (setNth i a l).length = l.length := by
  induction l generalizing i with
  | nil => cases i <;> rfl
  | cons x xs ih => cases i <;> simp [setNth, ih]

/-- A resident register below the depth ahead has its frame. -/
theorem resident_frame {x : Ctx} {k : Nat} (h : resident x (.w k)) (hk : k / 16 ≠ x.depth + 1) :
    k / 16 - x.oldestDepth < x.frames.length := by
  obtain ⟨h1, h2, h3, -, h4⟩ := h
  have := List.length_pos_iff.2 h1
  unfold Ctx.oldestDepth at *
  omega

/-- A register written reads back in the file as its kind holds it; every other resident one keeps its value. -/
theorem file_setFile {x : Ctx} {r q : RegName} (v : Vec) (hr : resident x r) (hq : resident x q) :
    (x.setFile r v).file q = if q = r ∧ r.fixed = false then held r v else x.file q := by
  cases r with
  | g n =>
    by_cases hn : n = 0
    · simp [Ctx.setFile, hn, RegName.fixed]
    · have hn' : ¬n = 0#3 := hn
      cases q with
      | g m =>
        by_cases hm : m = n
        · subst hm
          simp only [Ctx.setFile, Ctx.file, hn, if_false]
          rw [show m.toNat = m.toFin.1 from rfl, get_setAt_same]
          simp [RegName.fixed, hn', held]
        · simp only [Ctx.setFile, Ctx.file, hn, if_false]
          rw [show n.toNat = n.toFin.1 from rfl, get_setAt_other _ (fun e => hm (BitVec.eq_of_toFin_eq e))]
          simp only [RegName.g.injEq, hm, false_and, if_false]
      | w k => simp [Ctx.setFile, Ctx.file, hn', Ctx.oldestDepth]
      | v k => simp [Ctx.setFile, Ctx.file, hn']
      | p k => simp only [Ctx.setFile, Ctx.file, hn, if_false, reduceCtorEq, false_and]
      | m k => simp [Ctx.setFile, Ctx.file, hn']
  | v n =>
    cases q with
    | v m =>
      by_cases hm : m = n
      · subst hm
        simp only [Ctx.setFile, Ctx.file]
        rw [show m.toNat = m.toFin.1 from rfl, get_setAt_same]
        simp [RegName.fixed, held]
      · simp only [Ctx.setFile, Ctx.file]
        rw [show n.toNat = n.toFin.1 from rfl, get_setAt_other _ (fun e => hm (BitVec.eq_of_toFin_eq e))]
        simp [hm]
    | w k => simp [Ctx.setFile, Ctx.file, Ctx.oldestDepth]
    | g k => simp [Ctx.setFile, Ctx.file]
    | p k => simp [Ctx.setFile, Ctx.file]
    | m k => simp [Ctx.setFile, Ctx.file]
  | p n =>
    by_cases hn : n = 0
    · simp [Ctx.setFile, hn, RegName.fixed]
    · have hn' : ¬n = 0#3 := hn
      cases q with
      | p m =>
        by_cases hm : m = n
        · subst hm
          simp only [Ctx.setFile, Ctx.file, hn, if_false]
          rw [show m.toNat = m.toFin.1 from rfl, get_setAt_same]
          simp [RegName.fixed, hn', held]
        · simp only [Ctx.setFile, Ctx.file, hn, if_false]
          rw [show n.toNat = n.toFin.1 from rfl, get_setAt_other _ (fun e => hm (BitVec.eq_of_toFin_eq e))]
          simp [hm]
      | w k => simp [Ctx.setFile, Ctx.file, hn', Ctx.oldestDepth]
      | v k => simp [Ctx.setFile, Ctx.file, hn']
      | g k => simp [Ctx.setFile, Ctx.file, hn']
      | m k => simp [Ctx.setFile, Ctx.file, hn']
  | m n =>
    cases q with
    | m k =>
      by_cases hm : k = n
      · subst hm
        simp only [Ctx.setFile, Ctx.file]
        rw [show k.toNat = k.toFin.1 from rfl, get_setAt_same]
        simp [RegName.fixed, held]
      · simp only [Ctx.setFile, Ctx.file]
        rw [show n.toNat = n.toFin.1 from rfl, get_setAt_other _ (fun e => hm (BitVec.eq_of_toFin_eq e))]
        simp [hm]
    | w k => simp [Ctx.setFile, Ctx.file, Ctx.oldestDepth]
    | g k => simp [Ctx.setFile, Ctx.file]
    | p k => simp [Ctx.setFile, Ctx.file]
    | v k => simp [Ctx.setFile, Ctx.file]
  | w k =>
    by_cases hk : k / 16 = x.depth + 1
    · have hk8 : k % 16 < 8 := hr.2.2.2.1 hk
      cases q with
      | w j =>
        by_cases hj : j / 16 = x.depth + 1
        · by_cases hjk : j = k
          · subst hjk
            simp only [Ctx.setFile, Ctx.file, hk, if_true]
            rw [setAt_same _ hk8]
            simp [RegName.fixed, held]
          · have : j % 16 ≠ k % 16 := by omega
            simp only [Ctx.setFile, Ctx.file, hk, hj, if_true]
            rw [setAt_other _ this]
            simp [hjk]
        · have hjk : j ≠ k := fun e => hj (e ▸ hk)
          simp [Ctx.setFile, Ctx.file, hk, hj, hjk, Ctx.oldestDepth]
      | g j => simp [Ctx.setFile, Ctx.file, hk]
      | v j => simp [Ctx.setFile, Ctx.file, hk]
      | p j => simp [Ctx.setFile, Ctx.file, hk]
      | m j => simp [Ctx.setFile, Ctx.file, hk]
    · have hf := resident_frame hr hk
      obtain ⟨f, hfr⟩ : ∃ f, x.frames[k / 16 - x.oldestDepth]? = some f := ⟨_, List.getElem?_eq_getElem hf⟩
      have hset : x.setFile (.w k) v = { x with frames := setNth (k / 16 - x.oldestDepth) (setAt f (k % 16) (v.setWidth 64)) x.frames } := by
        simp [Ctx.setFile, hk, hfr]
      rw [hset]
      cases q with
      | w j =>
        by_cases hj : j / 16 = x.depth + 1
        · have hjk : j ≠ k := fun e => hk (e ▸ hj)
          simp [Ctx.file, hj, hjk]
        · simp only [Ctx.file, hj, if_false, Ctx.oldestDepth]
          rw [setNth_get]
          have h1 := hr.2.1
          have h2 := hq.2.1
          by_cases hjk : j = k
          · subst hjk
            rw [setNth_length, show j / 16 - (x.depth + 1 - x.frames.length) = j / 16 - x.oldestDepth from rfl, hfr, if_pos rfl]
            show ((setAt f (j % 16) (v.setWidth 64)).toList.getD (j % 16) 0).setWidth 1024 = _
            rw [setAt_same _ (Nat.mod_lt _ (by decide))]
            simp [RegName.fixed, held]
          · have hne : ¬(RegName.w j = RegName.w k ∧ (RegName.w k).fixed = false) :=
              fun h => hjk (RegName.w.inj h.1)
            simp only [hne, if_false]
            by_cases hd : j / 16 = k / 16
            · rw [setNth_length, hd, show k / 16 - (x.depth + 1 - x.frames.length) = k / 16 - x.oldestDepth from rfl, if_pos rfl, hfr]
              have : j % 16 ≠ k % 16 := by omega
              show ((setAt f (k % 16) (v.setWidth 64)).toList.getD (j % 16) 0).setWidth 1024 = _
              rw [setAt_other _ this]
            · rw [setNth_length, if_neg]
              unfold Ctx.oldestDepth at *
              omega
      | g j => simp [Ctx.file]
      | v j => simp [Ctx.file]
      | p j => simp [Ctx.file]
      | m j => simp [Ctx.file]

end Sys2Proof.Laws
end

