-- ==== Sys2Proof/Laws/Vector.lean ====
section
/-! SUPPORT. Packing lanes into a vector and reading them back, and what a masked vector result is. -/

namespace Sys2Proof.Laws

open Sys2Proof Sys2Proof.Machine Sys2Proof.Claims

/-- The number whose digits to the base `2^32` are some lanes, the first the lowest. -/
def packed : List (BitVec 32) → Nat
  | [] => 0
  | x :: xs => x.toNat + 2 ^ 32 * packed xs

/-- The sum that packing lanes builds. -/
theorem pack_fold (xs : List (BitVec 32)) (n acc : Nat) :
    (xs.zipIdx n).foldl (fun a (p : BitVec 32 × Nat) => a + p.1.toNat * 2 ^ (32 * p.2)) acc =
      acc + 2 ^ (32 * n) * packed xs := by
  induction xs generalizing n acc with
  | nil => simp [packed]
  | cons x xs ih =>
    simp only [List.zipIdx_cons, List.foldl_cons, packed]
    rw [ih, show 32 * (n + 1) = 32 * n + 32 from rfl, Nat.pow_add, Nat.mul_add, Nat.mul_assoc,
      Nat.mul_comm x.toNat]
    omega

/-- A digit of the packed number is its lane. -/
theorem packed_digit (xs : List (BitVec 32)) (i : Nat) (h : i < xs.length) :
    packed xs / 2 ^ (32 * i) % 2 ^ 32 = xs[i].toNat := by
  induction xs generalizing i with
  | nil => simp at h
  | cons x xs ih =>
    have hx := x.isLt
    cases i with
    | zero => simp only [packed]; simp; omega
    | succ i =>
      have hi : i < xs.length := by simpa using h
      rw [show 32 * (i + 1) = 32 + 32 * i by omega, Nat.pow_add, ← Nat.div_div_eq_div_mul,
        show packed (x :: xs) / 2 ^ 32 = packed xs by simp only [packed]; omega, ih i hi]
      simp

/-- A lane of a packed vector. -/
theorem lane_packLanes (xs : List (BitVec 32)) (i : Nat) (h : i < xs.length) (h32 : i < 32) :
    lane (packLanes xs) i = xs[i] := by
  have hp : packLanes xs = BitVec.ofNat 1024 (packed xs) := by
    simp only [packLanes]
    rw [show xs.zipIdx = xs.zipIdx 0 from rfl]
    have := pack_fold xs 0 0
    simp at this
    exact congrArg _ this
  apply BitVec.eq_of_toNat_eq
  rw [← packed_digit xs i h, hp]
  apply Nat.eq_of_testBit_eq
  intro k
  simp only [lane, BitVec.extractLsb'_toNat, BitVec.toNat_ofNat, Nat.testBit_mod_two_pow, Nat.testBit_shiftRight,
    Nat.testBit_div_two_pow]
  by_cases hk : k < 32
  · have : k + 32 * i < 1024 := by omega
    simp [hk, this, Nat.add_comm (32 * i)]
  · simp [hk]

/-- A vector's lanes as a list. -/
theorem lanesOf_get (v : Vec) (i : Nat) (h : i < 32) : (lanesOf v)[i]? = some (lane v i) := by
  simp [lanesOf, h]

/-- The events of lanes counted only where active. -/
theorem evSum_filter (act : Nat → Bool) (f g : Nat → BitVec 32 × Ev) (hg : ∀ i, (g i).2 = Ev.zero)
    (l : List Nat) (z : Ev) :
    (l.map (fun i => if act i then f i else g i)).foldl (fun a r => a.add r.2) z =
      (l.filter act).foldl (fun a i => a.add (f i).2) z := by
  induction l generalizing z with
  | nil => rfl
  | cons i l ih =>
    simp only [List.map_cons, List.foldl_cons, List.filter_cons]
    cases h : act i with
    | true => simpa [h] using ih _
    | false =>
      simp only [Bool.false_eq_true, if_false, hg]
      rw [show z.add Ev.zero = z from rfl]
      exact ih _

/-- Counting events leaves the turn. -/
@[simp] theorem count_cur (s : State) (ev : Ev) : (s.count ev).cur = s.cur := by
  simp only [State.count]
  split <;> rfl

/-- The lanes an instruction that takes masks has active. -/
theorem active_of {s : State} {op : Opcode} {w : Fields} {e : Entry} {t : State} (h : Runs s op w e t)
    (hm : maskable op = true) (i : Nat) : e.active t t.cur i = activeLane e t i := by
  simp only [Entry.active, activeLane, (plan_run h.plan).1.code, hm, Bool.true_and]
  cases e.w.me <;> simp

/-- What `emit` answers is a vector result under the instruction's mask. -/
theorem emit_lanes {s : State} {op : Opcode} {w : Fields} {e : Entry} {t : State} (h : Runs s op w e t)
    (act : Nat → Bool) (hact : ∀ i, e.active t t.cur i = act i) (f : Nat → BitVec 32 × Ev) (body : Body)
    (hb : body t.cur e t = e.emit t t.cur f) : Lanes (issue op w body s) t e act f := by
  rw [issue_runs h, hb]
  simp only [Entry.emit, State.finish, hact]
  refine ⟨packLanes (List.map (fun x => x.fst) (List.map (fun i => if act i then f i
    else (if e.w.zm then 0 else (e.vec t t.cur e.w.fd).extractLsb' (32 * i) 32, Ev.zero)) (List.range 32))), ?_, ?_⟩
  · rw [evSum, evSum_filter act f _ (fun _ => rfl), result, count_cur]
  · intro i hi
    rw [lane_packLanes _ i (by simpa using hi) hi]
    simp only [List.getElem_map, List.getElem_range]
    cases act i <;> rfl

/-- An operand's lanes are what its slot supplies. -/
theorem vecOp_slot (e : Entry) (t : State) (o : Opd) (step : Word) : e.vecOp t t.cur o step = slot e t o step := by
  funext i
  simp only [Entry.vecOp, slot, Entry.vec]
  cases o.cls <;> simp

end Sys2Proof.Laws
end

