-- ==== Sys2Proof/Tests/Slice0.lean ====
section
/-! SUPPORT. The model's own tests: words written out from the specification's encoding tables, a term the
check refuses for each of its reasons, and states that meet the hypotheses of the statements. The numbers are
worked by hand from the rules the statements cite. -/

namespace Sys2Proof.Tests

set_option Elab.async false

open Sys2Proof Sys2Proof.Machine Sys2Proof.Claims Sys2Proof.Laws

/-! ## Operands, fields and small states -/

def opG (n : Nat) : Opd := ⟨.scalar, BitVec.ofNat 6 n⟩
def opW (n : Nat) : Opd := ⟨.scalar, BitVec.ofNat 6 (8 + n)⟩
def opLit : Opd := ⟨.scalar, 63⟩
def opV (n : Nat) : Opd := ⟨.vector, BitVec.ofNat 6 n⟩
def opP (n : Nat) : Opd := ⟨.pred, BitVec.ofNat 6 n⟩
def opM (n : Nat) : Opd := ⟨.pred, BitVec.ofNat 6 (8 + n)⟩
def opS (n : Nat) : Opd := ⟨.special, BitVec.ofNat 6 n⟩

/-- Fields with no guard and no hint. -/
def mk (fd : Opd := opG 0) (fa : Opd := opG 0) (fb : Opd := opG 0) (ty : Ty := .i64) (os : Nat := 0) (lit : Nat := 0)
    (form : Form := .m) : Fields :=
  ⟨form, ⟨false, 0⟩, ⟨false, false, 0, false⟩, fd, fa, fb, BitVec.ofNat 8 os, 0, .rne, ty, BitVec.ofNat 32 lit⟩

/-- A ready context at 0x1000 with some registers. -/
def ctxOf (l : List (RegName × Nat)) : Ctx :=
  l.foldl (fun x r => x.setFile r.1 (BitVec.ofNat 1024 r.2)) (Ctx.control 0x1000 16)

/-- The state after reset with that context as context 0. -/
def stateOf (l : List (RegName × Nat)) : State :=
  { State.reset with ctxs := State.reset.ctxs.set 0 (ctxOf l) }

/-- A state and an instruction that runs in it, with what must hold of its operands and after it. -/
structure Case where
  s : State
  op : Opcode
  w : Fields
  holds : Entry → State → Bool := fun _ _ => true
  after : State → Bool := fun _ => true

/-- What must hold of an outcome's next state. -/
def nextOk (p : State → Bool) : Host.Outcome State Fault Refusal → Bool
  | .next s => p s
  | _ => false

theorem nextOk_spec {p : State → Bool} {o : Host.Outcome State Fault Refusal} (h : nextOk p o = true) :
    ∃ s', o = .next s' ∧ p s' = true := by
  unfold nextOk at h
  split at h
  · exact ⟨_, rfl, h⟩
  · cases h

def Case.ok (k : Case) : Bool :=
  k.s.house.powered && (mine k.s).live && (match k.s.plan k.s.cur k.op k.w with
    | .run e t => k.holds e t
    | _ => false) && nextOk k.after (exec (Instr.ofOp k.op k.w) k.s)

/-- Each case's instruction runs, its operands are as the case says, and so is the state after it. -/
def Witnesses (l : List Case) : Prop :=
  ∀ k ∈ l, (∃ e t, Runs k.s k.op k.w e t ∧ k.holds e t = true)
    ∧ ∃ s', exec (Instr.ofOp k.op k.w) k.s = .next s' ∧ k.after s' = true

theorem witnesses {l : List Case} (h : l.all Case.ok = true) : Witnesses l := by
  intro k hk
  have hk := List.all_eq_true.1 h k hk
  simp only [Case.ok, Bool.and_eq_true] at hk
  obtain ⟨⟨⟨h1, h2⟩, h3⟩, h4⟩ := hk
  refine ⟨?_, nextOk_spec h4⟩
  split at h3
  · rename_i e t hp
    exact ⟨e, t, ⟨h1, h2, hp⟩, h3⟩
  · cases h3

/-- An event that occurs in a state, with what must hold of that state and of the one after it. -/
structure Move where
  s : State
  i : Instr
  holds : State → Bool := fun _ => true
  after : State → Bool := fun _ => true

def Move.ok (m : Move) : Bool := m.s.house.powered && m.holds m.s && nextOk m.after (exec m.i m.s)

def Moves (l : List Move) : Prop :=
  ∀ m ∈ l, m.s.house.powered = true ∧ m.holds m.s = true ∧ ∃ s', exec m.i m.s = .next s' ∧ m.after s' = true

theorem moves {l : List Move} (h : l.all Move.ok = true) : Moves l := by
  intro m hm
  have hm := List.all_eq_true.1 h m hm
  simp only [Move.ok, Bool.and_eq_true] at hm
  exact ⟨hm.1.1, hm.1.2, nextOk_spec hm.2⟩

/-- The state after an instruction. -/
def ran (i : Instr) (s : State) : State :=
  match exec i s with
  | .next s' => s'
  | _ => s

/-- Nothing more is asked of the operands. -/
def any : Entry → State → Bool := fun _ _ => true

/-- A register of the issuing context reads as a number. -/
def reads (r : RegName) (n : Nat) : State → Bool := fun s => (mine s).read r == BitVec.ofNat 1024 n

/-- The issuing context's PC. -/
def pcIs (n : Nat) : State → Bool := fun s => (mine s).pc == BitVec.ofNat 64 n

/-- The issuing context's trap cause and information. -/
def trapIs (cause info : Nat) : State → Bool :=
  fun s => (mine s).trapCause == BitVec.ofNat 64 cause && (mine s).trapInfo == BitVec.ofNat 64 info

theorem pairOf {α β : Type} {x : α × β} {a : α} (h : x.1 = a) : ∃ b, x = (a, b) := ⟨x.2, Prod.ext h rfl⟩

/-- The state with a change to context 0. -/
def onCtx (s : State) (f : Ctx → Ctx) : State := s.modCtx 0 f

theorem okOf {ε α : Type} {x : Except ε α} {a : α} (h : x.toOption = some a) : x = .ok a := by
  cases x with
  | ok b => simpa [Except.toOption] using h
  | error => cases h

/-- Two numbers in `w0` and `w1`, and traps that vector to 0x8000. -/
def two (a b : Nat) : State :=
  onCtx (stateOf [(.w 0, a), (.w 1, b)]) (fun x => { x with trapVec := 0x8001 })

def on01 (ty : Ty := .i64) (os : Nat := 0) (lit : Nat := 0) : Fields := mk (opW 2) (opW 0) (opW 1) ty os lit


/-! ## Well-formedness -/

/-- One ill-formed term for each reason the check gives, and what the reason is (R51, R52). -/
def ill : List (Nat × Opcode × Fields) := [
    (0x02, .add, { mk (opW 2) (opW 0) (opW 1) with guard := ⟨true, 0⟩ }),
    (0x03, .add, mk ⟨.scalar, 32⟩ (opW 0) (opW 1)), (0x03, .vadd, mk (opV 32) (opV 1) (opV 3) .i32),
    (0x03, .pset, mk ⟨.pred, 16⟩ (opG 0) (opW 1) .i8), (0x03, .rcon, mk (opV 24) (opW 0) (opG 0) .i8 2),
    (0x03, .mmas, mk (opS 0) (opW 23) (opW 0) .i8), (0x03, .mmav, mk (opW 2) (opV 2) (opW 0) .i8),
    (0x03, .sfree, mk (opV 23) (ty := .i8)), (0x04, .add, mk (opV 2) (opW 0) (opW 1)),
    (0x04, .btry, mk (opM 1) (opW 0) (ty := .i8)), (0x05, .add, mk (opW 2) opLit (opW 1)), (0x05, .add, mk opLit (opW 0) (opW 1)),
    (0x06, .add, mk (opW 2) (opW 0) (opW 1) .f32), (0x07, .add, { mk (opW 2) (opW 0) (opW 1) with rm := .rtz }),
    (0x08, .add, { mk (opW 2) (opW 0) (opW 1) with sz := 1 }), (0x08, .cmp, { mk (opP 1) (opW 0) (opW 1) with sz := 6 }),
    (0x09, .add, mk (opW 2) (opW 0) (opW 1) .i64 1), (0x09, .vadd, mk (opV 2) (opV 1) (opV 3) .i32 16),
    (0x0A, .clz, mk (opW 2) (opW 0) (opW 1)), (0x0A, .add, mk (opW 2) (opW 0) (opW 1) .i64 0 5 .l),
    (0x0A, .linc, mk (opW 23) (ty := .i8))]

theorem test_wellFormed_refuses : ∀ x ∈ ill, (Instr.ofOp x.2.1 x.2.2).wf = false
    ∧ illegalReason Caps.full x.2.1 x.2.2.raw = some x.1 := by decide +kernel

/-- A literal in a form that has no place for one, an S form in a wide constructor, S slots out of range, and event
data out of range. -/
theorem test_wellFormed_refuses_rest : WellFormed (.add (mk (opW 2) (opW 0) (opW 1)))
    ∧ ¬ WellFormed (.add (mk (opW 2) (opW 0) opLit .i64 0 5 .m)) ∧ ¬ WellFormed (.add (mk (opW 2) (opW 0) (opW 1) .i64 0 0 .s))
    ∧ ¬ WellFormed (.addI64Short ⟨false, 0, 0, 32, 0⟩) ∧ ¬ WellFormed (.addI64Short ⟨false, 0, 0, 0, 63⟩)
    ∧ ¬ WellFormed (.vandShort ⟨false, 0, 32, 0, 0⟩) ∧ ¬ WellFormed (.cmpI64EqShort ⟨false, 0, 0, 0, 16⟩)
    ∧ ¬ WellFormed (.retShort ⟨false, 0, 1, 0, 0⟩) ∧ ¬ WellFormed (.xltInvRange 0 0 ⟨1, 1⟩)
    ∧ ¬ WellFormed (.coldStart ⟨[], [], [], [], 0, none⟩) := by decide +kernel

theorem wit_DecodeEncode : WellFormed (.add (mk (opW 2) (opW 0) (opW 1))) ∧ isEvent (.add (mk (opW 2) (opW 0) (opW 1))) = false := by
  decide +kernel

theorem wit_EncodeDecode : ∃ i rest, decode Caps.full [0x02, 0, 0, 0, 0, 0, 0, 0, 5] = .ok (i, rest) := by
  have h : (decode Caps.full [0x02, 0, 0, 0, 0, 0, 0, 0, 5]).toOption.isSome = true := by decide +kernel
  obtain ⟨x, hx⟩ := Option.isSome_iff_exists.1 h
  exact ⟨x.1, x.2, okOf hx⟩


/-! ## Decoding

Each word is written out from the fields of R25 and the opcode map of R44, or R45 and the short opcodes of R49. -/

/-- A size code and a rounding mode. -/
def sr (sz : Nat) (rm : Rm) (w : Fields) : Fields := { w with sz := BitVec.ofNat 3 sz, rm := rm }

/-- A guard and hints. -/
def gh (neg : Bool) (p : Nat) (db yd : Bool) (stall : Nat) (w : Fields) : Fields :=
  { w with guard := ⟨neg, BitVec.ofNat 3 p⟩, hints := ⟨db, yd, BitVec.ofNat 3 stall, false⟩ }

/-- Each word decodes to its instruction. -/
def Decodes (l : List (Nat × Instr)) : Prop := ∀ x ∈ l, decodeTableWord 96 x.1 = some x.2

theorem decodes {l : List (Nat × Instr)} (h : l.all (fun x => decodeTableWord 96 x.1 == some x.2) = true) : Decodes l :=
  fun x hx => beq_iff_eq.1 (List.all_eq_true.1 h x hx)

theorem test_decode_control : Decodes [
    (0x2, .nop (mk (opG 0) (opG 0) (opG 0) .i8 0)),
    (0x2C000021006, .br (gh false 1 false false 1 (mk (opG 0) (opG 0) (opW 3) .i8 0))),
    (0x2C00010200A, .jmp (gh false 2 false true 0 (mk (opG 0) (opG 0) (opW 3) .i8 0))),
    (0x2C00020300E, .call (gh false 3 true false 0 (mk (opG 0) (opG 0) (opW 3) .i8 0))),
    (0x2C000004012, .callr (gh false 4 false false 0 (mk (opG 0) (opG 0) (opW 3) .i8 0))),
    (0x5016, .ret (gh false 5 false false 0 (mk (opG 0) (opG 0) (opG 0) .i8 0))),
    (0x4110824C601A, .jp (gh false 6 false false 6 (mk (opW 1) (opV 2) (opG 4) .i8 1))),
    (0x2320C0701E, .waitp (gh false 7 false false 0 (mk (opP 3) (opM 4) (opG 0) .i8 0))),
    (0x7C00340000022, .loop (mk (opG 0) (opW 5) (opG 0) .i8 31)),
    (0x1C000400026, .linc (mk (opG 1) (opG 0) (opG 7) .i8 0)),
    (0x320302C280A02A, .start (gh true 2 false false 0 (mk (opW 2) (opW 3) (opW 4) .i8 200))),
    (0x2C286B02E, .join (gh true 3 false false 3 (mk (opW 2) (opW 3) (opG 0) .i8 0))),
    (0xC032, .exit (gh true 4 false false 0 (mk (opG 0) (opG 0) (opG 0) .i8 0))),
    (0x36, .yield (mk (opG 0) (opG 0) (opG 0) .i8 0)),
    (0x2C00000E03A, .trap (gh true 6 false false 0 (mk (opG 0) (opG 0) (opW 3) .i8 0))),
    (0xF03E, .defer (gh true 7 false false 0 (mk (opG 0) (opG 0) (opG 0) .i8 0))),
    (0x200042, .park (gh false 0 true false 0 (mk (opG 0) (opG 0) (opG 0) .i8 0)))] := decodes (by decide +kernel)

theorem test_decode_integer : Decodes [
    (0x500001C202801102, .add (gh false 1 false false 0 (mk (opW 2) (opW 0) (opG 7) .ui16 0))),
    (0x500001C202802106, .sub (gh false 2 false false 0 (mk (opW 2) (opW 0) (opG 7) .ui16 0))),
    (0x500001C20280310A, .mul (gh false 3 false false 0 (mk (opW 2) (opW 0) (opG 7) .ui16 0))),
    (0x500001C20280410E, .mulh (gh false 4 false false 0 (mk (opW 2) (opW 0) (opG 7) .ui16 0))),
    (0x500001C2028A5112, .mulhu (gh false 5 false false 5 (mk (opW 2) (opW 0) (opG 7) .ui16 0))),
    (0x500001C202806116, .div (gh false 6 false false 0 (mk (opW 2) (opW 0) (opG 7) .ui16 0))),
    (0x500001C20280711A, .divu (gh false 7 false false 0 (mk (opW 2) (opW 0) (opG 7) .ui16 0))),
    (0x500001C20290011E, .rem (gh false 0 false true 0 (mk (opW 2) (opW 0) (opG 7) .ui16 0))),
    (0x500001C202809122, .remu (gh true 1 false false 0 (mk (opW 2) (opW 0) (opG 7) .ui16 0))),
    (0x500001C20284A126, .and (gh true 2 false false 2 (mk (opW 2) (opW 0) (opG 7) .ui16 0))),
    (0x500001C20280B12A, .or (gh true 3 false false 0 (mk (opW 2) (opW 0) (opG 7) .ui16 0))),
    (0x500001C20280C12E, .xor (gh true 4 false false 0 (mk (opW 2) (opW 0) (opG 7) .ui16 0))),
    (0x500001C202A0D132, .andn (gh true 5 true false 0 (mk (opW 2) (opW 0) (opG 7) .ui16 0))),
    (0x500001C20280E136, .shl (gh true 6 false false 0 (mk (opW 2) (opW 0) (opG 7) .ui16 0))),
    (0x500001C2028EF13A, .shr (gh true 7 false false 7 (mk (opW 2) (opW 0) (opG 7) .ui16 0))),
    (0x500001C20280013E, .sar (mk (opW 2) (opW 0) (opG 7) .ui16 0)),
    (0x500001C202801142, .rot (gh false 1 false false 0 (mk (opW 2) (opW 0) (opG 7) .ui16 0))),
    (0x500001C202802146, .min (gh false 2 false false 0 (mk (opW 2) (opW 0) (opG 7) .ui16 0))),
    (0x500001C20290314A, .max (gh false 3 false true 0 (mk (opW 2) (opW 0) (opG 7) .ui16 0))),
    (0x500001C20288414E, .minu (gh false 4 false false 4 (mk (opW 2) (opW 0) (opG 7) .ui16 0))),
    (0x500001C202805152, .maxu (gh false 5 false false 0 (mk (opW 2) (opW 0) (opG 7) .ui16 0))),
    (0x7000000047C06156, .clz (gh false 6 false false 0 (mk (opW 23) (opG 1) (opG 0) .ui64 0))),
    (0x7000000047C0715A, .ctz (gh false 7 false false 0 (mk (opW 23) (opG 1) (opG 0) .ui64 0))),
    (0x7000000047C0015E, .popc (mk (opW 23) (opG 1) (opG 0) .ui64 0)),
    (0x500001C202829162, .bext (gh true 1 false false 1 (mk (opW 2) (opW 0) (opG 7) .ui16 0))),
    (0x500001C202A0A166, .bins (gh true 2 true false 0 (mk (opW 2) (opW 0) (opG 7) .ui16 0))),
    (0x8000024280B16A, .sext (gh true 3 false false 0 (sr 2 .rne (mk (opW 2) (opW 1) (opG 0) .i8 0)))),
    (0x8000024280C16E, .zext (gh true 4 false false 0 (sr 2 .rne (mk (opW 2) (opW 1) (opG 0) .i8 0)))),
    (0x200000024280D172, .mov (gh true 5 false false 0 (mk (opW 2) (opW 1) (opG 0) .i32 0))),
    (0x8000000100004FC0029CE177, .movl (gh true 6 false true 6 (mk (opW 2) (opG 0) opLit .i8 1 0x80000001 .l))),
    (0x1C2420280F17A, .sel (gh true 7 false false 0 (mk (opW 2) (opW 0) (opW 1) .i8 7))),
    (0x1140824221C0017E, .cmp (sr 5 .rne (mk (opP 7) (opW 0) (opW 1) .i16 2))),
    (0x24023401182, .pset (gh false 1 false false 0 (mk (opM 5) (opG 0) (opW 1) .i8 0))),
    (0x162E0A2402186, .pmov (gh false 2 false false 0 (mk (opM 1) (opP 2) (opM 3) .i8 5))),
    (0x18002420286318A, .addr (gh false 3 false false 3 (sr 6 .rne (mk (opW 2) (opW 0) (opW 1) .i8 0))))] := decodes (by decide +kernel)

theorem test_decode_floating : Decodes [
    (0x9A00024202804302, .fadd (gh false 4 false false 0 (sr 0 .stoch (mk (opW 2) (opW 0) (opW 1) .bf16 0)))),
    (0x9A00024202805306, .fsub (gh false 5 false false 0 (sr 0 .stoch (mk (opW 2) (opW 0) (opW 1) .bf16 0)))),
    (0x9A0002420280630A, .fmul (gh false 6 false false 0 (sr 0 .stoch (mk (opW 2) (opW 0) (opW 1) .bf16 0)))),
    (0x9A00024202A0730E, .ffma (gh false 7 true false 0 (sr 0 .stoch (mk (opW 2) (opW 0) (opW 1) .bf16 0)))),
    (0x9A00024202800312, .fdiv (sr 0 .stoch (mk (opW 2) (opW 0) (opW 1) .bf16 0))),
    (0xA200000202909316, .fsqrt (gh true 1 false true 0 (sr 0 .rtz (mk (opW 2) (opW 0) (opG 0) .f16 0)))),
    (0x800002420280A31A, .fmin (gh true 2 false false 0 (mk (opW 2) (opW 0) (opW 1) .f32 0))),
    (0x800002420280B31E, .fmax (gh true 3 false false 0 (mk (opW 2) (opW 0) (opW 1) .f32 0))),
    (0xA00000020280C322, .fabs (gh true 4 false false 0 (mk (opW 2) (opW 0) (opG 0) .f16 0))),
    (0xA0000002028AD326, .fneg (gh true 5 false false 5 (mk (opW 2) (opW 0) (opG 0) .f16 0))),
    (0x81C042422040E32A, .fcmp (gh true 6 false false 0 (sr 7 .rne (mk (opP 1) (opW 0) (opW 1) .f32 1)))),
    (0xA80280020280F32E, .fcvt (gh true 7 false false 0 (sr 0 .rna (mk (opW 2) (opW 0) (opG 0) .f16 10)))),
    (0xA000000202800332, .fclass (mk (opW 2) (opW 0) (opG 0) .f16 0))] := decodes (by decide +kernel)

theorem test_decode_memory : Decodes [
    (0x2020024202801402, .ld (gh false 1 false false 0 (mk (opW 2) (opW 0) (opW 1) .i32 128))),
    (0x2020024202842406, .st (gh false 2 false false 2 (mk (opW 2) (opW 0) (opW 1) .i32 128))),
    (0x2002421080340A, .ldv (gh false 3 false false 0 (mk (opV 2) (opW 0) (opW 1) .i8 128))),
    (0x20024210B0440E, .stv (gh false 4 true true 0 (mk (opV 2) (opW 0) (opW 1) .i8 128))),
    (0xB028C24210805412, .ldx (gh false 5 false false 0 (mk (opV 2) (opW 0) (opW 1) .nf 163))),
    (0xB028C24210806416, .stx (gh false 6 false false 0 (mk (opV 2) (opW 0) (opW 1) .nf 163))),
    (0x80024242028E741A, .atom (gh false 7 false false 7 (mk (opW 2) (opW 0) (opW 1) .f32 9))),
    (0x302C02420280041E, .cas (mk (opW 2) (opW 0) (opW 1) .i64 176)),
    (0x24200009422, .pref (gh true 1 false false 0 (mk (opG 0) (opW 0) (opW 1) .i8 0))),
    (0xC2420280A426, .bbind (gh true 2 false false 0 (mk (opW 2) (opW 0) (opW 1) .i8 3))),
    (0x40020000B42A, .acq (gh true 3 false false 0 (mk (opG 0) (opW 0) (opG 0) .i8 1))),
    (0x20008C42E, .rel (gh true 4 false false 4 (mk (opG 0) (opW 0) (opG 0) .i8 0))),
    (0x22080D432, .btry (gh true 5 false false 0 (mk (opP 2) (opW 0) (opG 0) .i8 0))),
    (0x1FC0000000E436, .fence (gh true 6 false false 0 (mk (opG 0) (opG 0) (opG 0) .i8 127))),
    (0x10F43A, .lbfence (gh true 7 false true 0 (mk (opG 0) (opG 0) (opG 0) .i8 0))),
    (0x20000043E, .isync (mk (opG 0) (opW 0) (opG 0) .i8 0))] := decodes (by decide +kernel)

theorem test_decode_rows : Decodes [
    (0x24200221502, .ract (gh false 1 true false 1 (mk (opG 0) (opW 0) (opW 1) .i8 0))),
    (0x800214002506, .rcon (gh false 2 false false 0 (mk (opV 16) (opW 0) (opG 0) .i8 2))),
    (0x80021400350A, .rwb (gh false 3 false false 0 (mk (opV 16) (opW 0) (opG 0) .i8 2))),
    (0x20000450E, .rpre (gh false 4 false false 0 (mk (opG 0) (opW 0) (opG 0) .i8 0))),
    (0xC00202805512, .rstat (gh false 5 false false 0 (mk (opW 2) (opW 0) (opG 0) .i8 3))),
    (0x2000C6516, .rref (gh false 6 false false 6 (mk (opG 0) (opW 0) (opG 0) .i8 0)))] := decodes (by decide +kernel)

theorem test_decode_streams_messages : Decodes [
    (0xA620000216007602, .sbind (gh false 7 false false 0 (sr 0 .rup (mk (opV 24) (opW 0) (opG 0) .f16 128)))),
    (0x17C00606, .sfree (mk (opV 31) (opG 0) (opG 0) .i8 0)),
    (0x17C0960A, .sdrain (gh true 1 false false 0 (mk (opV 31) (opG 0) (opG 0) .i8 0))),
    (0x164290A60E, .sstat (gh true 2 false true 0 (mk (opW 2) (opV 25) (opG 0) .i8 0))),
    (0x2002420286B612, .iload (gh true 3 false false 3 (mk (opW 2) (opW 0) (opW 1) .i8 128))),
    (0x2420280C616, .irun (gh true 4 false false 0 (mk (opW 2) (opW 0) (opW 1) .i8 0))),
    (0x42420280D61A, .iwait (gh true 5 false false 0 (mk (opW 2) (opW 0) (opW 1) .i8 1))),
    (0x24220A0E61E, .ipoll (gh true 6 true false 0 (mk (opP 2) (opW 0) (opW 1) .i8 0))),
    (0x2420000F622, .idrop (gh true 7 false false 0 (mk (opG 0) (opW 0) (opW 1) .i8 0))),
    (0x202800626, .send (mk (opW 2) (opW 0) (opG 0) .i8 0)),
    (0x20280162A, .recv (gh false 1 false false 0 (mk (opW 2) (opW 0) (opG 0) .i8 0))),
    (0x20280262E, .put (gh false 2 false false 0 (mk (opW 2) (opW 0) (opG 0) .i8 0))),
    (0x202803632, .get (gh false 3 false false 0 (mk (opW 2) (opW 0) (opG 0) .i8 0))),
    (0x8018800202804636, .coll (gh false 4 false false 0 (mk (opW 2) (opW 0) (opG 0) .f32 98))),
    (0x8000029A563A, .bar (gh false 5 false true 5 (mk (opW 2) (opG 0) (opG 0) .i8 2))),
    (0xC0020280663E, .barc (gh false 6 false false 0 (mk (opW 2) (opW 0) (opG 0) .i8 3)))] := decodes (by decide +kernel)

theorem test_decode_vector : Decodes [
    (0x843E10D050807702, .vadd (gh false 7 false false 0 (sr 0 .rdn (mk (opV 2) (opV 1) (opV 3) .f32 248)))),
    (0x843E10D050800706, .vsub (sr 0 .rdn (mk (opV 2) (opV 1) (opV 3) .f32 248))),
    (0x843E10D05080970A, .vmul (gh true 1 false false 0 (sr 0 .rdn (mk (opV 2) (opV 1) (opV 3) .f32 248)))),
    (0x843E10D05084A70E, .vfma (gh true 2 false false 2 (sr 0 .rdn (mk (opV 2) (opV 1) (opV 3) .f32 248)))),
    (0x843E10D050A0B712, .vfms (gh true 3 true false 0 (sr 0 .rdn (mk (opV 2) (opV 1) (opV 3) .f32 248)))),
    (0x802400105080C716, .vrcp (gh true 4 false false 0 (mk (opV 2) (opV 1) (opG 0) .f32 144))),
    (0x802400105080D71A, .vrsq (gh true 5 false false 0 (mk (opV 2) (opV 1) (opG 0) .f32 144))),
    (0x802400105080E71E, .vsqrt (gh true 6 false false 0 (mk (opV 2) (opV 1) (opG 0) .f32 144))),
    (0x80240010508EF722, .vexp2 (gh true 7 false false 7 (mk (opV 2) (opV 1) (opG 0) .f32 144))),
    (0x8024001050900726, .vlog2 (gh false 0 false true 0 (mk (opV 2) (opV 1) (opG 0) .f32 144))),
    (0x802400105080172A, .vtanh (gh false 1 false false 0 (mk (opV 2) (opV 1) (opG 0) .f32 144))),
    (0x600002D05080272E, .vmin (gh false 2 false false 0 (mk (opV 2) (opV 1) (opW 3) .ui32 0))),
    (0x600002D050803732, .vmax (gh false 3 false false 0 (mk (opV 2) (opV 1) (opW 3) .ui32 0))),
    (0x2000001050884736, .vabs (gh false 4 false false 4 (mk (opV 2) (opV 1) (opG 0) .i32 0))),
    (0x200000105080573A, .vneg (gh false 5 false false 0 (mk (opV 2) (opV 1) (opG 0) .i32 0))),
    (0x157D080673E, .vand (gh false 6 false false 0 (mk (opV 2) (opV 31) (opG 5) .i8 0))),
    (0x157D0807742, .vor (gh false 7 false false 0 (mk (opV 2) (opV 31) (opG 5) .i8 0))),
    (0x157D0A00746, .vxor (gh false 0 true false 0 (mk (opV 2) (opV 31) (opG 5) .i8 0))),
    (0x157D082974A, .vshl (gh true 1 false false 1 (mk (opV 2) (opV 31) (opG 5) .i8 0))),
    (0x157D080A74E, .vshr (gh true 2 false false 0 (mk (opV 2) (opV 31) (opG 5) .i8 0))),
    (0x157D090B752, .vsar (gh true 3 false true 0 (mk (opV 2) (opV 31) (opG 5) .i8 0))),
    (0x818050D06280C756, .vcmp (gh true 4 false false 0 (sr 6 .rne (mk (opM 2) (opV 1) (opV 3) .f32 1)))),
    (0x3C10D05080D75A, .vsel (gh true 5 false false 0 (mk (opV 2) (opV 1) (opV 3) .i8 240))),
    (0x2D0508CE75E, .vbcast (gh true 6 false false 6 (mk (opV 2) (opV 1) (opW 3) .i8 0))),
    (0x200002D04280F762, .vext (gh true 7 false false 0 (mk (opW 2) (opV 1) (opW 3) .i32 0))),
    (0x2C250800766, .vins (mk (opV 2) (opW 1) (opW 3) .i8 0)),
    (0x10D05080176A, .vshuf (gh false 1 false false 0 (mk (opV 2) (opV 1) (opV 3) .i8 0))),
    (0x10D05080276E, .vperm (gh false 2 false false 0 (mk (opV 2) (opV 1) (opV 3) .i8 0))),
    (0x2D050863772, .vrot (gh false 3 false false 3 (mk (opV 2) (opV 1) (opW 3) .i8 0))),
    (0x6000801042804776, .vred (gh false 4 false false 0 (mk (opW 2) (opV 1) (opG 0) .ui32 2))),
    (0x2001401050A0577A, .vscan (gh false 5 true false 0 (mk (opV 2) (opV 1) (opG 0) .i32 5))),
    (0x102000105090677E, .vcvt (gh false 6 false true 0 (mk (opV 2) (opV 1) (opG 0) .i16 128))),
    (0xBA3FC79050807782, .vcvto (gh false 7 false false 0 (sr 0 .stoch (mk (opV 2) (opV 1) (opW 22) .nf 255)))),
    (0xC00002D050800786, .vpack (mk (opV 2) (opV 1) (opW 3) .i4 0)),
    (0xC00002D05080978A, .vunpk (gh true 1 false false 0 (mk (opV 2) (opV 1) (opW 3) .i4 0))),
    (0xC00010D05080A78E, .vdot (gh true 2 false false 0 (mk (opV 2) (opV 1) (opV 3) .i4 0))),
    (0x2D05080B792, .vtag (gh true 3 false false 0 (mk (opV 2) (opV 1) (opW 3) .i8 0))),
    (0x800040104280C796, .vargm (gh true 4 false false 0 (mk (opW 2) (opV 1) (opG 0) .f32 1))),
    (0x2C0108AD79A, .viota (gh true 5 false false 5 (mk (opV 2) (opG 0) (opW 3) .i8 0))),
    (0x40225080E79E, .vmsk (gh true 6 false false 0 (mk (opV 2) (opM 1) (opG 0) .i8 1))),
    (0x80105080F7A2, .vcnt (gh true 7 false false 0 (mk (opV 2) (opV 1) (opG 0) .i8 2))),
    (0x600002D0508007A6, .vclamp (mk (opV 2) (opV 1) (opW 3) .ui32 0)),
    (0xB00FC010509017AA, .vqnt (gh false 1 false true 0 (mk (opV 2) (opV 1) (opG 0) .nf 63)))] := decodes (by decide +kernel)

theorem test_decode_matrix : Decodes [
    (0x2823F242B02, .mmas (gh false 2 true false 2 (mk (opS 60) (opW 0) (opW 2) .i8 0))),
    (0xB001429702803B06, .mmav (gh false 3 false false 0 (mk (opW 2) (opV 28) (opW 2) .nf 5))),
    (0x9000028271004B0A, .mmar (gh false 4 false false 0 (mk (opS 4) (opW 1) (opW 2) .bf16 0))),
    (0x2805B0E, .mcommit (gh false 5 false false 0 (mk (opW 2) (opG 0) (opG 0) .i8 0))),
    (0x24000006B12, .mwait (gh false 6 false false 0 (mk (opG 0) (opG 0) (opW 1) .i8 0))),
    (0x240224E7B16, .mpoll (gh false 7 false false 7 (mk (opM 1) (opG 0) (opW 1) .i8 0))),
    (0xA000024202800B1A, .mcmd (mk (opW 2) (opW 0) (opW 1) .f16 0)),
    (0x202809B1E, .mcap (gh true 1 false false 0 (mk (opW 2) (opW 0) (opG 0) .i8 0))),
    (0xC0000280AB22, .aballoc (gh true 2 false false 0 (mk (opW 2) (opG 0) (opG 0) .i8 3))),
    (0x803FC000BB26, .abfree (gh true 3 false false 0 (mk (opG 0) (opS 63) (opG 0) .i8 2))),
    (0x803FC018CB2A, .abzero (gh true 4 false true 4 (mk (opG 0) (opS 63) (opG 0) .i8 2))),
    (0x200002705080DB2E, .abread (gh true 5 false false 0 (mk (opV 2) (opS 1) (opW 1) .i32 0))),
    (0x800002C25080EB32, .abwrite (gh true 6 false false 0 (mk (opV 2) (opW 1) (opW 3) .f32 0))),
    (0xB002400202A0FB36, .mtq (gh true 7 true false 0 (mk (opW 2) (opW 0) (opG 0) .nf 9))),
    (0x400202800B3A, .mstat (mk (opW 2) (opW 0) (opG 0) .i8 1))] := decodes (by decide +kernel)

theorem test_decode_planes : Decodes [
    (0x424200021C02, .wload (gh false 1 false false 1 (mk (opG 0) (opW 0) (opW 1) .i8 1))),
    (0x2C06, .wswap (gh false 2 false false 0 (mk (opG 0) (opG 0) (opG 0) .i8 0))),
    (0x2050C222403C0A, .wpass (gh false 3 false false 0 (mk (opM 1) (opW 0) (opV 3) .i8 129))),
    (0x424200004C0E, .wres (gh false 4 false false 0 (mk (opG 0) (opW 0) (opW 1) .i8 1))),
    (0x400002805C12, .wchk (gh false 5 false false 0 (mk (opW 2) (opG 0) (opG 0) .i8 1))),
    (0x1D0C2224C6C16, .wgacc (gh false 6 false false 6 (mk (opM 1) (opW 0) (opV 3) .i8 7))),
    (0x200107C1A, .wcfg (gh false 7 false true 0 (mk (opG 0) (opW 0) (opG 0) .i8 0))),
    (0x1400202800C1E, .wstat (mk (opW 2) (opW 0) (opG 0) .i8 5))] := decodes (by decide +kernel)

theorem test_decode_launch : Decodes [
    (0x202809D02, .launch (gh true 1 false false 0 (mk (opW 2) (opW 0) (opG 0) .i8 0))),
    (0x20280AD06, .owait (gh true 2 false false 0 (mk (opW 2) (opW 0) (opG 0) .i8 0))),
    (0x22046BD0A, .opoll (gh true 3 false false 3 (mk (opP 1) (opW 0) (opG 0) .i8 0)))] := decodes (by decide +kernel)

theorem test_decode_system : Decodes [
    (0x202A0CE02, .csrr (gh true 4 true false 0 (mk (opW 2) (opW 0) (opG 0) .i8 0))),
    (0x2420280DE06, .csrw (gh true 5 false false 0 (mk (opW 2) (opW 0) (opW 1) .i8 0))),
    (0x2420280EE0A, .csrs (gh true 6 false false 0 (mk (opW 2) (opW 0) (opW 1) .i8 0))),
    (0x2420280FE0E, .csrc (gh true 7 false false 0 (mk (opW 2) (opW 0) (opW 1) .i8 0))),
    (0xE12, .trapret (mk (opG 0) (opG 0) (opG 0) .i8 0)),
    (0x24200001E16, .tlbinv (gh false 1 false false 0 (mk (opG 0) (opW 0) (opW 1) .i8 0))),
    (0x400202902E1A, .evrd (gh false 2 false true 0 (mk (opW 2) (opW 0) (opG 0) .i8 1))),
    (0x200003E1E, .evclr (gh false 3 false false 0 (mk (opG 0) (opW 0) (opG 0) .i8 0))),
    (0x202804E22, .idle (gh false 4 false false 0 (mk (opW 2) (opW 0) (opG 0) .i8 0)))] := decodes (by decide +kernel)

theorem test_decode_short : Decodes [
    (0x5, .nopShort ⟨false, 0, 0, 0, 0⟩), (0x91440C09, .addI64Short ⟨true, 1, 5, 4, 3⟩),
    (0x21440C0D, .subI64Short ⟨false, 2, 5, 4, 3⟩), (0xB1440C11, .mulI64Short ⟨true, 3, 5, 4, 3⟩),
    (0x41440C15, .andI64Short ⟨false, 4, 5, 4, 3⟩), (0xD1440C19, .orI64Short ⟨true, 5, 5, 4, 3⟩),
    (0x61440C1D, .xorI64Short ⟨false, 6, 5, 4, 3⟩), (0xF1440C21, .shlI64Short ⟨true, 7, 5, 4, 3⟩),
    (0x1440C25, .shrI64Short ⟨false, 0, 5, 4, 3⟩), (0x91440C29, .sarI64Short ⟨true, 1, 5, 4, 3⟩),
    (0x21440C2D, .minI64Short ⟨false, 2, 5, 4, 3⟩), (0xB1440C31, .maxI64Short ⟨true, 3, 5, 4, 3⟩),
    (0x40040C35, .movI64Short ⟨false, 4, 0, 4, 3⟩), (0xD1440C39, .cmpI64EqShort ⟨true, 5, 5, 4, 3⟩),
    (0x61440C3D, .cmpI64NeShort ⟨false, 6, 5, 4, 3⟩), (0xF1440C41, .cmpI64LtShort ⟨true, 7, 5, 4, 3⟩),
    (0x1440C45, .cmpI64GeShort ⟨false, 0, 5, 4, 3⟩), (0x91440C49, .cmpI64LtuShort ⟨true, 1, 5, 4, 3⟩),
    (0x21440C4D, .cmpI64GeuShort ⟨false, 2, 5, 4, 3⟩), (0xB1440C51, .ldI64Short ⟨true, 3, 5, 4, 3⟩),
    (0x41440C55, .ldI32Short ⟨false, 4, 5, 4, 3⟩), (0xD1440C59, .stI64Short ⟨true, 5, 5, 4, 3⟩),
    (0x61440C5D, .stI32Short ⟨false, 6, 5, 4, 3⟩), (0xF1440C61, .ldvShort ⟨true, 7, 5, 4, 3⟩),
    (0x1440C65, .stvShort ⟨false, 0, 5, 4, 3⟩), (0x91440C69, .faddF32RneShort ⟨true, 1, 5, 4, 3⟩),
    (0x21440C6D, .fsubF32RneShort ⟨false, 2, 5, 4, 3⟩), (0xB1440C71, .fmulF32RneShort ⟨true, 3, 5, 4, 3⟩),
    (0x41440C75, .ffmaF32RneShort ⟨false, 4, 5, 4, 3⟩), (0xD1440C79, .vaddF32RneShort ⟨true, 5, 5, 4, 3⟩),
    (0x61440C7D, .vsubF32RneShort ⟨false, 6, 5, 4, 3⟩), (0xF1440C81, .vmulF32RneShort ⟨true, 7, 5, 4, 3⟩),
    (0x1440C85, .vfmaF32RneShort ⟨false, 0, 5, 4, 3⟩), (0x91440C89, .vminF32Short ⟨true, 1, 5, 4, 3⟩),
    (0x21440C8D, .vmaxF32Short ⟨false, 2, 5, 4, 3⟩), (0xB1440C91, .vaddI32Short ⟨true, 3, 5, 4, 3⟩),
    (0x41440C95, .vsubI32Short ⟨false, 4, 5, 4, 3⟩), (0xD1440C99, .vandShort ⟨true, 5, 5, 4, 3⟩),
    (0x61440C9D, .vorShort ⟨false, 6, 5, 4, 3⟩), (0xF1440CA1, .vxorShort ⟨true, 7, 5, 4, 3⟩),
    (0x14000A5, .brShort ⟨false, 0, 5, 0, 0⟩), (0x900000A9, .retShort ⟨true, 1, 0, 0, 0⟩),
    (0x200000AD, .exitShort ⟨false, 2, 0, 0, 0⟩), (0xB00000B1, .yieldShort ⟨true, 3, 0, 0, 0⟩),
    (0x40000CB5, .mcommitShort ⟨false, 4, 0, 0, 3⟩), (0xD14000B9, .mwaitShort ⟨true, 5, 5, 0, 0⟩),
    (0x61400CBD, .mpollShort ⟨false, 6, 5, 0, 3⟩)] := decodes (by decide +kernel)

/-- What is no instruction is refused: a length code of 0b00, an unassigned opcode, an unassigned short opcode. -/
theorem test_decode_refuses : decodeTableWord 96 0 = none ∧ decodeTableWord 96 (0x3FF * 4 + 2) = none
    ∧ decodeTableWord 96 (0xFF * 4 + 1) = none := by decide +kernel
/-! ## Issuing and control -/

/-- Context 0 next to issue, one instruction cached at its PC. -/
def cached (i : Instr) : State :=
  let s := State.reset.placed []
  { s with icache := [⟨s.asid, 0, 8, .ok i, none, 2⟩] }

theorem wit_StepRunsDecoded_issues : Issues (cached (.nop mk)) 0 ∧ icacheFind 0 0 (cached (.nop mk)).icache ≠ none
    ∧ Issues (State.reset.placed [0x02]) 0 ∧ icacheFind 0 0 (State.reset.placed [0x02]).icache = none := by
  refine ⟨⟨?_, ?_, ?_, ?_, ?_, ?_, ?_, ?_⟩, ?_, ⟨?_, ?_, ?_, ?_, ?_, ?_, ?_, ?_⟩, ?_⟩ <;> decide +kernel

/-- A NOP of two parcels at virtual address 0 is fetched through the page table and decodes. -/
def fetching : State := { State.reset.placed [0x02] with cur := 0, turn := true }

theorem wit_StepRunsDecoded_fetch : let r := fetching.fetchParcel 0 none 0
    r.1 = .ok 2 false ∧ (r.2.fetchMore 0 none (parcels 2 - 1) 4 [] none).1 = ([0], none, none)
      ∧ decodeParcels fetching.caps 2 0 0 = .ok (.nop (mk (ty := .i8))) :=
  ⟨by decide +kernel, by decide +kernel, okOf (by decide +kernel)⟩

/-- The line of that NOP, filled before. -/
def nopLine : ICacheLine := ⟨fetching.asid, 0, false, 0x02 :: List.replicate 63 0, []⟩

theorem wit_StepRunsDecoded_line : ilineFind fetching.asid 60 [nopLine] = some nopLine
    ∧ nopLine.poison = [] ∧ nopLine.bytes.length = 64 ∧ ilineFind fetching.asid 64 [nopLine] = none := by decide +kernel

def fillOk : XlEnd × State → Bool
  | (.ok _ _ leaf, t) => match t.leafKeys t.asid leaf.ent leaf.base leaf.size 0 64 with
    | .ok (line, _, _) => line.length == 64 && decide (t.poisonedAt line = false ∧ Current t ⟨0, .o, false⟩ line)
    | .error _ => false
  | _ => false

theorem fillOk_spec {x : XlEnd × State} (h : fillOk x = true) : ∃ keys peer leaf t line q d, x = (.ok keys peer leaf, t)
    ∧ t.leafKeys t.asid leaf.ent leaf.base leaf.size 0 64 = .ok (line, q, d) ∧ line.length = 64
    ∧ t.poisonedAt line = false ∧ Current t ⟨0, .o, false⟩ line := by
  unfold fillOk at h
  split at h
  · split at h
    · rename_i hl
      simp only [Bool.and_eq_true, beq_iff_eq, decide_eq_true_eq] at h
      exact ⟨_, _, _, _, _, _, _, rfl, hl, h.1, h.2.1, h.2.2⟩
    · cases h
  · cases h

theorem wit_StepRunsDecoded_fill : ilineFind fetching.asid 0 fetching.ilines = none
    ∧ ∃ keys peer leaf t line q d,
      fetching.translatePage fetching.asid 0 4 .fetch true 0 = (.ok keys peer leaf, t)
      ∧ t.leafKeys t.asid leaf.ent leaf.base leaf.size 0 64 = .ok (line, q, d) ∧ line.length = 64
      ∧ t.poisonedAt line = false ∧ Current t ⟨0, .o, false⟩ line :=
  ⟨by decide +kernel, fillOk_spec (by decide +kernel)⟩

/-- NOP runs where nothing stands before it. -/
theorem wit_ClearRuns : Clear (stateOf []) ∧ guardless .add = false ∧ (mine (stateOf [])).guardHolds mk = true
    ∧ (stateOf []).issueFormat .add mk = some .none ∧ formatOk .add .none = true
    ∧ (mine (stateOf [])).effRm mk ≠ .stoch := by
  refine ⟨⟨?_, ?_, ?_, ?_, ?_, ?_, ?_, ?_, ?_, ?_⟩, ?_⟩ <;> decide +kernel

theorem wit_GuardSkips : let w : Fields := { mk with guard := ⟨false, 1⟩ }
    Clear (stateOf []) ∧ guardless .add = false ∧ (mine (stateOf [])).guardHolds w = false := by
  refine ⟨⟨?_, ?_, ?_, ?_, ?_, ?_, ?_, ?_, ?_, ?_⟩, ?_⟩ <;> decide +kernel

/-- `w0` pending. -/
def waitingW0 (defer : Bool) : State :=
  onCtx (stateOf []) (fun x => { x with pending := [.w 0], deferMode := defer })

theorem wit_PendingWaits : let s := waitingW0 false
    s.house.powered = true ∧ (mine s).live = true ∧ (mine s).deferMode = false ∧ s.graph.streams = []
    ∧ .w 0 ∈ sources (mine s).depth .add (mk (opW 1) (opW 0) (opW 2)) ∧ (mine s).blocked (.w 0) = true
    ∧ RegName.w 0 ≠ guardReg mk := by decide +kernel

theorem wit_DeferEnters : let s := waitingW0 true
    let w := mk (opW 1) (opW 0) (opW 2)
    deferrable .add = true ∧ drains .add = false ∧ s.house.powered = true ∧ (mine s).live = true
    ∧ (mine s).deferMode = true ∧ s.graph.streams = [] ∧ s.flights = [] ∧ (mine s).effRm w ≠ .stoch
    ∧ ((mine s).hamper.filter (fun h => isVector h.w == isVector w)).length < 32
    ∧ .w 0 ∈ sources (mine s).depth .add w ∧ (mine s).blocked (.w 0) = true
    ∧ ((mine s).capturedVectors [] (sources (mine s).depth .add w)).length ≤ 2
    ∧ (mine s).loop.active = false := by decide +kernel

theorem wit_RetiredResults : let e := (ctxOf []).entry .add mk .none 0
    e.claims = [] ∧ e.push = none ∧ resident (ctxOf []) (.w 23) ∧ (RegName.w 23).fixed = false
    ∧ ¬ resident (ctxOf []) (.w 24) ∧ (RegName.g 0).fixed = true ∧ (ctxOf []).loop.active = false := by decide +kernel

/-- The scalar instructions of the frame, on `w0` = 5 and `w1` = 7. -/
def five7 : State := stateOf [(.w 0, 5), (.w 1, 7)]

theorem wit_ScalarFrame :
    Witnesses ([.add, .cmp, .movl, .fmin].map (fun op => ⟨five7, op, on01, any, fun _ => true⟩)
      ++ [⟨five7, .fadd, on01 .f32, any, fun _ => true⟩]) := witnesses (by decide +kernel)

theorem wit_ShortForms :
    Witnesses [⟨five7, (ShortOp.addI64).entry.op, SFields.expand .addI64 ⟨false, 0, 17, 21, 21⟩, any, fun _ => true⟩] :=
  witnesses (by decide +kernel)
/-- The context inside a handler it entered from DEFER. -/
def handling : State :=
  onCtx (two 0 0) (fun x => { x with trapVec := 0x8003, trapPc := 0x2000, tmode := true })

theorem wit_JumpsAndModes : Witnesses [
    ⟨two 0 0x40, .br, on01, any, pcIs 0x1040⟩,
    ⟨two 0 0x42, .br, on01, any, trapIs 4 0x1042⟩,
    ⟨two 0 0x40, .jmp, on01, any, pcIs 0x40⟩,
    ⟨two 0 0, .jmp, mk opLit (opG 0) opLit .i64 0 0x44 .l, fun e _ => e.w.fb.isLit, pcIs 0x44⟩,
    ⟨two 0 0x40, .jp, mk (opW 0) (opP 1) (opW 1) .i64 1, any, pcIs 0x1040⟩,
    ⟨two 0 0, .nop, mk, any, pcIs 0x1008⟩,
    ⟨two 0 0, .yield, { mk with hints := ⟨false, true, 0, false⟩ }, any, fun s => (mine s).yielded⟩,
    ⟨two 0 0, .waitp, mk (opW 0) (opP 1), any, pcIs 0x1008⟩,
    ⟨two 0 0, .waitp, mk (opW 0) (opP 1) (os := 1), fun _ t => (t.ctx t.cur).pending == [] && (t.ctx t.cur).hamper == [],
      pcIs 0x1008⟩,
    ⟨onCtx (two 0 0) (fun x => { x with pending := [.w 0] }), .waitp, mk (opW 0) (opP 1),
      fun _ t => (t.ctx t.cur).blocked (.w 0), pcIs 0x1000⟩,
    ⟨onCtx (two 0 0x40) (fun x => { x with pending := [.w 0] }), .jp, mk (opW 0) (opP 1) (opW 1), any, pcIs 0x1040⟩,
    ⟨onCtx (two 0 0x40) (fun x => { x with pending := [.w 0] }), .jp, mk (opW 0) (opP 1) (opW 1) .i64 1, any,
      pcIs 0x1008⟩,
    ⟨two 0 0, .defer, mk, fun _ t => !(t.ctx t.cur).inh, fun s => (mine s).deferMode⟩,
    ⟨handling, .defer, mk, fun _ t => (t.ctx t.cur).inh, fun _ => true⟩,
    ⟨onCtx (two 0 0) (fun x => { x with deferMode := true }), .park, mk, any, fun s => !(mine s).deferMode⟩] :=
  witnesses (by decide +kernel)

/-- A context at depth 1 with two frames, whose `w7` and `w0` hold numbers. -/
def called (w7 w0 : Nat) : State :=
  onCtx (two 0 0) (fun x => { x with
    frames := [Vector.replicate 16 0, Vector.replicate 16 0], depth := 1 }.setFile (.w 23) (BitVec.ofNat 1024 w7)
      |>.setFile (.w 16) (BitVec.ofNat 1024 w0))

theorem wit_CallsAndReturns : Witnesses [
    ⟨two 0 0x40, .call, on01, fun _ t => (t.ctx t.cur).frames.length == 1,
      fun s => pcIs 0x1040 s && (mine s).depth == 1 && reads (.w 23) 0x1008 s⟩,
    ⟨two 0 0x41, .call, on01, any, trapIs 4 0x1041⟩,
    ⟨two 0 0x40, .callr, on01, any, fun s => pcIs 0x40 s && (mine s).depth == 1 && reads (.w 23) 0x1008 s⟩,
    ⟨two 0 0x41, .callr, on01, any, trapIs 4 0x41⟩,
    ⟨called 0x2000 5, .ret, mk, fun _ t => (t.ctx t.cur).depth == 1 && (t.ctx t.cur).frames.length == 2
        && (List.range 16).all (fun k => !(t.ctx t.cur).blocked (.w (24 + k))),
      fun s => pcIs 0x2000 s && (mine s).depth == 0⟩,
    ⟨called 0x2002 5, .ret, mk, any, trapIs 4 0x2002⟩,
    ⟨two 0 0, .ret, mk, fun _ t => (t.ctx t.cur).depth == 0, trapIs 0x0F (2 ^ 60)⟩] := witnesses (by decide +kernel)

/-- A loop of one slot whose body stands in the code at the PC, after the LOOP. -/
def looping (n : Nat) : State :=
  let s := onCtx (State.reset.placed ([0x23, 0, 0, 0xC0, 0x0F, 0x40, 0, 0, 0, 0, 0, 0] ++ [0x09, 0x54, 0x55, 0x04]
    ++ [0x26, 0, 0, 0, 0x40, 0, 0, 0])) (fun x => x.setFile (.w 0) (BitVec.ofNat 1024 n))
  onCtx { s with cur := 0 } (fun x => { x with trapVec := 0x8001 })

def loopW : Fields := mk (opG 0) (opW 0) (opG 0) .i64 0 0 .l

def capturedOk (k : State) : Entry → State → Bool := fun e t =>
  match t.captureBody t.cur (illegalInfo 0x0E e.parcel) ((loopW.os.extractLsb' 0 5).toNat + 1) (e.pc + BitVec.ofNat 64 e.w.length) [] with
  | .ok slots next _ => slots.length == 1 && next == 0x18 && k.now == t.now
  | _ => false

theorem wit_Loops : Witnesses [
    ⟨looping 3, .loop, loopW, capturedOk (looping 3),
      fun s => pcIs 12 s && (mine s).loop.active && (mine s).loop.count == 3⟩,
    ⟨looping 0, .loop, loopW, capturedOk (looping 0), fun s => pcIs 0x18 s && !(mine s).loop.active⟩,
    ⟨looping 16777215, .loop, loopW, any, fun s => pcIs 12 s && (mine s).loop.active⟩,
    ⟨looping 16777216, .loop, loopW, any, trapIs 5 16777216⟩,
    ⟨onCtx (looping 3) (fun x => { x with loop := ⟨2, 0, true, 0, [], 0, true⟩ }), .loop, loopW,
      fun _ t => (t.ctx t.cur).loop.active, fun s => (mine s).trapCause == 1⟩] := witnesses (by decide +kernel)

/-- A state seen from context 1, a helper. -/
def helper (s : State) : State := { s.setCtx 1 (ctxOf [(.w 0, 9)]) with cur := 1 }

/-- Context 0 with a slice of 20 frames. -/
def sliced (s : State) : State := onCtx s (fun x => { x with carve := ⟨0, 0, 20, 4096⟩ })

/-- With a CAS of the scratchpad word at an address, by `w6`, in flight. -/
def behindCas (s : State) (a : Nat) : State :=
  onCtx (ran (.cas (mk (opW 5) (opW 6) (opW 4) .i64 128)) (onCtx s (·.setFile (.w 6) (BitVec.ofNat 1024 a))))
    (fun x => { x with bypass := [], owed := [] })

/-- Every helper in use. -/
def crowded (s : State) : State := { s with ctxs := (Vector.replicate 11 (ctxOf [])).set 0 (s.ctx 0) }

def startHolds (full : Bool) : Entry → State → Bool := fun e t =>
  let keys := t.nearKeys (e.opB t t.cur).toNat 256
  t.spadOk (e.opB t t.cur).toNat 256 && decide (e.w.os.toNat + (t.ctx 0).carve.sused ≤ (t.ctx 0).carve.ssize)
    && (if full then t.freeHelper == none else t.freeHelper == some 1) && !t.loadWaits 0 && !t.poisonedAt keys
    && decide (Current t ⟨0, .s, true⟩ keys)

/-- The control context may exit: nothing is left to wait for, and no helper runs. -/
def lastOut : Entry → State → Bool := fun _ t =>
  t.cur == 0 && t.allOver 0 && t.leak 0 == none && (t.ctx 0).held == [] && (t.ctx 0).faults == []
    && t.graph.streams == [] && (List.finRange 4).all (fun r => (t.run r).state == 0)
    && (allCtx.filter (· != 0)).all (fun h => !(t.ctx h).live)

/-- An outside read of 8 bytes at the gate, admitted or not. -/
def asked (admitted : Bool) : GateReq :=
  { req := ⟨0, 0, 0, 0x1000, none, 8, 77, false, false⟩, what := .read, deadline := 1000, admitted := admitted, token := none,
    arrived := 0, due := false, keys := [] }

theorem wit_StartJoinExit : Witnesses [
    ⟨sliced (two 0x2000 0x100), .start, on01 .i64 20, startHolds false, fun s => reads (.w 2) 1 s
      && (s.ctx 1).pc == 0x2000 && (s.ctx 1).cstate == .ready && (s.ctx 0).carve.ssize == 0⟩,
    ⟨crowded (sliced (two 0x2000 0x100)), .start, on01 .i64 20, startHolds true, reads (.w 2) 0⟩,
    ⟨behindCas (sliced (two 0x2000 0x100)) 0x400, .start, on01 .i64 20,
      fun _ t => t.freeHelper == some 1 && t.loadWaits 0, pcIs 0x1008⟩,
    ⟨helper (two 0 0), .start, on01, fun _ t => t.cur == 1, fun s => s.cur == 1⟩,
    ⟨helper (two 0 0), .join, on01, fun _ t => t.cur == 1, fun s => s.cur == 1⟩,
    ⟨(two 1 0).setCtx 1 { Ctx.blank with cstate := .ended, exitValue := 77 }, .join, on01,
      fun e t => e.opA t t.cur == 1 && (t.ctx 1).cstate == .ended,
      fun s => reads (.w 2) 77 s && (s.ctx 1).cstate == .free⟩,
    ⟨two 10 0, .join, on01, fun e t => e.opA t t.cur == 10 && (t.ctx 10).cstate == .free, trapIs 5 10⟩,
    ⟨{ helper (two 1 0) with cur := 0 }, .join, on01, fun _ t => (t.ctx 1).cstate == .ready, pcIs 0x1000⟩,
    ⟨helper (two 0 0), .exit, mk, fun _ t => t.allOver 1 && t.leak 1 == none && (t.ctx 1).held == []
        && (t.ctx 1).faults == [] && t.graph.streams == [] && (List.finRange 4).all (fun r => (t.run r).state == 0),
      fun s => (s.ctx 1).cstate == .ended && (s.ctx 1).exitValue == 9⟩,
    ⟨two 0 0, .exit, mk, lastOut, fun s => !s.party.bound && s.party.ending == none && (s.ctx 0).cstate == .free⟩,
    ⟨{ two 0 0 with gate := [asked true] }, .exit, mk, lastOut,
      fun s => !s.party.bound && s.party.ending == some none && s.releasePart.party.ending == some none
        && { s with gate := [] }.releasePart.party.ending == none⟩] := witnesses (by decide +kernel)

theorem wit_TrapEntry : (two 0 0 |>.ctx 0).trapEn = true ∧ (two 0 0 |>.ctx 0).inh = false := by decide +kernel

theorem wit_TrapsAndReturns : Witnesses [
    ⟨two 0 9, .trap, on01, any, fun s => trapIs 0x1E 9 s && pcIs 0x8000 s && (mine s).trapPc == 0x1008⟩,
    ⟨two 0 0, .trapret, mk, fun _ t => !(t.ctx t.cur).inh, fun s => (mine s).trapCause == 1⟩,
    ⟨handling, .trapret, mk, fun _ t => (t.ctx t.cur).inh,
      fun s => pcIs 0x2000 s && (mine s).deferMode && !(mine s).inh⟩] := witnesses (by decide +kernel)

theorem wit_TrapsAndReturns_ends : (handling.ctx 0).inh = true ∧ ((helper (two 0 0)).ctx 1).trapEn = false
    ∧ ((helper (two 0 0)).ctx 1).kill = false ∧ ((helper (two 0 0)).ctx 1).acqQueued = none := by decide +kernel

/-! ## Scalars

Worked by hand from R319 to R333 and R335 to R339. -/

/-- An instruction of two operands at 8 bits or its type's own width, and its result in `w2`. -/
def scalarCase (op : Opcode) (ty : Ty) (a b r : Nat) : Case := ⟨two a b, op, on01 ty, any, reads (.w 2) r⟩

def minus (n : Nat) : Nat := 2 ^ 64 - n

theorem wit_TwoOperandResults : Witnesses [
    scalarCase .add .i8 0x7F 1 (minus 128), scalarCase .add .ui8 0xFF 1 0, scalarCase .sub .i8 (minus 128) 1 127,
    scalarCase .sub .ui16 0 1 0xFFFF, scalarCase .mul .i16 (minus 2) 3 (minus 6), scalarCase .mulh .i8 (minus 128) (minus 128) 64,
    scalarCase .mulhu .ui64 (minus 1) (minus 1) (minus 2), scalarCase .and .ui8 0xF3 0x1C 0x10,
    scalarCase .or .i8 0x80 1 (minus 127), scalarCase .xor .ui8 0xFF 0x0F 0xF0, scalarCase .andn .ui8 0xFF 0x0F 0xF0,
    scalarCase .min .i8 0xFF 1 (minus 1), scalarCase .max .i8 0xFF 1 1, scalarCase .minu .ui8 0xFF 1 1,
    scalarCase .maxu .i8 0xFF 1 (minus 1)] := witnesses (by decide +kernel)

theorem wit_DivisionResults : Witnesses [
    scalarCase .div .i64 (minus 7) 2 (minus 3), scalarCase .div .i64 7 0 (minus 1), scalarCase .div .i8 0x80 0xFF (minus 128),
    scalarCase .divu .ui8 0xFF 2 127, scalarCase .divu .ui64 7 0 (minus 1), scalarCase .rem .i64 (minus 7) 2 (minus 1),
    scalarCase .rem .i64 7 0 7, scalarCase .rem .i8 0x80 0xFF 0, scalarCase .remu .ui64 7 4 3,
    scalarCase .remu .ui8 0x107 0 7] := witnesses (by decide +kernel)

theorem wit_ShiftResults : Witnesses [
    scalarCase .shl .i8 1 7 (minus 128), scalarCase .shl .i8 1 8 0, scalarCase .shr .i8 0x80 7 1, scalarCase .shr .ui64 1 64 0,
    scalarCase .sar .i8 0x80 7 (minus 1), scalarCase .sar .i8 0x80 8 (minus 1), scalarCase .rot .ui8 0x81 9 3] :=
  witnesses (by decide +kernel)

theorem wit_CountAndFieldResults : Witnesses [
    scalarCase .clz .ui8 0 0 8, scalarCase .clz .ui8 0x10 0 3, scalarCase .ctz .ui16 0 0 16, scalarCase .ctz .i64 8 0 3,
    scalarCase .popc .ui32 0xFFFFFFFFFF 0 32, scalarCase .bext .ui16 0xABCD 0x0804 0xBC,
    scalarCase .bext .i16 0xABCD 0x080C (minus 6), scalarCase .bins .ui16 0xAB 0x0804 0xAB0] := witnesses (by decide +kernel)

def withSz (k : Nat) (w : Fields) : Fields := { w with sz := BitVec.ofNat 3 k }

theorem wit_MoveResults : Witnesses [
    ⟨two 0x1FF80 0, .sext, withSz 0 on01, any, reads (.w 2) (minus 128)⟩,
    ⟨two 0x1FF80 0, .sext, withSz 1 on01, any, reads (.w 2) (minus 128)⟩,
    ⟨two 0x80000000 0, .sext, withSz 2 on01, any, reads (.w 2) (minus 0x80000000)⟩,
    ⟨two 0x1FF80 0, .zext, withSz 0 on01, any, reads (.w 2) 0x80⟩,
    ⟨two 0x1FF80 0, .zext, withSz 1 on01, any, reads (.w 2) 0xFF80⟩,
    ⟨two (minus 1) 0, .zext, withSz 2 on01, any, reads (.w 2) 0xFFFFFFFF⟩,
    scalarCase .mov .i8 0x80 0 (minus 128),
    ⟨two 0 0, .movl, mk (opW 2) (opG 0) opLit .i64 0 0xFFFFFFFF .l, any, reads (.w 2) 0xFFFFFFFF⟩,
    ⟨stateOf [(.w 2, 5)], .movl, mk (opW 2) (opG 0) opLit .i64 1 7 .l, any, reads (.w 2) 0x700000005⟩,
    ⟨two 3 4, .sel, on01, any, reads (.w 2) 3⟩, ⟨two 3 4, .sel, on01 .i64 1, any, reads (.w 2) 4⟩,
    ⟨two 3 4, .addr, withSz 3 on01, any, reads (.w 2) 35⟩, ⟨two 3 4, .addr, withSz 6 on01, any, reads (.w 2) 4099⟩] :=
  witnesses (by decide +kernel)

/-- A predicate destination, `p1`. -/
def toP1 (ty : Ty := .i64) (os : Nat := 0) : Fields := mk (opP 1) (opW 0) (opW 1) ty os

theorem wit_PredicateResults : Witnesses [
    ⟨two 0xFF 1, .cmp, withSz 2 (toP1 .i8), fun e _ => e.fdReg matches .p _, reads (.p 1) 1⟩,
    ⟨two 0xFF 1, .cmp, withSz 4 (toP1 .i8), any, reads (.p 1) 0⟩,
    ⟨two 1 1, .cmp, { withSz 0 (mk (opM 1) (opW 0) (opW 1)) with os := 0 }, fun e _ => e.fdReg matches .m _,
      reads (.m 1) 0xFFFFFFFF⟩,
    ⟨two 0x7FC00000 0x3F800000, .fcmp, withSz 1 (toP1 .f32), any, reads (.p 1) 1⟩,
    ⟨two 0x7FC00000 0x3F800000, .fcmp, withSz 3 (toP1 .f32), any, reads (.p 1) 0⟩,
    ⟨two 0x80000000 0, .fcmp, withSz 0 (toP1 .f32), any, reads (.p 1) 1⟩,
    ⟨two 0 2, .pset, mk (opP 1) (opG 0) (opW 1), any, reads (.p 1) 1⟩,
    ⟨two 0 0xFFFFFFFFFF, .pset, mk (opM 1) (opG 0) (opW 1), any, reads (.m 1) 0xFFFFFFFF⟩,
    ⟨stateOf [(.m 1, 12), (.m 2, 10)], .pmov, mk (opM 3) (opM 1) (opM 2) .i64 5, any, reads (.m 3) 4⟩,
    ⟨stateOf [(.m 1, 12), (.m 2, 10)], .pmov, mk (opP 3) (opM 1) (opM 2) .i64 2, any, reads (.p 3) 1⟩] :=
  witnesses (by decide +kernel)

theorem wit_FloatResults : Witnesses [
    scalarCase .fadd .f32 0x3F800000 0x33800000 0x3F800000, scalarCase .fadd .f32 0x7F800000 0xFF800000 0x7FC00000,
    scalarCase .fsub .f32 0x3F800000 0x3F800000 0, scalarCase .fmul .bf16 0x4000 0x4040 0x40C0,
    scalarCase .ffma .f32 0x40000000 0x40400000 0x40C00000, scalarCase .fdiv .f32 0x3F800000 0x40400000 0x3EAAAAAB,
    scalarCase .fdiv .f32 0x3F800000 0 0x7F800000, scalarCase .fsqrt .f32 0x40000000 0 0x3FB504F3,
    ⟨two 0x40490FDB 0, .fcvt, on01 .i8 8, any, reads (.w 2) 3⟩, ⟨two 3 0, .fcvt, on01 .f16 0, any, reads (.w 2) 0x4200⟩] :=
  witnesses (by decide +kernel)

theorem wit_FloatCodeResults : Witnesses [
    scalarCase .fmin .f32 0 0x80000000 0x80000000, scalarCase .fmin .f32 0x7F800001 0 0x7FC00000,
    scalarCase .fmax .f32 0x80000000 0 0, scalarCase .fabs .f16 0xBC00 0 0x3C00, scalarCase .fneg .bf16 0x3F80 0 0xBF80,
    scalarCase .fclass .f32 0xFF800000 0 1, scalarCase .fclass .f32 0x80000001 0 4, scalarCase .fclass .f32 0x7F800001 0 0x100] :=
  witnesses (by decide +kernel)

/-! ## Memory -/

/-- A lot of 1 MiB, a row window of 4 rows, a group of one device, and logical rank 0 at site 0 (R415, R424). -/
def withLot (s : State) : State :=
  { s with party := { s.party with packet := BitVec.ofNat 512 (2 ^ 122 + 4 * 2 ^ 79 + 1024 * 2 ^ 61) },
           rankMap := [(0, 0, some 0)] }

/-- Near accesses: OS bit 7. -/
def near (ty : Ty := .i64) (os : Nat := 0) : Fields := on01 ty (128 + os)
def far (ty : Ty := .i64) (os : Nat := 0) : Fields := on01 ty os

/-- Bytes 1 to 16 at scratchpad 0x100, and bytes 0x79 to 0x80 at 0x178. -/
def spadMem : Memory :=
  (Memory.empty.setBytes (siteKey 0 (spadOff + 0x100)) ((List.range 16).map (fun i => BitVec.ofNat 8 (i + 1)))).setBytes
    (siteKey 0 (spadOff + 0x178)) ((List.range 8).map (fun i => BitVec.ofNat 8 (0x79 + i)))

/-- Two numbers in `w0` and `w1`, a third in `w2`, a vector in `v1`, and that memory. -/
def spad (a b d v : Nat) : State :=
  let s := onCtx (two a b) (fun x => (x.setFile (.w 2) (BitVec.ofNat 1024 d)).setFile (.v 1) (BitVec.ofNat 1024 v))
  withLot { s with mem := spadMem }

def spadHolds (n : Nat) : Entry → State → Bool := fun e t => decide (e.w.near = true
  ∧ (e.opA t t.cur + e.opB t t.cur).toNat % e.w.ty.bytes = 0
  ∧ ReadableSpad t (e.opA t t.cur + e.opB t t.cur).toNat n)

/-- Vector operands of a near access: `v1`. -/
def nearV (ty : Ty := .i64) : Fields := mk (opV 1) (opW 0) (opW 1) ty 128

/-- Memory bytes of the scratchpad. -/
def spadIs (a n v : Nat) : State → Bool := fun s => spadNat s a n == v

theorem wit_ScratchpadLoads : Witnesses [
    ⟨spad 0x100 8 0 0, .ld, near, spadHolds 8, reads (.w 2) 0x100F0E0D0C0B0A09⟩,
    ⟨spad 0x17F 0 0 0, .ld, near .i8, spadHolds 1, reads (.w 2) (minus 128)⟩,
    ⟨spad 0x17F 0 0 0, .ld, near .ui8, spadHolds 1, reads (.w 2) 0x80⟩,
    ⟨spad 0x78000 0x7FF8 0 0, .ld, near, spadHolds 8, reads (.w 2) 0⟩,
    ⟨spad 0x100 0 0 0, .ldv, nearV, spadHolds 128,
      fun s => ((mine s).read (.v 1)).extractLsb' 1016 8 == 0x80 && ((mine s).read (.v 1)).extractLsb' 0 8 == 1⟩,
    ⟨spad 0x178 0 0 0, .ldx, nearV .i8, spadHolds 32,
      fun s => lane ((mine s).read (.v 1)) 0 == 0x79 && lane ((mine s).read (.v 1)) 7 == 0xFFFFFF80⟩,
    ⟨spad 0x100 0 0 0, .ldx, nearV .ui16, spadHolds 64, fun s => lane ((mine s).read (.v 1)) 7 == 0x100F⟩,
    ⟨spad 0x100 0 0 0, .ldx, nearV .bf16, spadHolds 64, fun s => lane ((mine s).read (.v 1)) 0 == 0x02010000⟩,
    ⟨spad 0x101 0 0 0, .ld, near .i16, any, trapIs 4 0x101⟩, ⟨spad 0x104 0 0 0, .ldv, nearV, any, trapIs 4 0x104⟩,
    ⟨spad 0x101 0 0 0, .ldx, nearV .f16, any, trapIs 4 0x101⟩, ⟨spad 0x7FF88 0 0 0, .ldv, nearV, any, trapIs 5 0x7FF88⟩,
    ⟨spad 0x80000 0 0 0, .ld, near, any, trapIs 5 0x80000⟩,
    ⟨spad 0x7FFFFF8 8 0 0, .ld, near, any, fun s => (mine s).isPending (.w 2)⟩] := witnesses (by decide +kernel)

theorem wit_ScratchpadStores : Witnesses [
    ⟨spad 0x100 8 0x1122334455667788 0, .st, near .i32, fun _ t => t.mem.wf && !t.acquiring t.cur,
      spadIs 0x108 8 0x100F0E0D55667788⟩,
    ⟨spad 0x7FF80 0 0 (2 ^ 1023), .stv, nearV, any, spadIs 0x7FFF8 8 (2 ^ 63)⟩,
    ⟨spad 0x200 0 0 0xFFFFFF00_00000080_0000007F, .stx, nearV .i8, any, spadIs 0x200 4 0x00807F7F⟩,
    ⟨spad 0x200 0 0 0xFFFFFFFF_00012345, .stx, nearV .ui16, any, spadIs 0x200 4 0xFFFF⟩] := witnesses (by decide +kernel)

/-- Context 0 with registers over pages that map virtual address 0 to host memory, or to the rank's own lot. -/
def paged (own : Bool) (a b d : Nat) : State :=
  let s := State.reset.placed []
  let m := if own then s.mem.setNat (hostDpa 0x6000) 16 (leafEntry (0x3FFF * 2 ^ 38)) else s.mem
  withLot { s with cur := 0, mem := m, ctxs := s.ctxs.set 0 (onCtx (two a b) (fun x =>
      (x.setFile (.w 2) (BitVec.ofNat 1024 d)).setFile (.v 1) (BitVec.ofNat 1024 (2 ^ 1023 + d))) |>.ctx 0) }

def xlOk (n : Nat) (k : AccessKind) : Entry → State → Bool := fun e t =>
  match t.translate t.asid (e.opA t t.cur + e.opB t t.cur) n k (t.ctx t.cur).inh e.pc with
  | (.ok _ _ _, s1) => s1.ctxs == t.ctxs && s1.flights == t.flights && s1.mem == t.mem
  | _ => false

def xlFails (n : Nat) (k : AccessKind) : Entry → State → Bool := fun e t =>
  match t.translate t.asid (e.opA t t.cur + e.opB t t.cur) n k (t.ctx t.cur).inh e.pc with
  | (.fail _ _ _, s1) => s1.ctxs == t.ctxs && s1.flights == t.flights && s1.mem == t.mem
  | _ => false

def oneFlight : State → Bool := fun s => s.flights.length == 1
def inFlight : State → Bool := fun s => s.flights.length == 1 && (mine s).isPending (.w 2)

def farV : Fields := mk (opV 1) (opW 0) (opW 1)
/-- An access whose second operand is no part of its address. -/
def atA (ty : Ty := .i64) (os : Nat := 0) : Fields := mk (opW 2) (opW 0) (opW 1) ty os

theorem wit_AccessesLeave : Witnesses [
    ⟨paged false 0x100 8 7, .ld, far, xlOk 8 .read, inFlight⟩,
    ⟨paged false (2 ^ 57) 0 7, .ld, far, xlFails 8 .read, inFlight⟩,
    ⟨spad 0x8000000 0 0 0, .ld, near, fun _ t => decide (8 ≤ t.lot), inFlight⟩,
    ⟨paged false 0x100 8 7, .st, far, xlOk 8 .write, oneFlight⟩,
    ⟨paged true 0x100 8 7, .ldv, farV, xlOk 128 .read, oneFlight⟩,
    ⟨paged true 0x100 8 7, .stv, farV, xlOk 128 .write, oneFlight⟩,
    ⟨paged true 0x100 0 7, .atom, atA, xlOk 8 .atomic, inFlight⟩,
    ⟨paged true 0x100 0 7, .cas, atA, xlOk 8 .atomic, inFlight⟩,
    ⟨spad 0x100 0 0 0, .atom, near, any, inFlight⟩, ⟨spad 0x7FFF8 0 0 0, .cas, near, any, inFlight⟩,
    ⟨spad 0 0 0 0, .pref, { near with fd := opG 0 }, any, pcIs 0x1008⟩,
    ⟨paged false 0 0 0, .pref, { far with fd := opG 0 }, xlOk 1 .read, pcIs 0x1008⟩,
    ⟨paged false (2 ^ 57) 0 0, .pref, { far with fd := opG 0 }, xlFails 1 .read, pcIs 0x1008⟩] :=
  witnesses (by decide +kernel)

/-- The first access in flight may land, its bytes plain and none of them poisoned or older. -/
def landing : State → Bool := fun s =>
  match s.flights[0]? with
  | none => false
  | some f => s.mayLand f && f.gateDead == none && !f.orphan && !s.poisonedAt f.keys && decide (Current s f.agent f.keys)
    && decide (plainKeys f.keys) && s.mem.wf
    && (match f.kind with
      | .store d => d.length == f.keys.length
      | .atomic ty _ _ _ _ => f.keys.length == ty.bytes
      | .compare ty _ _ => f.keys.length == ty.bytes
      | _ => true)

/-- A load from the lot of another rank of the device, logical rank 4 at site 4. -/
def foreign : State :=
  let s := paged true 0 0 7
  { s with mem := s.mem.setNat (hostDpa 0x6000) 16 (leafEntry (0x3FFF * 2 ^ 38 + 4 * 2 ^ 28)),
           rankMap := [(0, 0, some 0), (0, 4, some 4)] }

/-- An instruction with a transient result. -/
def transient (w : Fields) : Fields := { w with hints := { w.hints with tr := true } }

theorem wit_AccessesPerformed : Moves [
    ⟨ran (.ld (transient near)) (spad 0x8000000 0 9 0), .valueLands ⟨0, none⟩,
      fun s => landing s && s.flights.all (·.tr), fun s => (mine s).file (.w 2) == 9 && (mine s).pending == []⟩,
    ⟨ran (.ld far) foreign, .valueLands ⟨0, some 1⟩, fun s => match s.flights[0]? with
      | some f => s.throughGate f && gateReason f.peer 1 && f.hasValue && !f.residual && s.mayLand f
      | none => false, fun s => reads (.w 2) 0 s && (mine s).faults.length == 1⟩,
    ⟨ran (.ld near) (spad 0x8000000 0 0 0), .valueLands ⟨0, none⟩, landing, reads (.w 2) 0⟩,
    ⟨ran (.st far) (paged true 0x100 0 7), .accessCompletesAtHome ⟨0, none⟩, landing, fun s => s.flights == []⟩,
    ⟨ran (.atom near) (spad 0x100 5 0 0), .valueLands ⟨0, none⟩, landing,
      fun s => reads (.w 2) 0x0807060504030201 s && spadIs 0x100 8 0x0807060504030206 s⟩,
    ⟨ran (.atom (near .ui32 7)) (spad 0x100 0xFF000000 0 0), .valueLands ⟨0, none⟩, landing,
      fun s => reads (.w 2) 0x04030201 s && spadIs 0x100 8 0x08070605FF000000 s⟩,
    ⟨ran (.cas (near .i64)) (spad 0x100 5 0x0807060504030201 0), .valueLands ⟨0, none⟩, landing, spadIs 0x100 8 5⟩,
    ⟨ran (.cas (near .i64)) (spad 0x100 5 9 0), .valueLands ⟨0, none⟩, landing, spadIs 0x100 8 0x0807060504030201⟩,
    ⟨ran (.ld far) (paged false (2 ^ 57) 0 7), .valueLands ⟨0, none⟩, fun s => match s.flights[0]? with
      | some f => (f.xl matches .failed _ _ _) && f.hasValue && !f.residual && s.mayLand f
      | none => false, fun s => reads (.w 2) 0 s && (mine s).faults.length == 1⟩] := moves (by decide +kernel)

/-! ## Beacons, fences and what a context does between instructions -/

/-- The key of the lot's first byte. -/
def key0 : Nat := siteKey 0 0

/-- `w0` names the beacon at virtual address 0, in the rank's own lot. -/
def atBeacon0 (b d : Nat) : State := paged true 0 b d

/-- The beacon at 0 with a number as its state. -/
def beaconState (n : Nat) (s : State) : State := s.setBeacon key0 (BitVec.ofNat 512 n)

def beaconIs (n : Nat) : State → Bool := fun s => s.beacon key0 == BitVec.ofNat 512 n

/-- The beacon is found at key 0, and what more must hold of it. -/
def found (p : State → Bool := fun _ => true) : Entry → State → Bool := fun e t =>
  match t.findBeacon t.cur e.pc (e.opA t t.cur) with
  | .ok k s1 => k == key0 && s1.cur == t.cur && p s1
  | _ => false

def freeFor (excl : Bool) : State → Bool := fun s =>
  ((mine s).acquireFault key0 0).isNone && (s.beaconQueue key0).isEmpty && grantable (s.beacon key0) excl
def barredFor (excl : Bool) : State → Bool := fun s =>
  ((mine s).acquireFault key0 0).isNone && !((s.beaconQueue key0).isEmpty && grantable (s.beacon key0) excl)

/-- Context 0 holds the beacon. -/
def holding (excl : Bool) : State :=
  onCtx (beaconState (if excl then 2 ^ 479 else 2 ^ 480) (atBeacon0 0 0)) (fun x => { x with held := [(0, key0, excl)] })

def acqW (os : Nat) : Fields := mk (opG 0) (opW 0) (opG 0) .i64 os
def bbindW (os : Nat) : Fields := on01 .i64 os

theorem wit_BeaconResults : Witnesses [
    ⟨beaconState (2 ^ 159 + 2 ^ 131) (atBeacon0 0 0), .bbind, bbindW 5,
      found (fun s => !beaconExcl (s.beacon key0) && beaconHolders (s.beacon key0) == 0), beaconIs 0⟩,
    ⟨atBeacon0 0x1C0 64, .bbind, bbindW 0, found, beaconIs (2 ^ 79 + 2 ^ 51 + 7)⟩,
    ⟨atBeacon0 0 1073741760, .bbind, bbindW 3, found, beaconIs ((2 ^ 79 + 16777215 * 2 ^ 51) * 2 ^ 240)⟩,
    ⟨atBeacon0 0 0, .acq, acqW 0, fun e t => found (freeFor true) e t && (t.ctx t.cur).acqQueued.isNone,
      fun s => beaconExcl (s.beacon key0) && (mine s).held.length == 1⟩,
    ⟨beaconState (65534 * 2 ^ 480) (atBeacon0 0 0), .acq, acqW 1, found (freeFor false), beaconIs (65535 * 2 ^ 480)⟩,
    ⟨beaconState (65535 * 2 ^ 480) (atBeacon0 0 0), .acq, acqW 1, found (barredFor false),
      fun s => (s.beaconQueue key0).length == 1 && (mine s).acqQueued == some 0⟩,
    ⟨atBeacon0 0 0, .btry, mk (opP 1) (opW 0), found (freeFor true), reads (.p 1) 1⟩,
    ⟨beaconState (2 ^ 480) (atBeacon0 0 0), .btry, mk (opP 1) (opW 0), found (barredFor true), reads (.p 1) 0⟩,
    ⟨holding false, .rel, mk (opG 0) (opW 0), found (fun s => (mine s).holds key0 0 == some (0, key0, false)), beaconIs 0⟩,
    ⟨holding true, .rel, mk (opG 0) (opW 0), found (fun s => (mine s).holds key0 0 == some (0, key0, true)
      && s.quietOn s.cur .s && s.flights == []), beaconIs (2 ^ 384)⟩,
    ⟨atBeacon0 0 0, .rel, mk (opG 0) (opW 0), found (fun s => ((mine s).holds key0 0).isNone), trapIs 0x1B (2 * 2 ^ 60)⟩] :=
  witnesses (by decide +kernel)

/-- A context that waits in the beacon's queue. -/
def queued : State :=
  (ran (.acq (acqW 1)) (beaconState (2 ^ 479) (atBeacon0 0 0))).setBeacon key0 0

theorem wit_BeaconGrants : Moves [
    ⟨queued, .beaconGrant ⟨key0, .oldest⟩, fun s => s.mem.wf && (s.beaconQueue key0).length == 1 && grantable (s.beacon key0) false
        && (s.ctx 0).acqQueued == some 0 && decide (beaconHolders (s.beacon key0) < 65535),
      fun s => beaconIs (2 ^ 480) s && (s.beaconQueue key0).isEmpty⟩,
    ⟨atBeacon0 0 0, .beaconGrant ⟨key0, .asked 1012 10 true⟩, fun s => s.lrn != 1012,
      fun s => s.beaconQueue key0 == [(10, 1012, true)]⟩,
    ⟨ran (.beaconGrant ⟨key0, .asked 1012 10 true⟩) (atBeacon0 0 0), .beaconGrant ⟨key0, .oldest⟩,
      fun s => s.lrn != 1012 && grantable (s.beacon key0) true && (s.beaconQueue key0).length == 1,
      beaconIs (2 ^ 479 + 10 * 2 ^ 470 + 1012 * 2 ^ 460)⟩,
    ⟨beaconState (2 ^ 479 + 10 * 2 ^ 470 + 1012 * 2 ^ 460) (atBeacon0 0 0), .beaconGrant ⟨key0, .released 1012 10 true []⟩,
      fun s => s.lrn != 1012 && beaconExcl (s.beacon key0), beaconIs (2 ^ 384)⟩] := moves (by decide +kernel)

/-- A store by this context that another path class does not see yet. -/
def stored : State := ran (.st near) (spad 0x100 0 7 0)

theorem wit_Fences : Witnesses [
    ⟨stored, .fence, mk (os := 3), fun e t => (fenceClasses e.w.os).all (t.quietOn t.cur) && t.flights == [], pcIs 0x1010⟩,
    ⟨ran (.st far) (paged true 0x100 0 7), .fence, mk (os := 0x7F),
      fun e t => !(fenceClasses e.w.os).all (t.quietOn t.cur), pcIs 0x1008⟩,
    ⟨stored, .lbfence, mk, fun _ t => t.flights == []
      && [PathClass.r, .m, .w, .g, .c].all (t.quietOn t.cur), fun s => !s.unseen.isEmpty
        && s.unseen.all (fun u => u.views.any (fun r => !r.near) == u.views.any (fun r => r.near))⟩,
    ⟨paged true 0 0 0, .isync, mk (os := 1), any, fun s => s.icache == [] && s.ilines == []⟩,
    ⟨paged true 0 0 0, .isync, mk (opG 0) (opW 0), found, pcIs 0x1008⟩] := witnesses (by decide +kernel)

/-- An ADD (or a division of near memory) that was deferred and whose operand has come. -/
def deferred (i : Instr) (guard : Nat) : State :=
  onCtx (ran i (onCtx (waitingW0 true) (fun x => { x with pending := [.w 0, .p 1] })))
    (fun x => { x with pending := (x.pending.erase (.w 0)).erase (.p 1) }.setFile (.w 0) 0x80001
      |>.setFile (.p 1) (BitVec.ofNat 1024 guard))

def hamperHead (p : State → Entry → Bool) : State → Bool := fun s =>
  match (mine s).hamper.head? with
  | some h => s.hamperReady 0 && (mine s).live && h.claims == [] && h.push == none && p s h
  | none => false

def bodyDone (s : State) (h : Entry) : Bool :=
  match bodyOf h.op with
  | some b => (match b 0 h s with
    | .done _ _ => true
    | _ => false)
  | none => false

def bodyTraps (s : State) (h : Entry) : Bool :=
  match bodyOf h.op with
  | some b => (match b 0 h s with
    | .trap _ _ none => true
    | _ => false)
  | none => false

def guarded (w : Fields) : Fields := { w with guard := ⟨false, 1⟩ }

theorem wit_ContextEvents : Moves [
    ⟨deferred (.add (guarded on01)) 0, .hamperEntryExecute 0,
      hamperHead (fun s h => (h.reg s 0 (guardReg h.w)).getLsbD 0 == h.w.guard.neg), fun s => (mine s).pending == []⟩,
    ⟨deferred (.add on01) 1, .hamperEntryExecute 0, hamperHead (fun s h =>
        (h.reg s 0 (guardReg h.w)).getLsbD 0 != h.w.guard.neg && bodyDone s h),
      fun s => reads (.w 2) 0x80001 s || (mine s).settling.length == 1⟩,
    ⟨deferred (.ld near) 1, .hamperEntryExecute 0, hamperHead (fun s h =>
        (h.reg s 0 (guardReg h.w)).getLsbD 0 != h.w.guard.neg && bodyTraps s h), fun s => (mine s).faults.length == 1⟩,
    ⟨onCtx (two 0 0) (fun x => { x with faults := [⟨9, 0x40, none, none, false, 0⟩] }), .takeTrap 0,
      fun s => (mine s).live && s.atBoundary 0 && !(mine s).inh, fun s => (mine s).trapCause == 9 && pcIs 0x8000 s⟩,
    ⟨onCtx (two 0 0) (fun x => { x with cstate := .hinted, stallUntil := 0 }), .hintStallExpiry 0,
      fun s => (mine s).stallUntil ≤ s.now, fun s => (mine s).cstate == .ready⟩,
    ⟨onCtx (two 0 0) (fun x => { x with idle := some ⟨0, false⟩ }), .idleCountExpiry 0,
      fun s => (match (mine s).idle with | some i => !i.woken && decide (i.until' ≤ s.now) | none => false), fun _ => true⟩,
    ⟨fetching, .icacheFill 0 0, fun s => (s.ctx 0).live && (match (s.evictLines 0 12).fill 0 none 0 with | (.ok _ _ _ _, _) => true | _ => false),
      fun s => (icacheFind s.asid 0 s.icache).isSome⟩] := moves (by decide +kernel)

/-! ## The row path -/

/-- Bank 0 open at window row 2 in both views, since cycle 0, at cycle 100. -/
def openBank (a b : Nat) : State :=
  let s := withLot (two a b)
  { s with now := 100, rows := { s.rows with
      banks := s.rows.banks.set 0 { RowBank.blank with view := some 2, row := some 2 } } }

/-- A row queue of 16 commands. -/
def fullRows (s : State) : State :=
  { s with rows := { s.rows with
      queue := List.replicate 16 ⟨0, .sequencer, .ref 0, 0, none, 0, [], false, 0, 0, 0, 0, 0, false⟩ } }

def oneRow : State → Bool := fun s => s.rows.queue.length == 1
def fromW : Fields := mk (opG 0) (opW 0) (opW 1)
def stat (k : Nat) : Fields := mk (opW 2) (opW 0) (opG 0) .i64 k

theorem wit_RowInstructions : Witnesses [
    ⟨withLot (two 15 3), .ract, fromW, fun _ t => (t.rows.bank 15).view.isNone && !t.mustStall t.cur 3,
      fun s => oneRow s && (s.rows.bank 15).view == some 3⟩,
    ⟨withLot (two 16 0), .ract, fromW, any, trapIs 5 16⟩, ⟨openBank 0 3, .ract, fromW, any, trapIs 0x0A 0⟩,
    ⟨openBank 0 0x7FC00, .rcon, fromW, any, oneRow⟩, ⟨openBank 0 63, .rcon, mk (opG 0) (opW 0) (opW 1) .i64 1, any, oneRow⟩,
    ⟨openBank 0 0, .rcon, mk (opV 16) (opW 0) (opG 0) .i64 2, any, fun s => oneRow s && (mine s).isPending (.v 23)⟩,
    ⟨openBank 0 0, .rwb, fromW, any, oneRow⟩, ⟨openBank 0 63, .rwb, mk (opG 0) (opW 0) (opW 1) .i64 1, any, oneRow⟩,
    ⟨openBank 0 0, .rwb, mk (opV 16) (opW 0) (opG 0) .i64 2, any, oneRow⟩,
    ⟨openBank 1 0, .rcon, fromW, any, trapIs 0x0B 1⟩, ⟨openBank 1 0, .rwb, fromW, any, trapIs 0x0B 1⟩,
    ⟨openBank 0 0, .rpre, mk (opG 0) (opW 0), any, fun s => oneRow s && (s.rows.bank 0).view.isNone⟩,
    ⟨openBank 0 0, .rpre, mk (opG 0) (opG 0) (opG 0) .i64 1, any, fun s => oneRow s && (s.rows.bank 0).view.isNone⟩,
    ⟨openBank 3 0, .rref, mk (opG 0) (opW 0), any, oneRow⟩, ⟨openBank 0 0, .rref, mk (opG 0) (opW 0), any, trapIs 0x0A 0⟩,
    ⟨openBank 15 0, .rstat, stat 0, fun _ t => t.rows.queue == [] && t.rows.running == [], pcIs 0x1008⟩,
    ⟨openBank 3 0, .rstat, stat 1, any, pcIs 0x1008⟩, ⟨openBank 0 0, .rstat, stat 2, any, reads (.w 2) 0⟩,
    ⟨openBank 0 0, .rstat, stat 3, any, reads (.w 2) 0⟩, ⟨openBank 0 0, .rstat, stat 4, any, pcIs 0x1008⟩,
    ⟨fullRows (openBank 1 0), .ract, fromW, any, pcIs 0x1000⟩, ⟨fullRows (openBank 0 0), .rcon, fromW, any, pcIs 0x1000⟩,
    ⟨fullRows (openBank 0 0), .rwb, fromW, any, pcIs 0x1000⟩,
    ⟨fullRows (openBank 0 0), .rpre, mk (opG 0) (opW 0), any, pcIs 0x1000⟩,
    ⟨fullRows (openBank 3 0), .rref, mk (opG 0) (opW 0), any, pcIs 0x1000⟩] := witnesses (by decide +kernel)

/-- The head of the row queue may start, and memory has its form. -/
def headStarts : State → Bool := fun s =>
  s.mem.wf && !s.party.preempting && (match s.rows.queue.head? with
    | some c => s.rowStartable c
    | none => false)

/-- A transfer of 1,023 zeros and a 7 on the bus at cycle 100, its beat begun in cycle 90, or with its parity passed
where `beat` is 18. -/
def onBus (kind : RowCmdKind) (beat tries beatTries : Nat) (narrow : Bool) : State :=
  let s := openBank 0 0
  { s with rows := { s.rows with
      running := [⟨5, .ctx 0 0, kind, 0, some 90, 98, List.replicate 1023 0 ++ [7], false, 2, 90, tries, beat, beatTries, false⟩]
      narrow := narrow } }

def attempts : State → Bool := fun s => match s.rows.onBus with
  | some c => decide (s.rows.attemptEnd c ≤ s.now) && c.data.length == 1024 && s.mem.wf && decide (c.row < 8192)
      && decide (c.bank < 16)
  | none => false

def arrives : State → Bool := fun s => match s.rows.arriving with
  | some c => decide (c.doneAt ≤ s.now) && c.data.length == 1024 && s.mem.wf && s.rows.faulty == []
  | none => false

/-- The first transfer on the row path. -/
def transfer (p : RowCmd → Bool) : State → Bool := fun s => match s.rows.running with
  | [c] => p c
  | _ => false

def rrefOf (debt : Nat) : State :=
  let s := ran (.rref (mk (opG 0) (opW 0))) (openBank 3 0)
  { s with rows := { s.rows with layers := s.rows.layers.set 3 { RowLayer.blank with debt := debt } } }

theorem wit_RowTransfers_starts : Moves [
    ⟨{ ran (.ract fromW) { openBank 1 3 with mem := Memory.empty.set (rowKey 0 1 3 1023) 9 } with now := 100 }, .rowCommandStart,
      headStarts, fun s => s.mem.get (bufferKey 1 1023) == 9 && (s.rows.bank 1).row == some 3⟩,
    ⟨ran (.rpre (mk (opG 0) (opW 0))) { openBank 0 0 with mem := Memory.empty.set (bufferKey 0 1) 9 }, .rowCommandStart,
      headStarts, fun s => s.mem.get (rowKey 0 0 2 1) == 9 && (s.rows.bank 0).row.isNone⟩,
    ⟨ran (.rpre (mk (opG 0) (opW 0))) (openBank 1 0), .rowCommandStart, headStarts, fun s => s.rows.running == []⟩,
    ⟨ran (.rcon (mk (opG 0) (opW 0) (opW 1) .i64 1)) { openBank 0 63 with mem := Memory.empty.set (bufferKey 0 1) 9 },
      .rowCommandStart, headStarts, transfer (fun c => c.beatAt == 100 && c.data.getD 1 0 == 9)⟩,
    ⟨ran (.rwb fromW) { openBank 0 0x7FC00 with mem := Memory.empty.set (spadKey (openBank 0 0) 0x7FFFF) 9 },
      .rowCommandStart, headStarts, transfer (fun c => c.beatAt == 100 && c.data.getD 1023 0 == 9)⟩,
    ⟨rrefOf 0, .rowCommandStart, headStarts, fun s => s.rows.running == []⟩,
    ⟨rrefOf 8, .rowCommandStart, headStarts, fun s => (s.rows.layer 3).refreshEnd == some 3180⟩] := moves (by decide +kernel)

theorem wit_RowTransfers_attempts : Moves [
    ⟨onBus (.wb 0 (.slot 1)) 0 0 0 false, .transferAttemptEnd none, attempts,
      fun s => s.rows.busFree == 98 && s.mem.get (bufferKey 0 1023) == 7 && transfer (fun c => c.doneAt == 102) s⟩,
    ⟨onBus (.con 0 (.slot 1)) 17 3 0 true, .transferAttemptEnd none, attempts, transfer (fun c => c.doneAt == 97 && c.beat == 18)⟩,
    ⟨onBus (.con 0 (.slot 1)) 3 3 2 true, .transferAttemptEnd none, attempts, transfer (fun c => c.beatAt == 91 && c.beat == 4)⟩,
    ⟨onBus (.con 0 (.slot 1)) 0 2 0 false, .transferAttemptEnd (some ⟨143, 1⟩), attempts,
      fun s => !s.rows.narrow && transfer (fun c => c.beatAt == 102 && c.tries == 3) s⟩,
    ⟨onBus (.con 0 (.slot 1)) 0 3 0 false, .transferAttemptEnd (some ⟨1, 1⟩), attempts, fun s => s.rows.narrow⟩,
    ⟨onBus (.con 0 (.slot 1)) 3 3 2 true, .transferAttemptEnd (some ⟨1, 1⟩), attempts,
      transfer (fun c => c.beatAt == 92 && c.beatTries == 3)⟩,
    ⟨onBus (.con 0 (.slot 1)) 3 3 3 true, .transferAttemptEnd (some ⟨1, 1⟩), attempts,
      fun s => s.rows.running == [] && (s.rows.xferLog.headD 0).getLsbD 58⟩] := moves (by decide +kernel)

theorem wit_RowTransfers_arrivals : Moves [
    ⟨onBus (.con 0 (.slot 63)) 18 0 0 false, .rowTransferComplete [], arrives, fun s => s.mem.get (slotKey 63 1023) == 7⟩,
    ⟨onBus (.con 0 (.spad 0x7FC00)) 18 0 0 false, .rowTransferComplete [], arrives, spadIs 0x7FFFF 1 7⟩,
    ⟨onBus (.con 0 (.vreg 16 false)) 18 0 0 false, .rowTransferComplete [], arrives,
      fun s => ((mine s).file (.v 23)).extractLsb' 1016 8 == 7⟩,
    ⟨onBus (.wb 0 (.slot 1)) 18 0 0 false, .rowTransferComplete [], arrives, fun s => s.rows.running == []⟩] :=
  moves (by decide +kernel)

/-- Layer 0 as given, at cycle 5000, with bank 0 as given. -/
def layerState (k : RowLayer) (b : RowBank) (f : RowPath → RowPath) : State :=
  let s := withLot (two 0 0)
  { s with now := 5000, rows := f { s.rows with layers := s.rows.layers.set 0 k, banks := s.rows.banks.set 0 b } }

def shut : RowBank := RowBank.blank
def ajar : RowBank := { RowBank.blank with view := some 1, row := some 1 }

/-- An RREF of layer 0 runs. -/
def rrefRuns (r : RowPath) : RowPath :=
  { r with running := [⟨5, .ctx 0 0, .ref 0, 0, some 0, 5000, [], false, 0, 0, 0, 0, 0, false⟩] }

def due (p : State → Bool) : State → Bool := fun s => decide ((s.rows.layer 0).dueAt ≤ s.now) && !s.seqResetting && p s
def layerIs (p : RowLayer → Bool) : State → Bool := fun s => p (s.rows.layer 0)

theorem wit_RowHousekeeping : Moves [
    ⟨layerState RowLayer.blank shut id, .refreshDue 0, due (fun s => !s.rows.layerOpen s.now 0),
      layerIs (·.refreshEnd == some 5385)⟩,
    ⟨layerState { RowLayer.blank with burst := true } shut id, .refreshDue 0, due (fun _ => true), layerIs (·.owed == 1)⟩,
    ⟨layerState { RowLayer.blank with refreshEnd := some 6000 } shut id, .refreshDue 0,
      due (fun s => !s.rows.layerOpen s.now 0), layerIs (·.owed == 1)⟩,
    ⟨layerState { RowLayer.blank with debt := 7 } ajar id, .refreshDue 0, due (fun s => s.rows.layerOpen s.now 0),
      layerIs (·.debt == 8)⟩,
    ⟨layerState { RowLayer.blank with debt := 8 } ajar id, .refreshDue 0, due (fun s => s.rows.layerOpen s.now 0),
      fun s => layerIs (·.burst) s && (s.rows.bank 0).evicted && s.rows.queue.length == 1⟩,
    ⟨layerState { RowLayer.blank with debt := 1, refreshEnd := some 5000, repaying := true } shut id, .refreshComplete 0,
      fun s => s.rows.running == [], layerIs (fun k => k.debt == 0 && k.refs == 1)⟩,
    ⟨layerState { RowLayer.blank with debt := 5, refreshEnd := some 5000, owed := 1 } shut rrefRuns, .refreshComplete 0,
      fun _ => true, layerIs (fun k => k.debt == 1 && k.refs == 5)⟩,
    ⟨layerState { RowLayer.blank with debt := 8, refreshEnd := some 5000, burst := true } shut id, .refreshComplete 0,
      fun _ => true, layerIs (fun k => k.debt == 0 && k.refs == 9)⟩,
    ⟨layerState { RowLayer.blank with debt := 8, burst := true } shut id, .forcedBurst 0,
      fun s => s.layerIdle 0 && !s.evictionQueued 0, layerIs (·.refreshEnd == some 8465)⟩,
    ⟨layerState { RowLayer.blank with debt := 1 } shut id, .debtRepaymentStart 0, fun s => s.layerIdle 0 && !s.actReady 0,
      layerIs (·.refreshEnd == some 5385)⟩,
    ⟨layerState RowLayer.blank shut (fun r => { r with windowEnd := 5000 }), .activationWindowEnd, fun _ => true,
      fun s => s.rows.windowEnd == 70405000⟩,
    ⟨layerState RowLayer.blank shut id, .retrainDue, fun s => !s.rows.narrow && !s.rows.trainDue && s.rows.trainEnd.isNone,
      fun s => s.rows.trainDue⟩,
    ⟨layerState RowLayer.blank shut (fun r => { r with trainDue := true }), .retrainStart,
      fun s => s.rows.running.all (!·.isTransfer) && !s.rows.transfersQueued, fun s => s.rows.trainEnd == some 13800⟩,
    ⟨layerState RowLayer.blank shut (fun r => { r with trainEnd := some 5000 }), .retrainEnd, fun _ => true,
      fun s => s.rows.retrains == 1 && s.rows.trainDueAt == 110005000⟩] := moves (by decide +kernel)

/-! ## Itineraries, streams, messages, collective steps and the outside -/

/-- A state with numbers of `n` bytes at scratchpad addresses. -/
def holdsAt (l : List (Nat × Nat × Nat)) (s : State) : State :=
  { s with mem := l.foldl (fun m x => m.setNat (siteKey 0 (spadOff + x.1)) x.2.1 x.2.2) s.mem }

/-- A signal stop (kind 7) that sets event 3 and has no predecessor (R213). -/
def signal3 : Nat := 7 + 3 * 2 ^ 50 + 2 ^ 54
/-- A copy of one element of 8 bytes (kind 0). -/
def copy1 : Nat := 2 ^ 128 + 2 ^ 144 + 2 ^ 160 + 2 ^ 176 + 3 * 2 ^ 400

def image (n : Nat) : State := holdsAt [(0x200, 64, n)] (withLot (two 0x200 1))

/-- An itinerary of stops is loaded. -/
def loaded (stops : List Nat) (s : State) : State :=
  { s with graph := { s.graph with stops := stops.map (BitVec.ofNat 512) } }

/-- The loaded itinerary's first run, as IRUN starts it. -/
def started (stops : List Nat) : State := ran (.irun (near)) (loaded stops (withLot (two 0x200 0x10)))

def imageOk (n : Nat) : Entry → State → Bool := fun e t =>
  let stops := [BitVec.ofNat 512 (spadNat t (e.opA t t.cur).toNat 64)]
  decide (ReadableSpad t (e.opA t t.cur).toNat 64) && !t.loadingImage && !t.loadWaits t.cur && allRuns.all (fun r => (t.run r).state == 0)
    && overflowLen stops == 0 && (match firstBad 1 [] (fun _ => false) stops 0 with
      | none => n == 0
      | some (c, _) => n == c)

def irunOk (full : Bool) : Entry → State → Bool := fun e t =>
  (t.runFault (e.opA t t.cur) (e.opB t t.cur)).isNone && !t.loadingImage && !t.loadWaits t.cur && !t.graph.hasChunks && t.freeSlot.isSome
    && t.graph.stops.isEmpty != full && decide (ReadableSpad t (e.opA t t.cur).toNat 64)

/-- A run slot of run 3 as given. -/
def run3 (state events a b : Nat) : State :=
  let s := two a b
  { s with graph := { s.graph with
      runs := s.graph.runs.set 3 { RunSlot.blank with state := BitVec.ofNat 2 state, events := BitVec.ofNat 16 events } } }

def allFull : State :=
  let s := two 0 0
  { s with graph := { s.graph with runs := Vector.replicate 4 { RunSlot.blank with state := 1 } } }

theorem wit_ItineraryInstructions : Witnesses [
    ⟨image signal3, .iload, near, imageOk 0, fun s => s.graph.stops.length == 1 && (mine s).isPending (.w 2)⟩,
    ⟨image 8, .iload, near, imageOk 1, fun s => s.graph.stops.isEmpty && (mine s).isPending (.w 2)⟩,
    ⟨withLot (two 0x200 0x10), .irun, on01, irunOk false, reads (.w 2) (minus 1)⟩,
    ⟨loaded [signal3] (withLot (two 0x200 0x10)), .irun, on01, irunOk true,
      fun s => reads (.w 2) 0 s && s.graph.launchQueue == [(0, 0)]⟩,
    ⟨allFull, .irun, on01, fun _ t => t.freeSlot.isNone, pcIs 0x1000⟩,
    ⟨run3 1 8 3 8, .iwait, on01, any, fun s => (mine s).read (.w 2) != 0⟩, ⟨run3 1 8 3 4, .iwait, on01, any, pcIs 0x1000⟩,
    ⟨run3 1 0 3 0, .iwait, on01, any, pcIs 0x1000⟩, ⟨run3 0 0 3 4, .iwait, on01 .i64 1, any, reads (.w 2) 0⟩,
    ⟨run3 1 12 3 8, .ipoll, toP1 .i64 1, any, reads (.p 1) 1⟩, ⟨run3 1 4 3 12, .ipoll, toP1, any, reads (.p 1) 0⟩,
    ⟨run3 0 0 3 0, .idrop, on01, any, pcIs 0x1008⟩, ⟨run3 1 12 3 8, .idrop, on01, any, fun s => (s.run 3).events == 4⟩,
    ⟨run3 2 0 3 0, .idrop, on01 .i64 1, fun _ t => (t.run 3).coll.isNone && !t.runBusy 3, fun s => (s.run 3).state == 0⟩] :=
  witnesses (by decide +kernel)

/-- A stop of run 0 in progress with its elements moved. -/
def moved : State :=
  let s := ran .stopLaunch (started [copy1])
  { s with graph := { s.graph with inProgress := s.graph.inProgress.map (fun p => { p with element := 1 }) } }

/-- A stop that sends a chunk to rank 1, its bytes read, and the state it is in. -/
def sending : State :=
  let stop := 4 + 2 ^ 256 + 0x3FFF * 2 ^ 272
  let s := started [copy1]
  let s := { s with graph := { s.graph with
      stops := [BitVec.ofNat 512 stop], launchQueue := [],
      inProgress := [⟨0, 0, 0, 1, none, none, 0, (none, none), [], 0⟩] } }
  s

def chunk5 : Chunk := ⟨0x3FFF, 5, 0, [1, 2]⟩

/-- A stop that receives at most 4 bytes from rank 5 at near 0x300 and names the signal after it twice. -/
def receiving : State :=
  let stop := 5 + 2 * 2 ^ 63 + 2 ^ 88 + 2 ^ 98 + 0x300 * 2 ^ 128 + 4 * 2 ^ 192 + 5 * 2 ^ 256 + 0x3FFF * 2 ^ 272
  let s := started [stop, signal3 + 2 * 2 ^ 40]
  { s with party := { s.party with bound := true }, graph := { s.graph with
      launchQueue := [], inProgress := [⟨0, 0, 0, 0, none, none, 0, (none, none), [], 0⟩]
      runs := s.graph.runs.set 0 { s.run 0 with bases := List.replicate 8 (1 <<< 63) } } }

/-- Rank 5's chunk by this device's number. -/
def chunkOwn : Chunk := { chunk5 with dev := State.reset.ownDev }

def takesChunk5 : State → Bool := fun s => match s.chunkTaker chunkOwn with
  | some p => !s.stopHeld p && (match s.chunkPlace p (chunkLen (s.graph.stop 0)) with
    | .inl a => decide (plainKeys (s.nearKeys a 2))
    | .inr _ => false) && stopKind (s.graph.stop 0) == 5 && chunkLen (s.graph.stop 0) == 4 && s.mem.wf && p.fail.isNone
      && (s.run 0).counters == [0, 2]
  | none => false

theorem wit_StopEvents : Moves [
    ⟨started [copy1], .stopLaunch, fun s => s.graph.launchQueue == [(0, 0)] && stopKind (s.graph.stop 0) == 0
      && stopTotal (s.graph.stop 0) == 1, fun s => s.graph.inProgress.length == 1 && s.graph.launchQueue.isEmpty⟩,
    ⟨started [signal3], .stopLaunch, fun s => s.graph.launchQueue == [(0, 0)] && stopKind (s.graph.stop 0) == 7
      && !s.party.preempting, fun s => s.graph.inProgress.isEmpty && (s.run 0).events == 8 && (s.run 0).ended == 1⟩,
    ⟨moved, .stopComplete ⟨0, .own⟩, fun s => match s.graph.inProgress[0]? with
      | some p => p.token.isNone && p.phase == 0 && p.element == stopTotal (s.graph.stop 0) && p.fail.isNone
      | none => false, fun s => s.graph.inProgress.isEmpty && (s.run 0).ended == 1⟩,
    ⟨sending, .stopComplete ⟨0, .taken⟩, fun s => stopKind (s.graph.stop 0) == 4
      && !s.isSelf (chunkDev (s.graph.stop 0)) (chunkLrn (s.graph.stop 0)),
      fun s => s.graph.inProgress.isEmpty && (s.run 0).ended == 1⟩,
    ⟨let s := two 0 0
     { s with party := { s.party with bound := true } }, .chunkArrive chunk5,
      fun s => s.party.bound && !s.isSelf chunk5.dev chunk5.lrn && (s.chunkTaker chunk5).isNone,
      fun s => s.graph.chunks == [chunk5]⟩,
    ⟨receiving, .chunkArrive chunkOwn, fun s => takesChunk5 s && s.party.bound && !s.isSelf chunkOwn.dev chunkOwn.lrn
      && s.graph.chunks.isEmpty, fun s => s.graph.launchQueue == [(0, 1)] && spadIs 0x300 2 0x201 s
      && s.graph.inProgress.isEmpty⟩] := moves (by decide +kernel)

/-- A stream descriptor at 0x200: near base 0x400, 32 elements, one of each outer count (R234, R235). -/
def streamDesc : Nat := 2 ^ 63 + 0x400 + 32 * 2 ^ 64 + 2 ^ 96 + 2 ^ 112 + 2 ^ 128

def sbindW (out : Bool) : Fields := mk (opV 31) (opW 0) (opG 0) .i8 (if out then 128 else 0)
def described (d : Nat) : State := holdsAt [(0x200, 64, d), (0x400, 1, 0xFF)] (withLot (two 0x200 7))
/-- `v31` bound. -/
def bound (out : Bool) : State := ran (.sbind (sbindW out)) (described streamDesc)

def descOk (bad : Bool) : Entry → State → Bool := fun e t =>
  decide (ReadableSpad t (e.opA t t.cur).toNat 64) && !t.loadWaits t.cur && (t.stream? t.cur 31).isNone
    && descBad e.w.ty e.fmt (BitVec.ofNat 512 (spadNat t (e.opA t t.cur).toNat 64)) == bad

def drained (out : Bool) : Entry → State → Bool := fun _ t => match t.stream? t.cur 31 with
  | some b => t.streamDrained b == out
  | none => false

def v31 : Fields := mk (opV 31)

/-- A group pushed to the out-stream. -/
def pushed : State := ran (.vadd (mk (opV 31) (opV 1) (opV 0) .i32)) (onCtx (bound true) (fun x => x.setFile (.v 1) 0x81))

theorem wit_Streams : Witnesses [
    ⟨described 0, .sbind, sbindW false, descOk true, trapIs 0x1C (3 * 2 ^ 60 + 31)⟩,
    ⟨described streamDesc, .sbind, sbindW false, descOk false, fun s => s.graph.streams.length == 1⟩,
    ⟨described streamDesc, .sbind, sbindW true, descOk false, fun s => s.graph.streams.length == 1⟩,
    ⟨bound true, .sbind, sbindW true, fun _ t => (t.stream? t.cur 31).isSome, trapIs 0x1C (2 ^ 60 + 31)⟩,
    ⟨described 0, .sdrain, v31, fun _ t => (t.stream? t.cur 31).isNone, pcIs 0x1008⟩,
    ⟨bound true, .sdrain, v31, drained true, pcIs 0x1010⟩, ⟨pushed, .sdrain, v31, drained false, pcIs 0x1010⟩,
    ⟨described 0, .sfree, v31, any, pcIs 0x1008⟩, ⟨bound false, .sfree, v31, drained true, fun s => s.graph.streams.isEmpty⟩,
    ⟨bound true, .sstat, mk (opW 2) (opV 31), any, fun s => (mine s).read (.w 2) != 0⟩,
    ⟨described 0, .sstat, mk (opW 2) (opV 31), any, reads (.w 2) 0⟩] := witnesses (by decide +kernel)

def mayRead : State → Bool := fun s => match s.graph.streams[0]? with
  | some b => (match b.nextRead with
    | some g => (match s.readElems b (b.waiter [g]) (b.groupElems g.idx) with
      | .ok _ _ _ => true
      | _ => false)
    | none => false)
  | none => false

theorem wit_Streams_events : Moves [
    ⟨bound false, .streamGroupArrive ⟨0, none⟩, mayRead, fun s => s.graph.streams.any (fun b => b.buf.any (fun g => g.data.isSome))⟩,
    ⟨pushed, .streamGroupWrite ⟨0, none⟩, fun s => match s.graph.streams[0]? with
      | some b => s.writable b != 0
      | none => false, spadIs 0x400 1 0x7F⟩] := moves (by decide +kernel)

/-- A message descriptor at 0x200 (R247): 8 bytes, near 0x300, remote 0x400, to a rank. -/
def msgDesc (dev lrn : Nat) : Nat := 0x300 + 0x400 * 2 ^ 32 + 8 * 2 ^ 64 + lrn * 2 ^ 128 + dev * 2 ^ 160

/-- The rank in its party, with that descriptor, and 5 at 0x300 and 6 at 0x400. -/
def party (dev lrn : Nat) : State :=
  let s := holdsAt [(0x200, 32, msgDesc dev lrn), (0x300, 8, 5), (0x400, 8, 6)] (withLot (two 0x200 0x240))
  { s with party := { s.party with bound := true, size := 2, lrns := [(0, 0), (1, 1)] } }

def msgW : Fields := mk (opW 2) (opW 0)
def msgOk (kind : MsgKind) (bad : Bool) : Entry → State → Bool := fun e t =>
  let d := BitVec.ofNat 256 (spadNat t (e.opA t t.cur).toNat 32)
  decide (ReadableSpad t (e.opA t t.cur).toNat 32) && decide (t.msgs.length < 16) && !t.storing t.cur && !t.readWaits t.cur (e.opA t t.cur).toNat 32 && msgLaddr d % 8 == 0
    && t.nearOk (msgLaddr d) (msgLen d) && msgBad kind d == bad

def oneMsg : State → Bool := fun s => s.msgs.length == 1 && (mine s).isPending (.w 2)

/-- 16 messages outstanding. -/
def fullMsgs : State :=
  let s := ran (.send msgW) (party 0x3FFF 1)
  onCtx { s with msgs := List.replicate 16 (s.msgs.headD ⟨0, .send, 0, 0, .w 0, 0, 0, 0, 0, 0, 0, 0, none, none, false, false, false⟩) }
    (fun x => { x with pending := [], owed := [] })

/-- A CAS of the scratchpad word at an address that has not completed, before a message. -/
def storingTo (a : Nat) : State := behindCas (party 0x3FFF 0) a

/-- A message of the rank to itself that waits for its partner. -/
def waiting (i : Fields → Instr) : State :=
  onCtx (ran (i msgW) (party 0x3FFF 0)) (fun x => { x with pending := [], owed := [] })

def bothMatched : State → Bool := fun s => s.msgs.length == 2 && s.msgs.all (·.matched.isSome)

theorem wit_MessagesStart : Witnesses ([(Opcode.send, MsgKind.send), (.recv, .recv), (.put, .put), (.get, .get)].flatMap (fun p => [
    ⟨party 0x3FFF 0, p.1, msgW, msgOk p.2 false, oneMsg⟩,
    ⟨holdsAt [(0x218, 8, 1)] (party 0x3FFF 0), p.1, msgW, msgOk p.2 true, trapIs 5 0x200⟩,
    ⟨onCtx (party 0x3FFF 0) (·.setFile (.w 0) 0x208), p.1, msgW, any, trapIs 4 0x208⟩,
    ⟨fullMsgs, p.1, msgW, fun _ t => decide (16 ≤ t.msgs.length), pcIs 0x1008⟩,
    ⟨storingTo 0x208, p.1, msgW, fun e t => t.readWaits t.cur (e.opA t t.cur).toNat 32, pcIs 0x1008⟩]) ++
    [⟨waiting .recv, .send, msgW, fun e t => msgOk .send false e t && t.msgs.length == 1, bothMatched⟩,
     ⟨waiting .send, .recv, msgW, fun e t => msgOk .recv false e t && t.arrivals == [t.ownOffer 0], bothMatched⟩]) :=
  witnesses (by decide +kernel)

def peer1 : PeerMsg := ⟨0x3FFF, 1, 0, 0, 0, none, [], []⟩

def self0 : PeerMsg := { peer1 with lrn := 0 }

/-- A SEND from 0x300 and a RECV into 0x400 of this rank to itself. -/
def paired : State :=
  let s := ran (.send msgW) (party 0x3FFF 0)
  let s := holdsAt [(0x200, 4, 0x400)] s
  let s := ran (.recv (mk (opW 3) (opW 0))) s
  { s with unseen := [] }

/-- One message of the rank to itself, or to rank 1 from its member. -/
def one (i : Instr) (lrn : Nat := 0) : State := { ran i (party 0x3FFF lrn) with unseen := [] }

/-- Two of them. -/
def twice (i : Instr) (lrn : Nat := 0) : State :=
  let s := ran i (onCtx (one i lrn) (fun x => { x with pending := [], owed := [] }))
  { s with unseen := [] }

/-- With every message matched. -/
def allMatched (p : PeerMsg) (s : State) : State := { s with msgs := s.msgs.map (fun m => { m with matched := some p }) }

/-- With every message at a remote address that no memory of the peer has. -/
def beyond (s : State) : State := { s with msgs := s.msgs.map (fun m => { m with raddr := 0xFFFFFFF8 }) }

def firstMsg (p : Msg → State → Bool) : State → Bool := fun s => s.mem.wf && s.unseen == [] && (match s.msgs[0]? with
  | some m => p m s
  | none => false)

def soundAt (s : State) (a n : Nat) : Bool := !s.poisonedAt (s.nearKeys a n) && decide (plainKeys (s.nearKeys a n))

def selfOk (kind : MsgKind) : State → Bool := firstMsg (fun m s => s.msgSelf m && m.kind == kind && !s.msgBehind m
  && s.nearOk m.raddr.toNat m.len && soundAt s m.raddr.toNat m.len && soundAt s m.laddr.toNat m.len)

def peerOk (kind : MsgKind) : State → Bool := firstMsg (fun m s => !s.msgSelf m && m.kind == kind && !s.msgBehind m
  && s.peerCode m peer1 == 0 && soundAt s m.laddr.toNat m.len && !s.portHeld)

/-- The rank's peer is rank 1. -/
def fromPeer (s : State) : Bool :=
  !s.isSelf peer1.dev peer1.lrn && s.mayBeMember peer1.dev peer1.lrn && s.party.bound && s.mem.wf && s.unseen == []

def secondBehind : State → Bool := fun s => match s.msgs[1]? with
  | some m => s.msgBehind m && s.mem.wf && s.unseen == []
  | none => false

theorem wit_MessagesMove_matches : Moves [
    ⟨paired, .messageMatch 0 self0, fun s => s.mem.wf && s.unseen == [] && s.isSelf self0.dev self0.lrn,
      fun s => s.msgs.length == 2 && s.msgs.all (·.matched.isSome)⟩,
    ⟨one (.send msgW) 1, .messageMatch 0 { peer1 with capacity := 8 }, fun s => fromPeer s && firstMsg (fun m s =>
        m.kind == .send && m.matched.isNone && m.tag == 0 && s.devOf m.dev == s.devOf 0x3FFF && m.lrn == 1 && !s.tagBehind m) s,
      fun s => s.msgs.all (·.matched.isSome)⟩,
    ⟨one (.recv msgW) 1, .messageMatch 1 peer1, fun s => fromPeer s && s.msgs[1]?.isNone
        && (s.msgs.find? (fun m => s.takesSend m 0x3FFF 1 0)).isSome, fun s => s.msgs.all (·.matched.isSome)⟩,
    ⟨party 0x3FFF 0, .messageMatch 0 peer1, fun s => fromPeer s && s.msgs == [], fun s => s.arrivals == [peer1]⟩] :=
  moves (by decide +kernel)

theorem wit_MessagesMove_lands : Moves [
    ⟨paired, .messageLand 0 self0, firstMsg (fun m s => m.kind == .send && !s.msgBehind m
        && (match s.selfRecv m with | some r => soundAt s m.laddr.toNat 8 && soundAt s r.laddr.toNat 8 | none => false)),
      fun s => spadIs 0x400 8 5 s && s.msgs.isEmpty⟩,
    ⟨allMatched { peer1 with capacity := 7 } (one (.send msgW) 1), .messageLand 0 peer1, firstMsg (fun m s => m.kind == .send
        && !s.msgBehind m && soundAt s m.laddr.toNat 7), fun s => s.msgs.isEmpty && reads (.w 2) (2 ^ 56 + 2 ^ 32 + 7) s⟩,
    ⟨allMatched peer1 (twice (.send msgW) 1), .messageLand 1 peer1, secondBehind, fun s => s.msgs.length == 2⟩,
    ⟨allMatched { peer1 with data := [1, 2, 3] } (one (.recv msgW) 1), .messageLand 0 peer1, firstMsg (fun m s => m.kind == .recv
        && soundAt s m.laddr.toNat 3), fun s => s.msgs.isEmpty && spadIs 0x300 3 0x030201 s⟩,
    ⟨one (.put msgW), .messageLand 0 self0, selfOk .put, fun s => spadIs 0x400 8 5 s && s.msgs.isEmpty⟩,
    ⟨twice (.put msgW), .messageLand 1 self0, secondBehind, fun s => s.msgs.length == 2⟩,
    ⟨one (.put msgW) 1, .messageLand 0 peer1, peerOk .put, fun s => s.msgs.isEmpty && reads (.w 2) (2 ^ 32 + 8) s⟩,
    ⟨one (.get msgW) 1, .messageLand 0 { peer1 with data := [9, 8, 7, 6, 5, 4, 3, 2] }, peerOk .get,
      fun s => s.msgs.isEmpty && spadIs 0x300 8 0x0203040506070809 s⟩,
    ⟨beyond (one (.get msgW) 1), .messageLand 0 peer1, firstMsg (fun m s => m.kind == .get && !s.msgSelf m
      && s.peerCode m peer1 == 3), fun s => s.msgs.isEmpty && spadIs 0x300 8 5 s⟩,
    ⟨one (.get msgW), .messageLand 0 self0, selfOk .get, fun s => spadIs 0x300 8 6 s && s.msgs.isEmpty⟩,
    ⟨party 0x3FFF 0, .messageLand 0 { peer1 with raddr := some 0x500, data := [7, 8] }, fun s => s.msgs[0]?.isNone
      && fromPeer s && s.nearOk 0x500 2 && soundAt s 0x500 2, spadIs 0x500 2 0x807⟩,
    ⟨{ one (.send msgW) 1 with now := 50000 * 1100 + 1 }, .messageTimeout 0, firstMsg (fun m s => s.msgExpired m),
      fun s => s.msgs.isEmpty && reads (.w 2) (2 * 2 ^ 56 + 2 ^ 32) s⟩] := moves (by decide +kernel)

/-- A COLL descriptor at 0x200 (R254): source 0x300, destination 0x400, 2 elements. -/
def collState (root : Nat) : State :=
  let s := party 0x3FFF 0
  holdsAt [(0x200, 32, 0), (0x200, 16, 0x300 + 0x400 * 2 ^ 32 + 2 * 2 ^ 64 + root * 2 ^ 96)] { s with mem := Memory.empty }

def collW (op : Nat) : Fields := mk (opW 2) (opW 0) (opG 0) .i32 (32 * op)

def collGood : Entry → State → Bool := fun e t =>
  let d := BitVec.ofNat 512 (spadNat t (e.opA t t.cur).toNat 64)
  let plan := t.collPlan e.collOp e.w.ty d []
  t.freeSlot == some 0 && t.quietOn t.cur .s && decide (ReadableSpad t (e.opA t t.cur).toNat 64) && e.collOp != 2
    && !collMalformed e.collOp d && !t.collTooLarge e.collOp e.w.ty d && !t.bufferBad plan.src plan.e
    && !t.bufferBad plan.dst plan.e && !buffersClash e.collOp plan.src plan.dst

/-- A COLL descriptor of an A2A whose member sends one element to each and receives as many. -/
def a2aState : State :=
  holdsAt [(0x218, 8, 0x500 + 0x520 * 2 ^ 32), (0x500, 8, 1 + 2 ^ 32), (0x520, 8, 1 + 2 ^ 32)] (collState 0)

def a2aGood : Entry → State → Bool := fun e t =>
  let d := BitVec.ofNat 512 (spadNat t (e.opA t t.cur).toNat 64)
  let p := t.teamSize (collScope d)
  let counts := (List.range p).map (fun i => spadNat t (collCnts d + 4 * i) 4)
  let plan := t.collPlan e.collOp e.w.ty d counts
  t.freeSlot == some 0 && t.quietOn t.cur .s && decide (ReadableSpad t (e.opA t t.cur).toNat 64) && e.collOp == 2
    && counts == [1, 1] && !collMalformed e.collOp d && !t.collTooLarge e.collOp e.w.ty d
    && !t.bufferBad (collCnts d, 4 * p) 4 && !t.bufferBad (collRcnts d, 4 * p) 4
    && decide (ReadableSpad t (collCnts d) (4 * p)) && !t.bufferBad plan.src plan.e
    && !t.bufferBad plan.dst plan.e && !buffersClash e.collOp plan.src plan.dst

def barred (n : Option Nat) (a b : Nat) : State :=
  onCtx (withLot (two a b)) (fun x => { x with barWait := n.map (BitVec.ofNat 6) })

def barW (os : Nat := 0) : Fields := mk (opW 2) (opG 0) (opG 0) .i64 os
def barcW (os : Nat := 0) : Fields := mk (opW 2) (opW 0) (opG 0) .i64 os

theorem wit_CollectiveInstructions : Witnesses [
    ⟨collState 0, .coll, collW 4, collGood, fun s => reads (.w 2) 0 s && (s.scope false).queue.length == 2⟩,
    ⟨collState 1, .coll, collW 3, collGood, fun s => reads (.w 2) 0 s && (s.scope false).queue.length == 1⟩,
    ⟨a2aState, .coll, collW 2, a2aGood, fun s => reads (.w 2) 0 s && (s.scope false).queue.length == 1
      && (match (s.run 0).coll with | some r => r.counts == [1, 1] | none => false)⟩,
    ⟨onCtx (collState 0) (·.setFile (.w 0) 0x208), .coll, collW 4, fun _ t => t.freeSlot == some 0 && t.quietOn t.cur .s,
      trapIs 0x18 (2 ^ 60 + 0x208)⟩,
    ⟨barred none 0 0, .bar, barW 2, fun _ t => allClasses.all (t.quietOn t.cur),
      fun s => (s.scope true).queue.length == 1 && (mine s).barWait == some 0⟩,
    ⟨barred (some 1) 0 0, .bar, barW, any, reads (.w 2) 0⟩, ⟨barred (some 31) 0 0, .bar, barW, any, reads (.w 2) (2 ^ 63 + 15)⟩,
    ⟨barred (some 0) 0 0, .bar, barW, any, pcIs 0x1000⟩,
    ⟨barred none 0x7FFC0 0, .barc, barcW 1, fun e t => allClasses.all (t.quietOn t.cur) && t.nearOk (e.opA t t.cur).toNat 64,
      fun s => (s.scope false).queue.length == 1 && (mine s).barWait == some 0⟩,
    ⟨barred (some 1) 64 0, .barc, barcW, any, reads (.w 2) 0⟩, ⟨barred (some 16) 64 0, .barc, barcW, any, reads (.w 2) (2 ^ 63)⟩,
    ⟨barred (some 0) 64 0, .barc, barcW, any, pcIs 0x1000⟩] := witnesses (by decide +kernel)

/-- BAR joined, and entered where `n` says. -/
noncomputable def inBar (entered : Bool) : State :=
  let s := party 0x3FFF 0
  let s := ran (.bar barW) s
  if entered then ran (.stepEntry false) s else s

def headStep (p : StepRun → Bool) : State → Bool := fun s => match (s.scope false).queue with
  | r :: _ => p r
  | [] => false

def other1 : StepNews := .entered 1 1 (1, 0) [] [] [] [] []

/-- A barrier entered, and another behind it that is not. -/
noncomputable def twoBars : State :=
  (inBar true).modScope false (fun k => { k with queue := k.queue ++ (k.queue.map (fun r => { r with
    kind := .bar none, entered := false, inside := false })) })

def secondStep (p : StepRun → Bool) : State → Bool := fun s => match (s.scope false).queue with
  | [_, r] => p r
  | _ => false

/-- An outside request is in progress. -/
noncomputable def busy : State := { inBar false with gate := [asked true] }

/-- An AR of two elements entered by both members, whose sources are 5, 0 and 7, 9; this rank has read its source. -/
noncomputable def gathered : State :=
  let s := ran (.stepEntry false) (ran (.coll (collW 4)) (holdsAt [(0x300, 8, 5)] (collState 0)))
  let key := match (s.scope false).queue with
    | r :: _ => s.stepKeyOf r.kind
    | [] => (0, 0)
  let s := ran (.stepProgress false (.entered 1 1 key [7, 0, 0, 0, 9, 0, 0, 0] [] [] [] [])) s
  { ran (.stepProgress false .srcFree) s with unseen := [] }

def mayGather : State → Bool := fun s => headStep (fun r => r.entered && r.others.length + 1 == s.teamSize false && r.srcFree
    && !r.localReady && r.wrote == [] && r.kind == .coll 0 0) s && !s.stepHeld 0 && s.gate == [] && s.unseen == [] && s.mem.wf
  && (match (s.run 0).coll with
    | some cr => cr.blocks == [] && cr.op == 4 && (s.collPlan cr.op cr.ty cr.desc cr.counts).p == 2
    | none => false)

theorem wit_StepEvents_gathers : Moves [
    ⟨gathered, .stepProgress false .localReady, mayGather, fun s => spadIs 0x400 8 12 s && headStep (·.localReady) s
      && (s.run 0).events == 3⟩] := moves (by decide +kernel)

theorem wit_StepEvents : Moves [
    ⟨twoBars, .stepEntry false, fun s => headStep (·.entered) s && secondStep (fun r => !r.entered && r.failed.isNone) s
      && !s.admittedBusy, secondStep (fun r => r.entered && r.inside)⟩,
    ⟨busy, .stepEntry false, fun s => s.admittedBusy, headStep (fun r => !r.entered)⟩,
    ⟨ran (.stepProgress false other1) twoBars, .stepProgress false other1, fun s => s.teamMember false == 0
      && s.teamSize false == 2 && headStep (fun r => r.others.length == 1) s
      && secondStep (fun r => r.others == [] && s.stepKeyOf r.kind == (1, 0)) s, secondStep (fun r => r.others.length == 1)⟩,
    ⟨inBar false, .stepEntry false, fun s => headStep (fun r => !r.entered && r.failed.isNone && r.others == []) s
      && !s.admittedBusy, headStep (fun r => r.entered && r.inside)⟩,
    ⟨inBar true, .stepProgress false other1, fun s => s.teamMember false == 0 && s.teamSize false == 2
      && headStep (fun r => r.others == [] && s.stepKeyOf r.kind == (1, 0)) s, headStep (fun r => r.others.length == 1)⟩,
    ⟨ran (.stepProgress false other1) (inBar true), .stepProgress false .allDone, fun s => s.gate == []
      && headStep (fun r => r.kind == .bar (some 0) && r.entered && r.others.length + 1 == s.teamSize false) s,
      fun s => (mine s).barWait == some 1 && (s.scope false).queue.isEmpty⟩,
    ⟨{ inBar true with now := 100000000 }, .stepTimeout false, fun s => s.gate == []
      && headStep (fun r => r.kind == .bar (some 0) && r.entered && r.inside && decide (r.deadline ≤ s.wall)) s,
      fun s => (mine s).barWait == some 19⟩] := moves (by decide +kernel)

/-- A request for 8 bytes at a rank offset. -/
def outReq (off vf : Nat) : OutReq := ⟨0, BitVec.ofNat 6 vf, 0, BitVec.ofNat 28 off, none, 8, 77, false, false⟩

/-- The request at the scratchpad is admitted and performed at once. -/
def admits : State → Bool := fun s => (s.gateRefusal (outReq (spadOff + 0x300) 0)).isNone && !s.gateClosed && s.gate == []
  && !s.seqResetting && s.mem.wf && !s.poisonedAt ((List.range 8).map (fun i => spadKey s (0x300 + i)))

theorem wit_OutsideRequests : Moves [
    ⟨party 0x3FFF 0, .outsideRead (outReq 0 1), fun s => s.gateRefusal (outReq 0 1) == some 1,
      fun s => s.replies == [⟨77, .pagePerm 1, []⟩]⟩,
    ⟨party 0x3FFF 0, .outsideRead (outReq 0x100000 0), fun s => s.gateRefusal (outReq 0x100000 0) == some 6,
      fun s => s.replies == [⟨77, .pagePerm 6, []⟩]⟩,
    ⟨party 0x3FFF 0, .outsideRead { outReq 0 0 with queued := true }, fun s => (s.gateRefusal { outReq 0 0 with queued := true }).isNone
      && !s.gateClosed && s.gate == [] && !s.portHeld && !s.seqResetting && portKey 0 (siteKey s.party.site 0),
      fun s => s.gate.length == 1 && s.gate.all (·.admitted) && s.replies == []⟩,
    ⟨inBar true, .outsideRead (outReq 0 0), fun s => (s.gateRefusal (outReq 0 0)).isNone && s.gateClosed,
      fun s => s.gate.length == 1⟩,
    ⟨party 0x3FFF 0, .outsideRead (outReq (spadOff + 0x300) 0), fun s => (s.gateRefusal (outReq (spadOff + 0x300) 0)).isNone
      && !s.gateClosed && s.gate == [] && !s.seqResetting && s.unseen == [],
      fun s => s.replies == [⟨77, .ok, [5, 0, 0, 0, 0, 0, 0, 0]⟩]⟩,
    ⟨party 0x3FFF 0, .outsideWrite (outReq (spadOff + 0x300) 0) (.inl [1, 2, 3, 4, 5, 6, 7, 8]), admits,
      spadIs 0x300 8 0x0807060504030201⟩,
    ⟨party 0x3FFF 0, .outsideWrite (outReq (spadOff + 0x300) 0) (.inr (.atom .i64 0 6 .rne 0 false)), admits,
      fun s => spadIs 0x300 8 11 s && s.replies == [⟨77, .ok, [5, 0, 0, 0, 0, 0, 0, 0]⟩]⟩,
    ⟨party 0x3FFF 0, .outsideWrite (outReq (spadOff + 0x300) 0) (.inr (.cas .i64 4 6)), fun s => admits s
      && outApply (.cas .i64 4 6) 5 == none, fun s => spadIs 0x300 8 5 s && s.replies.length == 1⟩,
    ⟨{ ran (.outsideRead (outReq 0 0)) (inBar true) with now := 55000000 }, .gateTimeout 0 false, fun s => match s.gate[0]? with
      | some g => !g.admitted && decide (g.deadline ≤ s.wall)
      | none => false, fun s => s.replies == [⟨77, .gateTimeout, []⟩]⟩] := moves (by decide +kernel)

/-! ## Vectors

Worked by hand from R340 to R365. -/

/-- Lanes as a vector, lane 0 first. -/
def vecOf (l : List Nat) : Nat := l.foldr (fun x a => x + 2 ^ 32 * a) 0

/-- `v1`, `v3` and `v2` from lanes, masks `m1` = 1 and `m2` = 0, and `w0` and `w1`. -/
def vecs (a b d : List Nat) (w0 w1 : Nat := 0) : State :=
  let s := onCtx (withLot (two w0 w1)) (fun x =>
    [(RegName.v 1, vecOf a), (.v 3, vecOf b), (.v 2, vecOf d), (.m 1, 1)].foldl (fun x r => x.setFile r.1 (BitVec.ofNat 1024 r.2)) x)
  s

def vec3 (ty : Ty := .i32) (os : Nat := 0) : Fields := mk (opV 2) (opV 1) (opV 3) ty os

def laneIs (k v : Nat) : State → Bool := fun s => lane ((mine s).read (.v 2)) k == BitVec.ofNat 32 v

/-- One instruction on lane 0, and its lane 0. -/
def lane0 (op : Opcode) (ty : Ty) (a b r : Nat) (os : Nat := 0) : Case :=
  ⟨vecs [a] [b] [], op, vec3 ty os, any, laneIs 0 r⟩

/-- Lane 0 alone is active: ME with `m1`. -/
def me1 : Nat := 128 + 16

theorem wit_VectorArithmetic : Witnesses [
    lane0 .vadd .i32 0x7FFFFFFF 1 0x80000000, lane0 .vadd .f32 0x3F800000 0x40000000 0x40400000,
    lane0 .vsub .ui32 0 1 0xFFFFFFFF, lane0 .vsub .f32 0x3F800000 0x3F800000 0, lane0 .vmul .i32 0xFFFFFFFF 3 0xFFFFFFFD,
    lane0 .vmul .f32 0x40000000 0x40400000 0x40C00000, ⟨vecs [2] [3] [4], .vfma, vec3, any, laneIs 0 10⟩,
    ⟨vecs [0x40000000] [0x40400000] [0x3F800000], .vfma, vec3 .f32, any, laneIs 0 0x40E00000⟩,
    ⟨vecs [2] [3] [4], .vfms, vec3, any, laneIs 0 0xFFFFFFFE⟩,
    ⟨vecs [0x40000000] [0x40400000] [0x3F800000], .vfms, vec3 .f32, any, laneIs 0 0xC0A00000⟩,
    ⟨vecs [2, 5] [3, 6] [9, 9], .vadd, vec3 .i32 me1, any, fun s => laneIs 0 5 s && laneIs 1 9 s⟩,
    ⟨vecs [2, 5] [3, 6] [9, 9], .vadd, vec3 .i32 (me1 + 8), any, fun s => laneIs 0 5 s && laneIs 1 0 s⟩,
    lane0 .vmin .f32 0 0x80000000 0x80000000, lane0 .vmin .i32 0xFFFFFFFF 1 0xFFFFFFFF, lane0 .vmin .ui32 0xFFFFFFFF 1 1,
    lane0 .vmax .f32 0x7FC00001 0 0x7FC00000, lane0 .vmax .i32 0xFFFFFFFF 1 1, lane0 .vabs .i32 0x80000000 0 0x80000000,
    lane0 .vabs .f32 0xBF800000 0 0x3F800000, lane0 .vneg .i32 1 0 0xFFFFFFFF, lane0 .vneg .f32 0x3F800000 0 0xBF800000,
    lane0 .vclamp .i32 100 0xFFFFFFF6 10, lane0 .vclamp .ui32 100 10 10, lane0 .vclamp .f32 0xC0000000 0x3F800000 0xBF800000,
    lane0 .vand .i32 0xF3 0x1C 0x10, lane0 .vor .i32 0xF0 0x0F 0xFF, lane0 .vxor .i32 0xFF 0x0F 0xF0,
    lane0 .vshl .i32 1 31 0x80000000, lane0 .vshl .i32 1 32 0, lane0 .vshr .i32 0x80000000 31 1, lane0 .vshr .i32 1 0xFFFFFFFF 0,
    lane0 .vsar .i32 0x80000000 31 0xFFFFFFFF, lane0 .vsar .i32 0x80000000 32 0xFFFFFFFF,
    lane0 .vcnt .i32 0xF0 0 4, lane0 .vcnt .i32 0xF0 0 24 1, lane0 .vcnt .i32 0 0 32 2] := witnesses (by decide +kernel)

theorem wit_VectorFunctions : Witnesses [
    lane0 .vrcp .f32 0x40800000 0 0x3E800000 me1, lane0 .vrsq .f32 0x40800000 0 0x3F000000 me1,
    lane0 .vsqrt .f32 0x40000000 0 0x3FB504F3 me1, lane0 .vexp2 .f32 0x40400000 0 0x41000000 me1,
    lane0 .vlog2 .f32 0x41000000 0 0x40400000 me1, lane0 .vtanh .f32 0x41A00000 0 0x3F800000 me1,
    lane0 .vtanh .f32 0x80000001 0 0x80000001 me1, lane0 .vtanh .f32 0x7F800001 0 0x7FC00000 me1,
    lane0 .vcvt .i8 0x406CCCCD 0 4, lane0 .vcvt .f16 3 0 0x4200 64, lane0 .vcvt .bf16 0xFFFFFFFF 0 0x4F80 128,
    lane0 .vdot .i8 0x040302FF 0x01010101 8, lane0 .vdot .ui8 0x000000FF 2 510, lane0 .vdot .i4 0x0000000F 3 0xFFFFFFFD,
    lane0 .vdot .bf16 0x40003F80 0x40804040 0x41300000] := witnesses (by decide +kernel)

theorem wit_VectorFunctions_sign : (1 : Nat) ≠ 0 ∧ rsqrtNum (.fin true 1 0 false) = .nan := by decide +kernel

def maskOut (ty : Ty) (os sz : Nat) : Fields := { mk (opM 3) (opV 1) (opV 3) ty os with sz := BitVec.ofNat 3 sz }

theorem wit_VectorMoves : Witnesses [
    ⟨vecs [1, 2] [1, 3] [], .vcmp, maskOut .i32 0 2, any, reads (.m 3) 2⟩,
    ⟨vecs [0x7FC00000] [0] [], .vcmp, maskOut .f32 0 6, any, reads (.m 3) 1⟩,
    ⟨vecs [1, 2] [3, 4] [], .vsel, vec3 .i32 me1, any, fun s => laneIs 0 1 s && laneIs 1 4 s⟩,
    ⟨vecs [] [] [] 7, .viota, mk (opV 2) (opG 0) (opW 0) .i32, any, fun s => laneIs 0 7 s && laneIs 31 38 s⟩,
    ⟨vecs [0, 2] [] [], .vmsk, mk (opM 3) (opV 1) (opG 0) .i32, any, reads (.m 3) 2⟩,
    ⟨vecs [] [] [], .vmsk, mk (opV 2) (opM 1) (opG 0) .i32 1, any, fun s => laneIs 0 0xFFFFFFFF s && laneIs 1 0 s⟩,
    ⟨onCtx (vecs [] [] []) (·.setFile (.m 1) 12), .vmsk, mk (opM 3) (opM 1) (opG 0) .i32 2, any, reads (.m 3) 4⟩,
    ⟨vecs (List.range 32) [] [] 33, .vbcast, mk (opV 2) (opV 1) (opW 0) .i32, any, laneIs 31 1⟩,
    ⟨vecs [] [] [] 33, .vbcast, mk (opV 2) (opW 0) (opG 0) .i32, any, laneIs 31 33⟩,
    ⟨vecs [0, 0xFFFFFFFF] [] [] 1, .vext, mk (opW 2) (opV 1) (opW 0) .i32, any, reads (.w 2) (minus 1)⟩,
    ⟨vecs [0, 0xFFFFFFFF] [] [] 1, .vext, mk (opW 2) (opV 1) (opW 0) .ui32, any, reads (.w 2) 0xFFFFFFFF⟩,
    ⟨vecs [] [] [3] 9 32, .vins, mk (opV 2) (opW 0) (opW 1) .i32, any, fun s => laneIs 0 9 s && laneIs 1 0 s⟩,
    ⟨vecs [5, 6] [33, 0x80000001] [], .vshuf, vec3, any, fun s => laneIs 0 6 s && laneIs 1 0 s⟩,
    ⟨vecs [5, 6] [33, 65] [7, 8], .vperm, vec3, any, fun s => laneIs 0 8 s && laneIs 1 6 s⟩,
    ⟨vecs (List.range 32) [] [] 33, .vrot, mk (opV 2) (opV 1) (opW 0) .i32, any, fun s => laneIs 0 1 s && laneIs 31 0 s⟩,
    ⟨vecs [250, 0xFFFFFFFF] [] [] 4, .vtag, mk (opV 2) (opV 1) (opW 0) .i32, any, fun s => laneIs 0 254 s && laneIs 1 255 s⟩] :=
  witnesses (by decide +kernel)

/-- Descriptor 1 of the address space: FP8 E4M3 with no infinities in blocks of 32 (R91); 2 has no blocks, and 3 has its
scales beside each row, 32 bytes on. -/
def withFormats (s : State) : State :=
  let d1 := 2 ^ 63 + 2 * 2 ^ 20 + 2 ^ 19 + 2 * 2 ^ 16 + 7 * 2 ^ 8 + 3 * 2 ^ 5 + 4 * 2 + 1
  { s with mem := s.mem.setNat (2 ^ 52 + 0x9008) 24 (d1 + 2 ^ 64 * (d1 - 2 * 2 ^ 20) + 2 ^ 128 * (d1 + 2 ^ 29 + 32 * 2 ^ 30)),
           xltAs := s.xltAs.set 0 (BitVec.ofNat 256 ((2 ^ 52 + 0x9000) * 2 ^ 192)) }

def redW (ty : Ty) (os : Nat) : Fields := mk (opW 2) (opV 1) (opG 0) ty os
/-- No lane active: ME with `m2`. -/
def me2 : Nat := 128 + 32

def lowByte (n : Nat) : State → Bool := fun s => ((mine s).read (.v 2)).extractLsb' 0 8 == BitVec.ofNat 8 n

theorem wit_VectorFolds : Witnesses [
    ⟨vecs [5] [] [], .vred, redW .i32 (me2 + 1), fun e t => (List.range 32).all (fun k => !activeLane e t k), reads (.w 2) (minus 0x80000000)⟩,
    ⟨vecs [5, 0xFFFFFFF9] [] [], .vred, redW .i32 0, any, reads (.w 2) (minus 2)⟩,
    ⟨vecs [5, 0xFFFFFFF9] [] [], .vred, redW .ui32 0, any, reads (.w 2) 0xFFFFFFFE⟩,
    ⟨vecs [5, 0xFFFFFFF9] [] [], .vred, redW .i32 1, any, reads (.w 2) 5⟩,
    ⟨vecs [5, 0xFFFFFFF9] [] [], .vred, redW .i32 2, any, reads (.w 2) (minus 7)⟩,
    ⟨vecs [0x3F800000, 0x40000000] [] [], .vred, redW .f32 0, any, reads (.w 2) 0x40400000⟩,
    ⟨vecs [0x3F800000, 0x40000000] [] [], .vred, redW .f32 4, any, reads (.w 2) 0x40400000⟩,
    ⟨vecs [0x3F800000, 0x7FC00001] [] [], .vred, redW .f32 2, any, reads (.w 2) 0x7FC00000⟩,
    ⟨vecs [] [] [], .vred, redW .f32 me2, any, reads (.w 2) 0⟩,
    ⟨vecs [0x3F800000, 0x40000000] [] [], .vscan, vec3 .f32 0, any, fun s => laneIs 0 0x3F800000 s && laneIs 1 0x40400000 s⟩,
    ⟨vecs [1, 2, 3] [] [], .vscan, vec3 .i32 0, any, fun s => laneIs 1 3 s && laneIs 31 6 s⟩,
    ⟨vecs [1, 2, 3] [] [], .vscan, vec3 .i32 4, any, fun s => laneIs 0 0 s && laneIs 2 3 s⟩,
    ⟨vecs [1, 9, 9] [] [], .vargm, redW .i32 0, any, reads (.w 2) 1⟩, ⟨vecs [0, 9] [] [], .vargm, redW .ui32 1, any, reads (.w 2) 0⟩,
    ⟨vecs [0x7FC00000] [] [], .vargm, redW .f32 me1, any, reads (.w 2) (minus 1)⟩,
    ⟨vecs [0xFFFFFF00, 300] [] [9, 9] 0, .vpack, mk (opV 2) (opV 1) (opW 0) .i8, any, fun s => laneIs 0 0x7F80 s && laneIs 8 0 s⟩,
    ⟨vecs [] [] [9] 3, .vpack, mk (opV 2) (opV 1) (opW 0) .i8, any, laneIs 0 9⟩,
    ⟨vecs [0x807F] [] [] 0, .vunpk, mk (opV 2) (opV 1) (opW 0) .i8, any, fun s => laneIs 0 127 s && laneIs 1 0xFFFFFF80 s⟩,
    ⟨vecs [0x3F80] [] [] 0, .vunpk, mk (opV 2) (opV 1) (opW 0) .bf16, any, laneIs 0 0x3F800000⟩,
    ⟨withFormats (vecs [0x3F800000] [] []), .vqnt, mk (opV 2) (opV 1) (opG 0) .nf 1,
      fun e _ => match e.fmt with
        | some f => f.desc.block == 32 && f.desc.width == 8
        | none => false, fun s => ((mine s).read (.v 2)).extractLsb' 992 8 != 0⟩,
    ⟨withFormats (vecs [0x3F800000, 0x41200000] [] [] 0x7FFC0 0x40000000), .vcvto, mk (opV 2) (opV 1) (opW 0) .nf 2,
      fun _ t => t.spadNow t.cur true (t.nearKeys 0x7FFC0 2) && t.mem.wf, fun s => laneIs 0 0x38 s && laneIs 1 0 s && spadIs 0x7FFC0 4 0x4120 s
        && reads (.w 0) 0x7FFC2 s && reads (.m 4) 2 s⟩,
    ⟨behindCas (withFormats (vecs [0x3F800000, 0x41200000] [] [] 0x7FFC0 0x40000000)) 0x400, .vcvto,
      mk (opV 2) (opV 1) (opW 0) .nf 2, fun _ t => !t.spadNow t.cur true (t.nearKeys 0x7FFC0 2) && t.mem.wf, fun s => laneIs 0 0x38 s
        && spadIs 0x7FFC0 4 0 s && reads (.w 0) 0x7FFC2 s && s.flights.length == 2⟩,
    ⟨withFormats (vecs [] [] [] 0x7FFC2 0), .vcvto, mk (opV 2) (opV 1) (opW 0) .nf 2, any, trapIs 5 0x7FFC2⟩,
    ⟨withFormats (vecs [] [] [] 1 0), .vcvto, mk (opV 2) (opV 1) (opW 0) .nf 2, any, trapIs 4 1⟩] := witnesses (by decide +kernel)

/-! ## The matrix engine and the planes -/

/-- Blocks 0 to 3 allocated as one tile of context 0. -/
def withTile (s : State) : State :=
  { s with matrix := { s.matrix with
      blocks := [0, 1, 2, 3].foldl (fun v k => setAt v k ⟨some (0, 0, 4), false, 0, false⟩) s.matrix.blocks } }

def withRegs (l : List (RegName × Nat)) (s : State) : State :=
  onCtx s (fun x => l.foldl (fun x r => x.setFile r.1 (BitVec.ofNat 1024 r.2)) x)

/-- An operation in the engine queue. -/
def engineOp (id : Nat) (kind : EngineKind) (targets : List Nat) (cost : Nat) (running : Bool) : EngineOp :=
  ⟨id, .ctx 0 0x100 none, kind, .i8, none, none, targets, cost, running, [], false⟩

def queueing (qs : List EngineOp) (s : State) : State := { s with matrix := { s.matrix with queue := qs } }
def fullEngine (s : State) : State := queueing (List.replicate 16 (engineOp 1 (.plane 0) [] 0 false)) s

/-- Pairs in `w0`, `w1` and `w2`, `w3`: the second ends at the scratchpad's last byte. -/
def tiles : State :=
  withTile (withRegs [(.w 0, 0x1000), (.w 1, 512), (.w 2, 0x7C000), (.w 3, 512 + 9 * 2 ^ 32), (.w 4, 31)] (withLot (two 0 0)))

def mmasW (ty : Ty) : Fields := mk (opS 0) (opW 0) (opW 2) ty
def mmarW (os : Nat) (fb : Opd) : Fields := mk (opS 0) opLit fb .i8 os 63 .l

def tileOk (steps n : Nat) : Entry → State → Bool := fun e t =>
  decide (Tile e t e.w.fd 0) && decide (PairOk t e.w.ty none (e.scalar t t.cur e.w.fb) (e.second t t.cur e.w.fb) steps n)

def oneOp : State → Bool := fun s => s.matrix.queue.length == 1 && (mine s).openOps == 1

def batchesOf (l : List (BitVec 3)) (s : State) : State := onCtx s (fun x => { x with batches := l, batchNext := 7 })

/-- Rows 40 bytes apart, none skewed. -/
def pitch40 : Nat := 40 + 9 * 2 ^ 32

/-- MTQ's tiles: rows of 32 elements of 8 bits, each row's scale after it. -/
def mtqState : State := withFormats (withRegs [(.w 0, 0x1000), (.w 1, pitch40), (.w 2, 0x2000), (.w 3, pitch40)] (withLot (two 0 0)))

/-- A command record and a token in registers: tiles 0x1000 and 0x2000 of this rank. -/
def cmdState (dev reserved : Nat) : State :=
  let d := 0x1000 + 512 * 2 ^ 64 + 0x2000 * 2 ^ 128 + 512 * 2 ^ 192 + dev * 2 ^ 272 + reserved * 2 ^ 300
  holdsAt [(0x200, 64, d)] (party 0x3FFF 0)

def cmdOk (reserved : Bool) : Entry → State → Bool := fun e t =>
  decide (ReadableSpad t (e.opA t t.cur).toNat 64) && decide (t.msgs.length < 16) && !t.readWaits t.cur (e.opA t t.cur).toNat 64
    && recReserved (BitVec.ofNat 512 (spadNat t (e.opA t t.cur).toNat 64)) == reserved

theorem wit_MatrixInstructions : Witnesses [
    ⟨tiles, .mmas, mmasW .i8, tileOk 1 512, oneOp⟩, ⟨fullEngine tiles, .mmas, mmasW .i8, tileOk 1 512, pcIs 0x1000⟩,
    ⟨tiles, .mmav, mk (opW 4) (opV 28) (opW 2) .i8, fun e t => (e.opD t t.cur).toNat == 31
      && decide (PairOk t .i8 none (e.scalar t t.cur e.w.fb) (e.second t t.cur e.w.fb) 1 512), oneOp⟩,
    ⟨tiles, .mmar, mmarW 128 opLit, any, oneOp⟩, ⟨tiles, .mmar, mmarW 0 (opW 2), tileOk 1 512, oneOp⟩,
    ⟨mtqState, .mtq, mk (opW 2) (opW 0) (opG 0) .nf 3, fun e t =>
      decide (PairOk t .nf e.fmt (e.scalar t t.cur e.w.fa) (e.second t t.cur e.w.fa) 1 32)
        && decide (PairOk t .nf e.fmt (e.scalar t t.cur e.w.fd) (e.second t t.cur e.w.fd) 1 32)
        && !rangesMeet (mtqRanges e.fmt 0x1000 (BitVec.ofNat 64 pitch40)) (mtqRanges e.fmt 0x2000 (BitVec.ofNat 64 pitch40)), oneOp⟩,
    ⟨batchesOf [] (queueing [engineOp 0 (.plane 0) [] 0 false] tiles), .mcommit, mk (opW 5), any,
      fun s => reads (.w 5) 7 s && (mine s).batches == [7]⟩,
    ⟨batchesOf [0, 1, 2, 3, 4, 5, 6, 7] tiles, .mcommit, mk (opW 5), any, pcIs 0x1000⟩,
    ⟨tiles, .mwait, mk (os := 1), any, pcIs 0x1008⟩, ⟨batchesOf [5] tiles, .mwait, mk (os := 1), any, pcIs 0x1000⟩,
    ⟨two 0 8, .mwait, on01, any, trapIs 5 8⟩, ⟨batchesOf [7] (two 0 7), .mwait, on01, any, pcIs 0x1000⟩,
    ⟨batchesOf [6] (two 0 7), .mwait, on01, any, pcIs 0x1008⟩, ⟨batchesOf [6] (two 0 7), .mpoll, toP1, any, reads (.p 1) 1⟩,
    ⟨batchesOf [7] (two 0 7), .mpoll, mk (opM 1) (opG 0) (opW 1), any, reads (.m 1) 0⟩,
    ⟨queueing [engineOp 0 (.plane 0) [] 128 true] tiles, .mstat, mk (opW 5), any, reads (.w 5) (1 + 2 ^ 16 + 128 * 2 ^ 32)⟩,
    ⟨withTile (two 3 0), .mstat, mk (opW 5) (opW 0) (opG 0) .i64 1, any, fun s => ((mine s).read (.w 5)).getLsbD 0⟩,
    ⟨batchesOf [5] tiles, .mstat, mk (opW 5) (opG 0) (opG 0) .i64 2, any, fun s => ((mine s).read (.w 5)).getLsbD 13⟩,
    ⟨two (60 * 2 ^ 14 + 63) 0, .mcap, on01, any, fun s => (mine s).read (.w 2) &&& 0x3FFFFF == 60 * 2 ^ 14 + 63⟩,
    ⟨two (61 * 2 ^ 14) 0, .mcap, on01, any, trapIs 5 (61 * 2 ^ 14)⟩,
    ⟨cmdState 0x3FFF 0, .mcmd, mk (opW 2) (opW 0) (opW 4) .i8, cmdOk false, oneMsg⟩,
    ⟨behindCas (cmdState 0x3FFF 0) 0x238, .mcmd, mk (opW 2) (opW 0) (opW 4) .i8,
      fun e t => t.readWaits t.cur (e.opA t t.cur).toNat 64, pcIs 0x1008⟩,
    ⟨cmdState 0x3FFF 1, .mcmd, mk (opW 2) (opW 0) (opW 4) .i8, cmdOk true, trapIs 5 0x200⟩,
    ⟨withRegs [(.w 0, 0x220)] (cmdState 0 0), .mcmd, mk (opW 2) (opW 0) (opW 4) .i8, any, trapIs 4 0x220⟩] :=
  witnesses (by decide +kernel)

/-- A block in flight. -/
def inEngine (s : State) : State := queueing [engineOp 0 (.plane 0) [0] 0 false] s

def noneBusy : Entry → State → Bool := fun _ t => t.flights == [] && t.matrix.queue == []
def blk0 (os : Nat := 0) : Fields := mk (opW 2) (opS 0) (opG 0) .i64 os
def allTaken (s : State) : State :=
  { s with matrix := { s.matrix with blocks := Vector.replicate 64 ⟨some (0, 0, 1), false, 0, false⟩ } }
def poisonBlock (s : State) : State := { s with matrix := s.matrix.poison [0] }

/-- Lane 0 of `v2` is 1.5, and blocks 0 to 3 are allocated. -/
def blockVec (w0 w1 : Nat) : State := withTile (vecs [] [] [0x3FC00000] w0 w1)
def abrw (ty : Ty := .f32) : Fields := mk (opV 2) (opS 0) (opW 1) ty

/-- A remote command on tiles 0x1000 and 0x2000 into block 0. -/
def remote (member : Bool) (token : Word) : RemoteCmd :=
  { dev := 0x3FFF, lrn := 1, member := member, token := token,
    record := BitVec.ofNat 512 (0x1000 + 512 * 2 ^ 64 + 0x2000 * 2 ^ 128 + 512 * 2 ^ 192),
    ty := .i8, fmts := (0, 0, 0, 0), own := false, tag := 9 }

/-- A remote command has arrived and waits to enter the engine queue. -/
def cmdWaits (s : State) : State :=
  { s with party := { s.party with bound := true }, cmds := [remote true 0] }

theorem wit_BlockInstructions : Witnesses [
    ⟨tiles, .aballoc, mk (opW 5) (os := 2), fun _ t => t.matrix.acc.wf, fun s => reads (.w 5) 4 s
      && (s.matrix.block 7).alloc == some (0, 4, 4)⟩,
    ⟨allTaken tiles, .aballoc, mk (opW 5) (os := 0), any, trapIs 0x12 1⟩,
    ⟨tiles, .abfree, blk0 2, noneBusy, fun s => (s.matrix.block 3).alloc.isNone⟩,
    ⟨tiles, .abfree, blk0 1, noneBusy, trapIs 5 0⟩,
    ⟨tiles, .abzero, blk0 2, noneBusy, pcIs 0x1008⟩, ⟨inEngine tiles, .abzero, blk0 2, any, trapIs 0x10 0⟩,
    ⟨blockVec 0 7, .abwrite, abrw, noneBusy, fun s => element s 0 (32 * 7) == (0x3FC00000, 0)⟩,
    ⟨inEngine (blockVec 0 7), .abwrite, abrw, any, trapIs 0x10 0⟩, ⟨blockVec 0 8, .abread, abrw, any, trapIs 5 8⟩,
    ⟨poisonBlock (blockVec 0 7), .abread, abrw, noneBusy, fun s => (mine s).trapCause == 9⟩,
    ⟨ran (.abwrite abrw) (blockVec 0 7), .abread, abrw, noneBusy, laneIs 0 0x3FC00000⟩,
    ⟨ran (.abwrite abrw) (blockVec 0 7), .abread, abrw .i32, noneBusy, laneIs 0 2⟩,
    ⟨inEngine (blockVec 0 7), .abread, abrw, any, fun s => s.flights.length == 1⟩,
    ⟨cmdWaits (poisonBlock (blockVec 0 7)), .abread, abrw, fun _ t => t.matrix.queue == [] && t.party.bound,
      fun s => laneIs 0 0 s && (mine s).faults.length == 1⟩,
    ⟨ran (.abread abrw) (inEngine (blockVec 0 7)), .abzero, blk0 2, fun _ t => t.readPending 0, pcIs 0x1008⟩,
    ⟨ran (.abread (mk (opV 4) (opS 0) (opW 1) .f32)) (inEngine (blockVec 0 7)), .abwrite, abrw, fun _ t => t.readPending 0,
      pcIs 0x1008⟩] := witnesses (by decide +kernel)

def fullPlanes (s : State) : State :=
  { s with matrix := { s.matrix with planeQueue := List.replicate 8 ⟨0, .orphan, 0, .swap, true, [], false⟩ } }

/-- A pass of one token at 0x1000 with its scale at 0x2000, its tag 5, into block 0; `tol` tolerates a miss. -/
def passState (resident : Bool) (tol : Nat) : State :=
  let s := withTile (vecs [] [5] [] (0x1000 + 0x2000 * 2 ^ 32) (512 * 2 ^ 16 + 2 ^ 52))
  let s := { s with matrix := if resident then s.matrix.setResident 0 2 (2 ^ 24 + 5) else s.matrix }
  onCtx s (fun x => { x with planeCfg := BitVec.ofNat 64 tol })

/-- Plane 0's alternative is being loaded. -/
def loading (s : State) : State := { s with matrix := { s.matrix with planeQueue := [⟨0, .orphan, 0, .load 0 false 0, true, [], false⟩] } }

def passW : Fields := mk (opM 3) (opW 0) (opV 3)
def passOk : Entry → State → Bool := fun e t =>
  (t.passFault (e.scalar t t.cur e.w.fa) (e.second t t.cur e.w.fa) false 1 4 4).isNone

/-- The gradient of token 0 into blocks 0 to 31, all allocated. -/
def gradState (resident : Bool) : State :=
  let s := allTaken (vecs [] [5] [] (0x1000 + 0x8000 * 2 ^ 32) (512 * 2 ^ 16 + 448 * 2 ^ 32 + 2 ^ 52))
  { s with matrix := if resident then s.matrix.setResident 0 2 (2 ^ 24 + 5) else s.matrix }

def gradOk : Entry → State → Bool := fun e t =>
  (t.passFault (e.scalar t t.cur e.w.fa) (e.second t t.cur e.w.fa) false 32 512 512).isNone

def onePlane : State → Bool := fun s => s.matrix.planeQueue.length == 1
def resW (os : Nat := 0) : Fields := mk (opG 0) (opW 0) (opW 1) .i64 os

theorem wit_PlaneInstructions : Witnesses [
    ⟨two 0x77E00 3, .wload, resW, any, onePlane⟩, ⟨two 63 3, .wload, resW 1, any, onePlane⟩,
    ⟨two 4 3, .wload, resW, any, trapIs 4 4⟩, ⟨fullPlanes (two 0 0), .wload, resW, any, pcIs 0x1000⟩,
    ⟨two 0 0, .wswap, mk, any, fun s => onePlane s && s.matrix.activeView⟩,
    ⟨passState true 0, .wpass, passW, passOk, fun s => onePlane s && reads (.m 3) 0 s⟩,
    ⟨passState false 4, .wpass, passW, passOk, fun s => onePlane s && reads (.m 3) 1 s⟩,
    ⟨passState false 0, .wpass, passW, passOk, trapIs 0x13 5⟩,
    ⟨loading (passState true 0), .wpass, { passW with os := 4 }, fun e t => passOk e t && t.matrix.loading 0, trapIs 0x14 0⟩,
    ⟨gradState true, .wgacc, { passW with os := 2 }, gradOk, fun s => onePlane s && reads (.m 3) 1 s⟩,
    ⟨gradState false, .wgacc, { passW with os := 2 }, gradOk, fun s => reads (.m 3) 0 s⟩,
    ⟨two 0 0, .wchk, mk (opW 2), any, fun s => onePlane s && (mine s).isPending (.w 2)⟩,
    ⟨two 3 (2 ^ 24 + 254), .wres, resW 1, any, fun s => s.matrix.resident 1 3 == 2 ^ 24 + 254⟩,
    ⟨two 3 (2 ^ 24 + 255), .wres, resW, any, trapIs 5 (2 ^ 24 + 255)⟩,
    ⟨two 0x107 0, .wcfg, resW, any, fun s => (mine s).planeCfg == 7⟩, ⟨two 8 0, .wcfg, resW, any, trapIs 5 8⟩,
    ⟨passState true 0 |> withRegs [(.w 0, 2)], .wstat, mk (opW 2) (opW 0) (opG 0) .i64 1, any, reads (.w 2) (2 ^ 24 + 5)⟩,
    ⟨two 4 0, .wstat, mk (opW 2) (opW 0) (opG 0) .i64 1, any, trapIs 5 4⟩,
    ⟨two 0 0, .wstat, mk (opW 2), any, fun s => ((mine s).read (.w 2)).getLsbD 0⟩] := witnesses (by decide +kernel)

/-- A multiply of two stages of slots, running. -/
def multiplying : State :=
  queueing [engineOp 4 (.mma 0 (.slots 0) (.slots 32) 2 false) [0, 1, 2, 3] 256 true] (withTile (two 0 0))

theorem wit_EngineEvents_multiply : multiplying.house.powered = true ∧ multiplying.unseen = []
    ∧ multiplying.matrix.acc.wf = true
    ∧ ∀ r ty fmt k i, (multiplying.readRow r (.slots 0) ty fmt k i).1.2 = none
      ∧ (multiplying.readRow r (.slots 32) ty fmt k i).1.2 = none := by
  refine ⟨by decide +kernel, by decide +kernel, by decide +kernel, fun r ty fmt k i => ⟨?_, ?_⟩⟩ <;>
    simp only [State.readRow] <;> refine firstPoison_plain _ (by decide +kernel) (keysFrom_plain ?_) <;>
    simp only [slotKey] <;> omega

/-- One row of a block, of a register's row by a tile of slots, running; and MTQ's tiles. -/
def rowMultiply : State := queueing [engineOp 4 (.mmav 2 7 (.row 0x105) (.slots 0)) [2] 16 true] (withTile (two 0 0))

def requantizing : State :=
  queueing [{ engineOp 4 (.mtq (0x1000, BitVec.ofNat 64 pitch40) (0x2000, BitVec.ofNat 64 pitch40)) [] 64 true with
    ty := .nf, fa := (withFormats (withLot (two 0 0))).fmtRef 0 3 }] (withFormats (withLot (two 0 0)))

/-- An operation in the plane queue. -/
def planeOp (kind : PlaneKind) (started : Bool) : PlaneOp := ⟨4, .ctx 0 0x100 none, 1, kind, started, [], false⟩

def planing (q : PlaneOp) : State :=
  let s := withLot (two 0 0)
  { s with matrix := { s.matrix with planeQueue := [q] } }

/-- The near bytes of a load and of a pass. -/
theorem wit_EngineEvents_planes : (planing (planeOp (.load 3 false 0x77E00) true)).unseen = []
    ∧ (planing (planeOp (.load 3 false 0x77E00) true)).poisonedAt
        ((planing (planeOp (.load 3 false 0x77E00) true)).nearKeys 0x77E00 33280) = false
    ∧ (let s := planing (planeOp (.pass 0x1000 0x2000 512 0 2 [some 3, none] true false) true)
      s.matrix.acc.wf = true ∧ s.poisonedAt (s.nearKeys 0x1000 512) = false ∧ s.poisonedAt (s.nearKeys 0x2000 4) = false) := by
  refine ⟨by decide +kernel, ?_, by decide +kernel, ?_, ?_⟩ <;>
    exact poisonedAt_plain rfl (keysFrom_plain (by decide +kernel))

/-- The rank with a tile, bound or not. -/
def target (bound : Bool) : State :=
  let s := withTile (two (2 ^ 20 + 15) 0)
  { s with party := { s.party with bound := bound } }

/-- A token sealed by MCAP over blocks 0 to 3 and the first 128 KiB. -/
def token : Word := ((mine (ran (.mcap on01) (target true))).read (.w 2)).setWidth 64

/-- A row multiply and a gradient, each about to complete. -/
theorem wit_EngineEvents_rows : (rowMultiply.matrix.queue.all (·.running) && rowMultiply.unseen == []
      && rowMultiply.matrix.acc.wf && rowMultiply.house.powered) = true
    ∧ (let s := planing (planeOp (.grad 2 0x1000 0x8000 512 0 448 [0, 3]) true)
      s.matrix.planeQueue.all (·.started) && s.matrix.acc.wf && s.unseen == [] && s.house.powered
        && !s.poisonedAt (s.nearKeys 0x1000 2048) && !s.poisonedAt (s.nearKeys 0x8000 2048)) = true := by decide +kernel

theorem wit_EngineEvents_transpose : Moves [
    ⟨requantizing, .engineOpComplete, fun s => s.matrix.queue.all (fun q => q.running && (match q.fa with
        | some f => f.desc.block == 32 && decide (f.desc.width ≤ 16)
        | none => false)) && s.unseen == [] && s.mem.wf && s.poison == [], fun s => s.matrix.queue == []⟩] :=
  moves (by decide +kernel)

theorem wit_EngineEvents : Moves [
    ⟨queueing [engineOp 4 (.mma 0 (.slots 0) (.slots 16) 1 false) [0, 1, 2, 3] 128 false] (two 0 0), .engineOpStart,
      fun s => s.rows.queue == [] && s.rows.running == [], fun s => s.matrix.queue.all (·.running)⟩,
    ⟨planing (planeOp (.load 0 false 0) false), .planeOpStart 0, fun s => s.matrix.queue == [],
      fun s => s.matrix.planeQueue.all (·.started)⟩,
    ⟨planing (planeOp .swap false), .planeOpStart 0, fun s => s.matrix.queue == [],
      fun s => s.matrix.planeQueue.isEmpty && s.matrix.activePlane⟩,
    ⟨planing (planeOp (.check (.w 2) false) true), .planeOpComplete 0 [⟨3, 0, 127, 0⟩], fun s => s.flights == [],
      reads (.w 2) (2 ^ 63 + 2 ^ 12 + 8 * 2 ^ 8 + 127)⟩,
    ⟨planing (planeOp (.check (.w 2) false) true), .planeOpComplete 0 [], fun s => s.flights == [], reads (.w 2) (2 ^ 12)⟩,
    ⟨target true, .mcmdArrive (remote false 0), fun _ => true, fun s => s.replies.length == 1⟩,
    ⟨target false, .mcmdArrive (remote true 0), fun s => !s.party.bound, fun s => s.cmds.length == 1⟩,
    ⟨target true, .mcmdArrive (remote true 0), fun s => s.party.bound, fun s => s.replies == [⟨9, .denied, []⟩]⟩,
    ⟨target true, .mcmdArrive (remote true token), fun s => s.granted (remote true token) none none
      && decide (PairOk s .i8 none (recWord (remote true token).record 0) (recWord (remote true token).record 1) 1 512)
      && decide (PairOk s .i8 none (recWord (remote true token).record 2) (recWord (remote true token).record 3) 1 512)
      && [0, 1, 2, 3].all (fun k => (s.matrix.block k).alloc.isSome) && s.cmds == [], fun s => s.matrix.queue.length == 1⟩,
    ⟨{ target true with cmds := [remote true token] }, .mcmdArrive (remote true token), fun s => s.granted (remote true token) none none,
      fun s => s.matrix.queue.length == 1 && s.cmds == []⟩,
    ⟨{ target true with cmds := [remote true 0] }, .mcmdArrive (remote true token), fun s => s.granted (remote true token) none none,
      fun s => s.matrix.queue == [] && s.cmds == [remote true 0, remote true token]⟩,
    ⟨fullEngine (target true), .mcmdArrive (remote true token), fun s => s.granted (remote true token) none none && s.cmds == [],
      fun s => s.cmds == [remote true token]⟩,
    ⟨{ target false with cmds := [remote true 0] }, .mcmdTimeout 0, fun s => !s.party.bound,
      fun s => s.cmds.isEmpty && s.replies.length == 1⟩,
    ⟨ran (.mcmd (mk (opW 2) (opW 0) (opW 4) .i8)) (cmdState 1 0), .mcmdStatusLand 0 (.landed 3 1 0),
      fun s => s.msgs.any (fun m => m.kind == .mcmd && !s.isSelf m.dev m.lrn), fun s => s.msgs.isEmpty⟩] := moves (by decide +kernel)

theorem wit_EngineEvents_dot : ∀ a ∈ [200, 0], a < 256 := by decide

/-! ## Launches, system registers, translations and power -/

/-- A packet of VF 0 and address space 0 (R415): one rank, a group of one, one part, outing 7, entry 0x1000, and
its completion record at 0x100. -/
def packet (more : Nat := 0) : Nat :=
  2 ^ 41 + 2 ^ 122 + 2 ^ 136 + 7 * 2 ^ 160 + 0x1000 * 2 ^ 256 + 0x100 * 2 ^ 448 + more

def launching (p a : Nat) : State := holdsAt [(0x200, 64, p)] (withLot (two a 0))

def launchOk (reason : Nat) : Entry → State → Bool := fun e t =>
  decide (ReadableSpad t (e.opA t t.cur).toNat 64) && !t.loadWaits t.cur
    && launchReason (BitVec.ofNat 512 (spadNat t (e.opA t t.cur).toNat 64)) == reason

def allTickets (s : State) : State :=
  { s with sched := { s.sched with tickets := Vector.replicate 32 (some ⟨0, 0⟩) } }

/-- Ticket 31 held by a context for an outing. -/
def ticketed (c : Fin 11) (recorded : Bool) (a : Nat) : State :=
  let s := two a 0
  let o : Outing := { Outing.ofPacket (BitVec.ofNat 512 (packet)) 0 .done 1 2 with recorded := recorded }
  { s with sched := { s.sched with tickets := setAt s.sched.tickets 31 (some ⟨c, 0⟩), outings := [o] } }


def toW2 (os : Nat := 0) : Fields := mk (opW 2) (opW 0) (opG 0) .i64 os

theorem wit_LaunchInstructions : Witnesses [
    ⟨launching (packet) 0x201, .launch, toW2, any, trapIs 4 0x201⟩, ⟨launching (packet) 0x80000, .launch, toW2, any, trapIs 5 0x80000⟩,
    ⟨launching (packet 1) 0x200, .launch, toW2, launchOk 5, trapIs 0x1A (5 * 2 ^ 60 + 0x200)⟩,
    ⟨launching (packet (2 ^ 16)) 0x200, .launch, toW2, launchOk 0, trapIs 0x1A (6 * 2 ^ 60 + 0x200)⟩,
    ⟨launching (packet) 0x200, .launch, toW2, launchOk 0, fun s => reads (.w 2) 0 s && s.sched.outings.length == 1⟩,
    ⟨allTickets (launching (packet) 0x200), .launch, toW2, any, pcIs 0x1000⟩,
    ⟨behindCas (launching (packet) 0x200) 0x400, .launch, toW2, fun _ t => t.loadWaits t.cur, pcIs 0x1008⟩,
    ⟨ticketed 0 false 31, .owait, toW2, any, pcIs 0x1000⟩, ⟨ticketed 0 true 31, .owait, toW2, any, reads (.w 2) (1 + 2 ^ 40 + 2 * 2 ^ 48)⟩,
    ⟨ticketed 0 true 31, .opoll, mk (opP 1) (opW 0), any, reads (.p 1) 1⟩,
    ⟨ticketed 0 false 31, .opoll, mk (opM 1) (opW 0), any, reads (.m 1) 0⟩,
    ⟨ticketed 0 true 32, .owait, toW2, any, trapIs 5 32⟩, ⟨ticketed 1 true 31, .opoll, mk (opP 1) (opW 0), any, trapIs 5 31⟩] :=
  witnesses (by decide +kernel)

/-- Address space 0 assigned to VF 0, the module trained, and no signature asked for. -/
def manned (s : State) : State :=
  { s with xltAs := s.xltAs.set 0 (s.asRec 0 ||| 1), house := { s.house with bootStat := 0x80, secPolicy := 0 } }

def pk (more : Nat := 0) : BitVec 512 := BitVec.ofNat 512 (packet more)

/-- An image without a signature, of no segments (R78). -/
def plain : LoiImage := ⟨bytesOfNat 64 (0x00494F4C + 2 ^ 32)⟩

/-- The module asks for signatures. -/
def strict (s : State) : State := { s with house := { s.house with secPolicy := 1 } }

/-- An outing of the packet is queued and a record of its one rank is ready on site 0. -/
noncomputable def toBind : State :=
  ran (.slotRecordWrite 0 0 ⟨1, 0⟩) (ran (.launchPacket ⟨pk, plain⟩) (manned State.reset))

/-- The party's bind, with one near section, whose second word holds the address of byte 8 of the scratchpad. -/
def bind0 : BindInfo := ⟨0, 0, pk, 0, 1, [(0, 0)], 5, [⟨0x100, [1, 2, 3, 4, 0, 0, 0, 0], [(4, 8)]⟩]⟩

/-- The party runs, with another outing of its class queued. -/
noncomputable def bound0 : State := ran (.launchPacket ⟨(pk (2 ^ 160)), plain⟩) (ran (.dispatchStart bind0) toBind)

/-- An outing whose record is still to be written at 0x100. -/
def recording : State :=
  let s := paged false 0 0 0
  { s with sched := { s.sched with
      outings := [Outing.ofPacket pk 0 .done 0 0] } }

/-- A layer whose debt has come to 8 and is not yet repaid. -/
def indebted0 : State :=
  let s := manned State.reset
  { s with rows := { s.rows with layers := s.rows.layers.set 2 { RowLayer.blank with debt := 3, deep := true } } }

/-- The rank's party with a second rank. -/
def inPair (s : State) : State := { s with party := { s.party with size := 2 } }

theorem wit_SchedulingEvents : Moves [
    ⟨manned State.reset, .launchPacket ⟨(pk 1), plain⟩, fun _ => launchReason (pk 1) == 5, fun s => s.sched.outings.length == 1⟩,
    ⟨State.reset, .launchPacket ⟨pk, plain⟩, fun s => launchReason (pk) == 0 && s.refusal (pk) == 1, fun s => s.sched.outings.length == 1⟩,
    ⟨manned State.reset, .launchPacket ⟨pk, plain⟩, fun s => launchReason (pk) == 0 && s.refusal (pk) == 0 && pkCount (pk) != 0
      && !(pk).getLsbD 29 && !(pk).getLsbD 30 && s.imageTaken plain && s.sched.outings == [],
      fun s => s.sched.outings.all (·.state == .ready)⟩,
    ⟨strict (manned State.reset), .launchPacket ⟨pk, plain⟩, fun s => launchReason (pk) == 0 && s.refusal (pk) == 0
      && !s.imageTaken plain, fun s => s.sched.outings.all (fun o => o.status == 4) && s.tick == 1⟩,
    ⟨recording, .outingComplete 0 7, fun s => (match s.nextRecord 0 7, s.translate 0 0x100 32 .outWrite false 0 with
      | some (o, i), (.ok ks _ _, s1) => o.state == .done && s.sched.outings[i]? == some o && s1.mem.wf
        && decide (plainKeys ks) && ks.length == 32 && s1.sched == s.sched
      | _, _ => false), fun s => s.sched.outings.all (·.recorded) && s.mem.get (hostDpa 0x114) == 7⟩,
    ⟨manned State.reset, .slotRecordWrite 1023 11 ⟨0xFF2, 0⟩, fun s => !s.isFused 1023, fun s => s.slotRecord 1023 11 == 0x2 && s.rankMap.contains (0, 0, some 1023)⟩,
    ⟨inPair bound0, .slotRecordWrite 0 0 ⟨0, 0⟩, fun s => s.party.bound && decide (1 < s.party.size) && !s.isFused 0
      && recState (s.slotRecord 0 0) == 2, fun s => !s.party.bound && recState (s.slotRecord 0 0) == 0⟩,
    ⟨{ inPair bound0 with gate := [asked true] }, .slotRecordWrite 0 0 ⟨0, 0⟩, fun s => s.party.bound && decide (1 < s.party.size)
      && recState (s.slotRecord 0 0) == 2 && s.gate.any (·.admitted),
      fun s => !s.party.bound && recState (s.slotRecord 0 0) == 2 && s.party.freeing.isSome⟩,
    ⟨indebted0, .slotRecordWrite 0 0 ⟨1, 0⟩, fun s => !s.isFused 0 && s.party.site == 0 && s.rows.layers.toList.any (·.deep),
      fun s => recState (s.slotRecord 0 0) == 0⟩,
    ⟨toBind, .dispatchStart bind0, fun s => !s.party.bound && s.house.bootStat.extractLsb' 4 4 == 8 && !s.isFused 0
      && s.siteIdle 0 0 && s.rankQuiet && soundBind bind0 (s.slotRecord 0 0) && (s.savedFor bind0 (s.slotRecord 0 0)).isNone
      && s.partyReady bind0 (s.slotRecord 0 0) && s.mayBind bind0 (s.slotRecord 0 0) && bind0.packet.extractLsb' 320 64 == 0,
      fun s => s.party.bound && (s.ctx 0).pc == 0x1000 && recState (s.slotRecord 0 0) == 2
        && spadIs 0x100 8 (0x04030201 + 0x8000008 * 2 ^ 32) s⟩,
    ⟨bound0, .preemptRequest, fun s => s.party.bound && !s.party.starting, fun s => s.party.preempting⟩,
    ⟨{ bound0 with now := 2200000 }, .quantumExpiry, fun s => decide (s.party.boundAt + s.sched.quantum.toNat * 1100 ≤ s.wall)
      && s.sched.outings.any (fun o => (o.state == .ready || o.state == .running) && decide (o.begun < pkCount o.packet)
        && decide (o.cls ≤ s.partyCls)), fun s => s.party.preempting⟩,
    ⟨{ bound0 with now := 2199999 }, .quantumExpiry, fun s => decide (s.wall < s.party.boundAt + s.sched.quantum.toNat * 1100),
      fun s => !s.party.preempting⟩,
    ⟨bound0, .partySaveComplete, fun s => !s.halted, fun s => s.party.bound⟩,
    ⟨ran .preemptRequest bound0, .partySaveComplete, fun s => s.halted, fun s => !s.party.bound && s.sched.saved.length == 1⟩,
    ⟨ran (.launchPacket ⟨(pk (2 ^ 31)), plain⟩) { manned State.reset with now := 0 } |> fun s => { s with now := 8800000 },
      .queueAging 0 7, fun s => s.sched.outings.any (fun o => o.cls == 1), fun s => s.sched.outings.all (fun o => o.cls == 0)⟩,
    ⟨State.reset, .schedQuantumWrite 5, fun _ => true, fun s => s.sched.quantum == 100⟩,
    ⟨State.reset, .fcastWrite 23 (-1), fun _ => true, fun s => s.sched.fcast.get 23 == 0x0000FFFF00FFFFFF⟩] := moves (by decide +kernel)

/-- CSRR and the rest on a register number and a value. -/
def csr (n v : Nat) : State := withLot (two n v)
def csrTest (op : Opcode) (n v old : Nat) (after : State → Bool) : Case :=
  ⟨csr n v, op, on01, any, fun s => reads (.w 2) old s && after s⟩

def csrFault (op : Opcode) (n : Nat) : Case := ⟨csr n 0, op, on01, any, fun s => (mine s).trapCause == 1⟩

/-- `w0` = 0x1000 pages and a translation of 4 KiB there. -/
def translated (a b : Nat) : State :=
  { two a b with l1 := [⟨0, 0x1000, 4096, 0, none⟩, ⟨0, 0x3000, 4096, 0, none⟩], l2 := [⟨1, 0x1000, 4096, 0, none⟩] }

def idling (i : Option Idle) (n : Nat) : State := onCtx (two n 0) (fun x => { x with idle := i })

theorem wit_ControlRegisters : Witnesses ([Opcode.csrw, .csrs, .csrc].flatMap (fun op => [
      csrTest op 0x010 0xF 0x8001 (fun _ => true), csrTest op 0x012 0xF 0 (fun _ => true), csrTest op 0x004 0x10 0 (fun _ => true),
      csrTest op 0x000 0 0 (fun s => !(mine s).deferMode), csrTest op 0x120 50 50000 (fun _ => true),
      csrTest op 0x102 1 0 (fun _ => true), csrTest op 0x020 7 0 (fun _ => true), csrFault op 0x003, csrFault op 0x23F, csrFault op 0x1000]) ++ [
    csrTest .csrw 0x010 0x9003 0x8001 (fun s => (mine s).trapVec == 0x9001),
    csrTest .csrs 0x120 0xF 50000 (fun s => s.party.timeout == 50015), csrTest .csrw 0x120 9 50000 (fun s => s.party.timeout == 10),
    ⟨csr 1 0, .csrr, toW2, fun _ t => (t.csr t.cur 1).isSome, reads (.w 2) 0⟩, ⟨csr 6 0, .csrr, toW2, any, reads (.w 2) 0⟩,
    ⟨csr 0x11 0, .csrr, toW2, any, reads (.w 2) 0⟩, ⟨csr 0x13 0, .csrr, toW2, any, reads (.w 2) 0⟩,
    ⟨csr 0x100 0, .csrr, toW2, any, reads (.w 2) 0⟩, ⟨{ csr 0x103 0 with now := 77 }, .csrr, toW2, any, reads (.w 2) 77⟩,
    ⟨csr 0x147 0, .csrr, toW2, any, reads (.w 2) 0⟩, ⟨withFormats (csr 0x201 0), .csrr, toW2, any, fun s => (mine s).read (.w 2) != 0⟩,
    csrFault .csrr 0x007, csrFault .csrr 0x00F, csrFault .csrr 0x017, csrFault .csrr 0x021, csrFault .csrr 0x134, csrFault .csrr 0x148,
    csrFault .csrr 0x240,
    ⟨two 8 0, .evrd, toW2, any, trapIs 5 8⟩, ⟨(csr 7 0).count { inexact := 3 }, .evrd, toW2 1, any, pcIs 0x1008⟩,
    ⟨csr 256 0, .evclr, mk (opG 0) (opW 0), any, trapIs 5 256⟩, ⟨csr 255 0, .evclr, mk (opG 0) (opW 0), any, pcIs 0x1008⟩,
    ⟨translated 0x1001 1, .tlbinv, fromW, any, trapIs 4 0x1001⟩, ⟨translated 0x1000 0, .tlbinv, fromW, any, trapIs 5 0⟩,
    ⟨translated 0x1000 1048576, .tlbinv, fromW, any, trapIs 5 1048576⟩,
    ⟨translated 0x1000 1, .tlbinv, fromW, fun _ t => !t.invBusy t.cur, fun s => s.l1.length == 1 && s.l2.length == 1⟩,
    ⟨translated 0 0, .tlbinv, { fromW with os := 1 }, any, fun s => s.l1.isEmpty && s.l2.length == 1⟩,
    ⟨ran (.tlbinv fromW) (translated 0x1000 1), .tlbinv, fromW, fun _ t => (t.ctx t.cur).tlbWait.any (fun l => t.usersGone l),
      pcIs 0x1008⟩,
    ⟨idling none (2 ^ 32), .idle, toW2, any, reads (.w 2) 0⟩, ⟨idling none 5, .idle, toW2, any, pcIs 0x1000⟩,
    ⟨idling (some ⟨0, false⟩) 5, .idle, toW2, any, reads (.w 2) 0⟩, ⟨idling (some ⟨9, true⟩) 5, .idle, toW2, any, reads (.w 2) 1⟩,
    ⟨idling (some ⟨9, false⟩) 5, .idle, toW2, any, pcIs 0x1000⟩]) := witnesses (by decide +kernel)

theorem wit_RegisterWrites : Moves [
    ⟨two 0 0, .fpctlWrite 0 .w 0x9E3779B90000000F, fun s => (s.ctx 0).live && !(s.ctx 0).inh,
      fun s => (s.ctx 0).fpctl == 0x9E3779B900000008 && (s.ctx 0).gens.toList.getD 0 0 == 1⟩,
    ⟨two 0 0, .ctxModeWrite 0 .s 1, fun s => s.drained 0, fun s => (s.ctx 0).deferMode⟩,
    ⟨two 0 0, .ovflWrite 0 .w (-1), fun _ => true, fun s => (s.ctx 0).ovfl == 0xFFF3FFFFFFFFFFFF⟩,
    ⟨deferred (.add on01) 1, .hamperPeakWrite 0 .w 0, fun _ => true, fun s => (s.ctx 0).peak == 1⟩,
    ⟨two 0 0, .planeCfgWrite 0 .w 7, fun _ => true, fun s => (s.ctx 0).planeCfg == 7⟩,
    ⟨two 0 0, .registerWrite (.ctxReg 0 0x010 .w) 0x9003, fun _ => true, fun s => (s.ctx 0).trapVec == 0x9001⟩,
    ⟨two 0 0, .thermWrite 95 (2 ^ 48 * 200 + 2 ^ 40 * 125 + 2 ^ 32 * 125), fun _ => true,
      fun s => (s.house.therm[(95 : Fin 96)]).extractLsb' 48 8 == 125⟩,
    ⟨two 0 0, .thermWrite 95 (2 ^ 48 * 100 + 2 ^ 40 * 101), fun _ => true,
      fun s => (s.house.therm[(95 : Fin 96)]).extractLsb' 48 8 == 115⟩,
    ⟨State.reset, .registerWrite (.seqWdog 3) 99, fun _ => true, fun s => (s.seq 3).wdog.extractLsb' 0 20 == 100⟩,
    ⟨State.reset, .registerWrite (.xltAs 255) (-1), fun s => !s.party.bound,
      fun s => (s.asRec 255).getLsbD 0 && !(s.asRec 255).getLsbD 1 && !(s.asRec 255).getLsbD 255⟩] := moves (by decide +kernel)

/-- A record of another kind waits for queue 0, which has room for it where `tail` says. -/
def recordWaits (tail : Nat) : State :=
  let s := two 0 0
  { s with pendingRecs := [.other 0 0],
           faultQueues := setAt s.faultQueues 0 ⟨2 ^ 52 + 0x20000, 0, BitVec.ofNat 16 tail, 0, false, true, 5⟩ }

/-- A fetch parked on an absent page, its record written. -/
def parked : State :=
  let s := onCtx (two 0 0) (fun x => { x with park := some ⟨3, 1, none⟩ })
  { s with tokens := [⟨3, 0, 0, 0x1000, 0, 0, 0, 1, false, true, false, false, some 0, .host, [⟨.park 0, 0x1000, 0x1000, false, true, false⟩]⟩],
           party := { s.party with bound := true } }

/-- One whose page is absent still. -/
def parkedAbsent : State :=
  let s := onCtx (paged false 0 0 0) (fun x => { x with park := some ⟨3, 1, none⟩ })
  { s with tokens := [⟨3, 0, 0, 0x40000000, 0, 0, 0, 1, false, true, false, false, some 0, .host,
             [⟨.park 0, 0x40000000, 0x40000000, false, true, false⟩]⟩],
           party := { s.party with bound := true } }

/-- An invalidation of address space 0 is busy, a translation of it loaded since. -/
noncomputable def invalidating : State :=
  { ran (.xltInvAsid (2 ^ 16)) (translated 0 0) with l1 := [⟨0, 0x1000, 4096, 0, none⟩] }

def invState (n : Nat) : State → Bool := fun s => s.xltInv.extractLsb' 62 2 == BitVec.ofNat 2 n

/-- XLT.INV's value: a page, a count, a scope and MOVE (R121). -/
def invOf (page count scope move : Nat) : BitVec 128 :=
  BitVec.ofNat 128 (page * 4096 * 2 ^ 64 + count * 2 ^ 32 + move * 2 ^ 18 + scope * 2 ^ 16)

/-- Page 0 moved three times in the last 10 ms. -/
def movedOften : State :=
  { paged false 0 0 0 with now := 11000000, tracker := [⟨0, 0, [0, 1, 2], none, false⟩] }

/-- Sequencer 0 holds a command and has completed none for the LIMIT of its reset value. -/
def hung (s : State) : State :=
  { s with now := 1100000, gate := [{ asked true with keys := (List.range 8).map (siteKey 0) }] }

theorem wit_TranslationEvents : Moves [
    ⟨recordWaits 15, .faultRecordWrite 0, fun s => (s.pendingRecs.find? (fun r => r.vf == 0)).isSome,
      fun s => s.pendingRecs.length == 1⟩,
    ⟨recordWaits 14, .faultRecordWrite 0, fun s => s.mem.wf && decide (plainKeys ((List.range 64).map (fun i =>
        s.dpaKey 0 (2 ^ 52 + 0x20000) + 64 * 14 + i))), fun s => s.pendingRecs.isEmpty && (s.queueOf 0).tail == 15⟩,
    ⟨two 0 0, .fqRespReplay 0 3, fun s => (s.outstanding 0 3).isNone, fun s => s.tokens == []⟩,
    ⟨parked, .fqRespReplay 0 3, fun s => (s.outstanding 0 3).any (fun k => k.holders.all (fun h => h.who matches .park _)),
      fun s => s.tokens == [] && (s.ctx 0).park == none⟩,
    ⟨parkedAbsent, .fqRespReplay 0 3, fun s => (match s.outstanding 0 3 with
      | some k => k.holders.length == 1 && (((s.closeToken 3).translatePage k.asid 0x40000000 1 .fetch false 0x40000000).1 matches .absent _ _)
      | none => false), fun s => s.tokens.length == 1 && (match (s.ctx 0).park with
      | some p => p.token != 3
      | none => false)⟩,
    ⟨parked, .fqRespDecline 0 3, fun _ => true, fun s => (s.ctx 0).park == some ⟨3, 1, some (1, 0)⟩⟩,
    ⟨{ parked with now := 1100000 }, .notPresentTimeout 0 3, fun s => s.party.bound && !s.party.starting,
      fun s => s.party.preempting⟩,
    ⟨{ parked with now := 1099999 }, .notPresentTimeout 0 3, fun _ => true, fun s => !s.party.preempting⟩,
    ⟨translated 0 0, .xltInvRange 0 0x1000 ⟨1, 0⟩, fun s => !invState 1 s, fun s => s.l1.length == 1 && invState 1 s⟩,
    ⟨translated 0 0, .xltInvRange 0 0x1000 ⟨0, 0⟩, fun s => !invState 1 s, fun s => s.l1.length == 2 && invState 2 s⟩,
    ⟨translated 0 0, .xltInvRange 0 0x1000 ⟨1, 3⟩, fun s => !invState 1 s, fun s => s.l1.length == 2 && invState 2 s⟩,
    ⟨translated 0 0, .xltInvAsid (invOf 0 0 1 0), fun s => !invState 1 s, fun s => s.l1.isEmpty && s.l2.length == 1⟩,
    ⟨translated 0 0, .xltInvVf (invOf 0 0 2 0), fun s => !invState 1 s, fun s => s.l1.isEmpty && s.l2.isEmpty⟩,
    ⟨invalidating, .xltInvAsid (invOf 0 0 1 0 + 2 ^ 24), invState 1, fun s => s.l2.length == 1⟩,
    ⟨movedOften, .xltInvMove 0 0 ⟨1, 0⟩, fun s => s.firstPage 0 0 == 0, fun s => s.xltInv.extractLsb' 60 2 == 1⟩,
    ⟨{ movedOften with now := 11000001 }, .xltInvMove 0 0 ⟨1, 0⟩, fun s => s.firstPage 0 0 == 0,
      fun s => s.xltInv.extractLsb' 60 2 == 0⟩,
    ⟨invalidating, .xltInvComplete, fun s => s.flights == [] && s.l1.length == 1, fun s => invState 2 s && s.l1.isEmpty⟩,
    ⟨{ two 0 0 with tracker := [⟨0, 0, [], some 9, false⟩], now := 9 }, .anchorExpiry 0 0, fun _ => true, fun s => s.tracker == []⟩,
    ⟨two 0 0, .linkGenAdvance .servex, fun s => s.flights == [] && s.msgs == [] && s.graph.inProgress == []
      && (s.scope true).queue == [], fun s => s.genOf .servex == 1⟩,
    ⟨hung (two 0 0), .seqWdogReset 0, fun s => s.wdogDue 0, fun s => (s.seq 0).resetting && s.gate == []
      && s.replies == [⟨77, .seqReset, []⟩]⟩,
    ⟨two 0 0, .seqWdogReset 0, fun s => decide (s.wall < 1100000), fun s => !(s.seq 0).resetting⟩,
    ⟨ran (.seqWdogReset 0) (hung (two 0 0)), .seqWdogReset 0, fun s => (s.seq 0).resetting, fun s => (s.seq 0).resetting⟩,
    ⟨let s := ran (.outsideRead (outReq 0 0)) (ran (.seqWdogReset 0) (hung (party 0x3FFF 0)))
     { s with now := 3300000 }, .seqResetHoldTimeout 0, fun s => s.gate.any (fun g => !g.admitted && s.waitsReset g
        && decide (g.arrived + 2200000 ≤ s.wall)), fun s => s.gate == [] && s.replies.length == 2⟩] :=
  moves (by decide +kernel)

/-- A start that step 7 fails at the latest. -/
def boot7 : BootRun := ⟨[], [], [], [], 0, some 7⟩

/-- The module with its links trained and its map saved. -/
def saved0 : State := { State.reset with house := { State.reset.house with trained := true, mapped := some [] } }

/-- The reset state when a sample is due. -/
def sampling : State := { State.reset with now := 110000 }

theorem wit_PowerAndStarts : Moves [
    ⟨State.reset, .coldStart { boot7 with failsAt := some 1 }, fun _ => true, fun s => s.house.bootStat.extractLsb' 8 4 == 1
      && s.house.bootStat.getLsbD 2⟩,
    ⟨State.reset, .coldStart { boot7 with unreached := [(1, 2)], failsAt := some 5 }, fun _ => true,
      fun s => s.house.bootStat.extractLsb' 8 4 == 5⟩,
    ⟨saved0, .bootCtlWarm 0 boot7, fun s => s.house.failEnd == none, fun s => s.house.bootStat.extractLsb' 32 32 == 0⟩,
    ⟨saved0, .bootCtlWarm 1 boot7, fun s => s.house.trained && s.house.mapped.isSome && s.house.failEnd == none,
      fun s => s.house.bootStat.getLsbD 0⟩,
    ⟨sampling, .thermSample 0 94, fun s => s.sampleDue 0, fun s => s.house.powered⟩,
    ⟨sampling, .thermSample 0 115, fun s => s.sampleDue 0, fun s => !s.house.powered⟩,
    ⟨sampling, .thermSample 95 95, fun s => s.sampleDue 95 && !s.house.above.contains 95,
      fun s => (s.house.therm[(95 : Fin 96)]).extractLsb' 8 16 == 1⟩,
    ⟨State.reset, .secAttestRequest 5 (2 ^ 52 + 64), fun _ => true, fun s => s.house.attest.isSome⟩,
    ⟨ran (.secAttestRequest 5 (2 ^ 52 + 64)) State.reset, .attestReportWrite, fun s => s.mem.wf
      && decide (plainKeys ((List.range 256).map (fun i => 2 ^ 52 + 64 + i))), fun s => s.house.attest.isNone⟩] :=
  moves (by decide +kernel)

/-- A module that a failed start has left in reset. -/
theorem wit_PowerAndStarts_reset : let s := ran (.coldStart { boot7 with failsAt := some 1 }) State.reset
    s.house.powered = true ∧ s.house.bootStat.getLsbD 2 = true ∧ s.agenda = [] := by decide +kernel

theorem wit_PowerAndStarts_dark : (ran (.thermSample 0 115) sampling).house.powered = false
    ∧ isColdStart (.nop mk) = false := by decide +kernel

/-- The list of R459's example. -/
theorem test_capability_list : [0x200, 0x208, 0x210, 0x218, 0x220].map State.reset.capWord =
    [0x0000000000410101, 0x0000000000420102, 0x0000000000430103, 0x0000000000440104, 0x0000001000000105]
    ∧ State.reset.capWord 0x100 = 0x40 := by decide +kernel

theorem wit_StepKeepsInvariant : nextOk (fun _ => true) (step (State.reset.placed [0x02])) = true := by decide +kernel

theorem test_reset_inv : Inv Machine.State.reset := by unfold Inv; decide

end Sys2Proof.Tests
end

/-! # Scalar integer results (R319, R323, R324)

The model computes on natural numbers and integers and reduces at the end; the statements speak of words of the
type's width. The first part relates the two; the second says once what an instruction under the general procedure
of R319 comes to; the third gives the values of the division and the shift table. -/

namespace Sys2Proof.Proofs

open Sys2Proof Sys2Proof.Machine Sys2Proof.Claims Sys2Proof.Laws

/-! ## Integers of a width as words of that width -/

/-- The model's signed reading of a word is the word's signed value. -/
@[simp] theorem signedOf_toNat {n : Nat} (x : BitVec n) : signedOf n x.toNat = x.toInt := by
  simp only [signedOf, Nat.mod_eq_of_lt x.isLt, BitVec.toInt_eq_toNat_cond]

/-- Reducing an integer modulo a power of two is taking it as a word. -/
theorem wrapTo_eq_toNat_ofInt (n : Nat) (i : Int) : wrapTo n i = (BitVec.ofInt n i).toNat :=
  (BitVec.toNat_ofInt i).symm

theorem intWidth_eq_bits (ty : Ty) : intWidth ty = bits ty := rfl

/-- The model's reduction and extension of a result are those of `fit` (R319). -/
theorem intExtend_eq_fit (ty : Ty) (r : Int) : intExtend ty r = fit ty (BitVec.ofInt (bits ty) r) := by
  rw [intExtend, fit, intWidth_eq_bits, wrapTo_eq_toNat_ofInt, signedOf_toNat, BitVec.ofNat_toNat, BitVec.signExtend]

/-- An operand reduced to its type's width, as a number. -/
theorem toNat_low (ty : Ty) (x : Word) : (low ty x).toNat = x.toNat % 2 ^ bits ty := BitVec.toNat_setWidth ..

/-- No type has width 0. -/
theorem bits_pos (ty : Ty) : 0 < bits ty := by cases ty <;> decide

/-! ## What an instruction under the general procedure comes to -/

section
variable {s : State} {op : Opcode} {w : Fields} {e : Entry} {t : State}

/-- An instruction of R319's general procedure gives FD the value of its function on the reduced operands. -/
theorem issue_intOp (h : Runs s op w e t) {f : Nat → Nat → Nat → Int} {r : BitVec (bits w.ty)}
    (hr : BitVec.ofInt (bits w.ty)
      (f (bits w.ty) (low w.ty (e.opA t t.cur)).toNat (low w.ty (e.opB t t.cur)).toNat) = r) :
    issue op w (intOp f) s = toFd t e (fit w.ty r) := by
  rw [issue_runs h, ← hr, toNat_low, toNat_low, ← intExtend_eq_fit, ← runs_fields h]
  rfl

/-- The same for one whose operand B is read as an unsigned 64-bit number. -/
theorem issue_intOpWide (h : Runs s op w e t) {f : Ty → Nat → Nat → Int} {r : BitVec (bits w.ty)}
    (hr : BitVec.ofInt (bits w.ty)
      (f w.ty (low w.ty (e.opA t t.cur)).toNat (e.opB t t.cur).toNat) = r) :
    issue op w (intOpWide f) s = toFd t e (fit w.ty r) := by
  rw [issue_runs h, ← hr, toNat_low, ← intExtend_eq_fit, ← runs_fields h]
  rfl

end

/-! ## The division table (R323) -/

section
variable {n : Nat} (a b : BitVec n)

/-- A divisor of value 0 is the word 0. -/
theorem toNat_eq_zero_iff : b.toNat = 0 ↔ b = 0 := by
  rw [← BitVec.toNat_inj]
  rfl

/-- DIV: truncating division, with −1 for a zero divisor. -/
theorem ofInt_div : BitVec.ofInt n (if b.toNat = 0 then -1 else (signedOf n a.toNat).tdiv (signedOf n b.toNat)) =
    BitVec.ofInt n (if b = 0 then -1 else a.toInt.tdiv b.toInt) := by
  simp only [toNat_eq_zero_iff, signedOf_toNat]

/-- DIVU: the floor of the quotient, with the largest word for a zero divisor. -/
theorem ofInt_divu : BitVec.ofInt n (if b.toNat = 0 then (2 ^ n - 1 : Nat) else ((a.toNat / b.toNat : Nat) : Int)) =
    BitVec.ofNat n (if b = 0 then 2 ^ n - 1 else a.toNat / b.toNat) := by
  simp only [toNat_eq_zero_iff, apply_ite (BitVec.ofInt n), apply_ite (BitVec.ofNat n), BitVec.ofInt_natCast]

/-- REM: what truncated division leaves, with the dividend for a zero divisor. -/
theorem ofInt_rem : BitVec.ofInt n (if b.toNat = 0 then signedOf n a.toNat
      else (signedOf n a.toNat).tmod (signedOf n b.toNat)) =
    if b = 0 then a else BitVec.ofInt n (a.toInt - b.toInt * a.toInt.tdiv b.toInt) := by
  simp only [toNat_eq_zero_iff, signedOf_toNat, Int.tmod_def, apply_ite (BitVec.ofInt n), BitVec.ofInt_toInt]

/-- REMU: the dividend modulo the divisor, with the dividend for a zero one. -/
theorem ofInt_remu : BitVec.ofInt n (if b.toNat = 0 then (a.toNat : Int) else ((a.toNat % b.toNat : Nat) : Int)) =
    if b = 0 then a else BitVec.ofNat n (a.toNat % b.toNat) := by
  simp only [toNat_eq_zero_iff, apply_ite (BitVec.ofInt n), BitVec.ofInt_natCast, BitVec.ofNat_toNat,
    BitVec.setWidth_eq]

end

/-- Settles O19: each of the four bodies is R319's procedure on its column of R323's table. -/
theorem divisionResults : Obligations.DivisionResults := by
  intro s w e t a b n
  exact ⟨fun h => issue_intOp h (ofInt_div a b), fun h => issue_intOp h (ofInt_divu a b),
    fun h => issue_intOp h (ofInt_rem a b), fun h => issue_intOp h (ofInt_remu a b)⟩

/-! ## The shift table (R324) -/

section
variable {n : Nat} (a : BitVec n) (k : Nat)

/-- SHL: shifting left within the width multiplies by a power of two, modulo the width's. -/
theorem ofInt_shl : BitVec.ofInt n (if k < n then ((a.toNat * 2 ^ k : Nat) : Int) else 0) =
    if k < n then a <<< k else 0 := by
  split
  · apply BitVec.eq_of_toNat_eq
    rw [BitVec.ofInt_natCast, BitVec.toNat_ofNat, BitVec.toNat_shiftLeft, Nat.shiftLeft_eq]
  · rfl

/-- SHR: shifting right divides by a power of two. -/
theorem ofInt_shr : BitVec.ofInt n (if k < n then ((a.toNat / 2 ^ k : Nat) : Int) else 0) =
    if k < n then a >>> k else 0 := by
  split
  · rw [BitVec.ofInt_natCast, ← Nat.shiftRight_eq_div_pow, ← BitVec.toNat_ushiftRight, BitVec.ofNat_toNat,
      BitVec.setWidth_eq]
  · rfl

/-- The two parts of a rotation, the bits that stay and those that come round, stand apart, so adding them is the
union of their bits. -/
theorem rotation_add_eq_or {m : Nat} (x : Nat) (hx : x < 2 ^ n) (hm : m ≤ n) :
    x * 2 ^ m % 2 ^ n + x / 2 ^ (n - m) = x <<< m % 2 ^ n ||| x >>> (n - m) := by
  have hn : 2 ^ n = 2 ^ m * 2 ^ (n - m) := by rw [← Nat.pow_add, Nat.add_sub_cancel' hm]
  have hround : x / 2 ^ (n - m) < 2 ^ m := Nat.div_lt_of_lt_mul (by rw [Nat.mul_comm, ← hn]; exact hx)
  rw [Nat.shiftLeft_eq, Nat.shiftRight_eq_div_pow, Nat.mul_comm x, hn, Nat.mul_mod_mul_left,
    Nat.two_pow_add_eq_or_of_lt hround]

/-- ROT: the sum of the bits moved up and of those that come round is the left rotation. -/
theorem ofInt_rot (hn : 0 < n) :
    BitVec.ofInt n ((a.toNat * 2 ^ (k % n) % 2 ^ n + a.toNat / 2 ^ (n - k % n) : Nat) : Int) =
      a.rotateLeft (k % n) := by
  have hm : k % n < n := Nat.mod_lt _ hn
  have hrot := BitVec.toNat_rotateLeft (x := a) (r := k % n)
  rw [Nat.mod_eq_of_lt hm, ← rotation_add_eq_or a.toNat a.isLt (Nat.le_of_lt hm)] at hrot
  rw [BitVec.ofInt_natCast, ← hrot, BitVec.ofNat_toNat, BitVec.setWidth_eq]

/-- SAR: the floor of the signed quotient, and the sign alone for an amount of the width or more. -/
theorem ofInt_sar :
    BitVec.ofInt n (if k < n then signedOf n a.toNat / (2 ^ k : Nat) else if signedOf n a.toNat < 0 then -1 else 0) =
      BitVec.ofInt n (if k < n then a.toInt / 2 ^ k else if a.toInt < 0 then -1 else 0) := by
  rw [signedOf_toNat, Int.natCast_pow, Int.cast_ofNat_Int]

end

/-- Settles O20: each of the four bodies is R319's procedure, with the whole operand B as the amount, on its row of
R324's table. -/
theorem shiftResults : Obligations.ShiftResults := by
  intro s w e t a k n
  exact ⟨fun h => issue_intOpWide h (ofInt_shl a k), fun h => issue_intOpWide h (ofInt_shr a k),
    fun h => issue_intOpWide h (ofInt_sar a k), fun h => issue_intOpWide h (ofInt_rot a k (bits_pos w.ty))⟩

end Sys2Proof.Proofs
